-- ==== Sys2Proof/Word.lean ====
section
/-! DEFINITION. The words of the LK9 and the fixed sets of names that its fields hold (03_bundle R75-R83, 02_number R27). -/

namespace Sys2Proof

abbrev Byte := BitVec 8
abbrev W32 := BitVec 32
abbrev W64 := BitVec 64

/-- A vector register: 16 rows of 64 columns of 32 bits (R205). The value at linear index `j` of a type of
width `w` (R206) stands at bits `[w*j+w-1 : w*j]`. -/
abbrev VReg := BitVec 32768

/-- A tensor handle's descriptor of 128 bytes, byte 0 in the low bits (R282). -/
abbrev HandleBits := BitVec 1024

/-- A scalar register number x0-x31 (R179). -/
abbrev XNo := BitVec 5
/-- A predicate number p0-p7 (R180). -/
abbrev PNo := BitVec 3
/-- A vector register number of one cluster (R205). -/
abbrev VNo := BitVec 4
/-- A tile register number t0-t63 (R246). -/
abbrev TNo := BitVec 6
/-- An accumulator number a0-a7 (R250). -/
abbrev ANo := BitVec 3
/-- A tensor handle number h0-h63 (R282). -/
abbrev HNo := BitVec 6
/-- A shape register's index within its family (R84). -/
abbrev ShNo := BitVec 2
/-- A transfer tag (R286). -/
abbrev TagNo := BitVec 9

/-- The two vector clusters (R205). -/
inductive Cluster where
  | a | b
  deriving DecidableEq, Repr, Inhabited

/-- The two copy engines and their slots (R78). -/
inductive CopyEng where
  | a | b
  deriving DecidableEq, Repr, Inhabited

/-- The slots of a bundle in header-bit order (R56). -/
inductive Slot where
  | s | va | vb | m | ca | cb | l | x
  deriving DecidableEq, Repr, Inhabited

/-- Header bit of a slot (R56). -/
def Slot.bit : Slot → Nat
  | .s => 0 | .va => 1 | .vb => 2 | .m => 3 | .ca => 4 | .cb => 5 | .l => 6 | .x => 7

/-- Size of a slot in bytes (R56). -/
def Slot.bytes : Slot → Nat
  | .s => 4 | .x => 4 | _ => 8

/-- The slots, in the order in which they follow the header (R56). -/
def Slot.all : List Slot := [.s, .va, .vb, .m, .ca, .cb, .l, .x]

/-- The V slot of a cluster (R56). -/
def Cluster.slot : Cluster → Slot
  | .a => .va | .b => .vb

/-- The C slot of a copy engine (R56). -/
def CopyEng.slot : CopyEng → Slot
  | .a => .ca | .b => .cb

/-- The other cluster (R229). -/
def Cluster.other : Cluster → Cluster
  | .a => .b | .b => .a

/-- Element types of the V slot (R81). -/
inductive VTy where
  | i8x4 | i16x2 | i32 | n8x4 | n16x2 | n32 | f16x2 | bf16x2 | f32 | f64 | i64 | n64
  deriving DecidableEq, Repr, Inhabited

/-- Rounding modes (R33, R83). -/
inductive Rnd where
  | rne | rtz | rup | rdn | rna | rto
  deriving DecidableEq, Repr, Inhabited

/-- The binary float formats (R29). -/
inductive FFmt where
  | f64 | f32 | f16 | bf16
  deriving DecidableEq, Repr, Inhabited

/-- Bank formats (R243). -/
inductive BFmt where
  | raw | f64 | f32 | f16 | bf16 | i8 | n8 | i16 | i32 | b1 | pni
  deriving DecidableEq, Repr, Inhabited

/-- The eleven functions of the function units (R232). -/
inductive Fn where
  | exp | exp2 | log | log2 | sin | cos | tanh | sigm | rsqrt | recip | erf
  deriving DecidableEq, Repr, Inhabited

/-- Quick and exact forms (R232). -/
inductive FnForm where
  | q | x
  deriving DecidableEq, Repr, Inhabited

/-- Boot states (R20). -/
inductive Boot where
  | off | reset | romboot | measure | selftest | ready | failed
  deriving DecidableEq, Repr, Inhabited

/-- The group rendezvous instructions (R155). -/
inductive Rdv where
  | lalign | wnext | phopen | phseal | phpub
  deriving DecidableEq, Repr, Inhabited

end Sys2Proof
end

