-- ==== Sys2Proof/Machine/Bits.lean ====
section
/-! DEFINITION. Bit fields, sign extension, byte order and the codes of the small fields (00_scope R7, 02_number R27, 03_bundle R81-R83). -/

namespace Sys2Proof

/-- `w[hi:lo]` of a natural number (R6, R7). -/
def fld (w hi lo : Nat) : Nat := w / 2 ^ lo % 2 ^ (hi + 1 - lo)

/-- The same field as a bit vector of its width. -/
def bfld (w lo n : Nat) : BitVec n := BitVec.ofNat n (w / 2 ^ lo)

/-- Bit `n` of a word. -/
def bit1 (w n : Nat) : Bool := w / 2 ^ n % 2 == 1

/-- 0 or 1. -/
def b2n (b : Bool) : Nat := if b then 1 else 0

/-- Two's-complement reading of the low `n` bits (R7). -/
def sextI (v n : Nat) : Int :=
  if v % 2 ^ n < 2 ^ (n - 1) then ((v % 2 ^ n : Nat) : Int) else ((v % 2 ^ n : Nat) : Int) - 2 ^ n

/-- Little-endian value of a list of bytes (R27). -/
def leNat : List Byte → Nat
  | [] => 0
  | b :: r => b.toNat + 256 * leNat r

/-- The `n` little-endian bytes of a value (R27). -/
def leBytes : Nat → Nat → List Byte
  | 0, _ => []
  | n + 1, v => BitVec.ofNat 8 v :: leBytes n (v / 256)

/-- `0, 1, …, n-1` by plain recursion. -/
def upto : Nat → List Nat
  | 0 => []
  | n + 1 => upto n ++ [n]

/-- Sum of a function over `0 … n-1`. -/
def sumN : Nat → (Nat → Nat) → Nat
  | 0, _ => 0
  | n + 1, f => sumN n f + f n

/-- Integer sum of a function over `0 … n-1`. -/
def sumI : Nat → (Nat → Int) → Int
  | 0, _ => 0
  | n + 1, f => sumI n f + f n

/-- Parity of the one bits of a natural number, by fuel. -/
def popFuel : Nat → Nat → Nat
  | 0, _ => 0
  | k + 1, v => if v = 0 then 0 else v % 2 + popFuel k (v / 2)

/-- Number of one bits below 2^n. -/
def popc (n v : Nat) : Nat := popFuel n v

/-- Number of leading zero bits of `v` in `n` bits; `n` when `v` is 0 (R182, R215). -/
def clz (n v : Nat) : Nat := if v = 0 then n else n - (Nat.log2 v + 1)

/-- Type code to type (R81); 12-15 have none. -/
def vtyOf : Nat → Option VTy
  | 0 => some .i8x4 | 1 => some .i16x2 | 2 => some .i32 | 3 => some .n8x4 | 4 => some .n16x2 | 5 => some .n32
  | 6 => some .f16x2 | 7 => some .bf16x2 | 8 => some .f32 | 9 => some .f64 | 10 => some .i64 | 11 => some .n64
  | _ => none

/-- Type to code (R81). -/
def VTy.code : VTy → Nat
  | .i8x4 => 0 | .i16x2 => 1 | .i32 => 2 | .n8x4 => 3 | .n16x2 => 4 | .n32 => 5
  | .f16x2 => 6 | .bf16x2 => 7 | .f32 => 8 | .f64 => 9 | .i64 => 10 | .n64 => 11

/-- Rounding code to mode (R83). -/
def rndOf : Nat → Option Rnd
  | 0 => some .rne | 1 => some .rtz | 2 => some .rup | 3 => some .rdn | 4 => some .rna | 5 => some .rto
  | _ => none

/-- Mode to rounding code (R83). -/
def Rnd.code : Rnd → Nat
  | .rne => 0 | .rtz => 1 | .rup => 2 | .rdn => 3 | .rna => 4 | .rto => 5

/-- Value width of a type (R206). -/
def VTy.width : VTy → Nat
  | .i8x4 => 8 | .n8x4 => 8
  | .i16x2 => 16 | .n16x2 => 16 | .f16x2 => 16 | .bf16x2 => 16
  | .i32 => 32 | .n32 => 32 | .f32 => 32
  | .f64 => 64 | .i64 => 64 | .n64 => 64

/-- The float format of a float type (R27, R29). -/
def VTy.float? : VTy → Option FFmt
  | .f16x2 => some .f16 | .bf16x2 => some .bf16 | .f32 => some .f32 | .f64 => some .f64
  | _ => none

/-- Float types are codes 6-9 (R209). -/
def VTy.isFloat (t : VTy) : Bool := t.float?.isSome

/-- i types are signed; n types are not (R28). -/
def VTy.signed : VTy → Bool
  | .i8x4 => true | .i16x2 => true | .i32 => true | .i64 => true
  | _ => false

/-- Values per register (R206). -/
def VTy.lanes (t : VTy) : Nat := 32768 / t.width

/-- Bank format code to format (R243); 11-15 are never held. -/
def bfmtOf : Nat → Option BFmt
  | 0 => some .raw | 1 => some .f64 | 2 => some .f32 | 3 => some .f16 | 4 => some .bf16 | 5 => some .i8
  | 6 => some .n8 | 7 => some .i16 | 8 => some .i32 | 9 => some .b1 | 10 => some .pni
  | _ => none

/-- Element size in bytes of a byte-sized format (R247, R282). -/
def BFmt.bytes : BFmt → Nat
  | .f64 => 8 | .f32 => 4 | .i32 => 4 | .f16 => 2 | .bf16 => 2 | .i16 => 2
  | _ => 1

/-- The float format of a bank format. -/
def BFmt.float? : BFmt → Option FFmt
  | .f64 => some .f64 | .f32 => some .f32 | .f16 => some .f16 | .bf16 => some .bf16
  | _ => none

/-- The function and form of a function opcode 0x60-0x75 (R232). -/
def fnOf : Nat → Option Fn
  | 0 => some .exp | 1 => some .exp2 | 2 => some .log | 3 => some .log2 | 4 => some .sin | 5 => some .cos
  | 6 => some .tanh | 7 => some .sigm | 8 => some .rsqrt | 9 => some .recip | 10 => some .erf
  | _ => none

/-- Position of a function in the opcode table (R232). -/
def Fn.code : Fn → Nat
  | .exp => 0 | .exp2 => 1 | .log => 2 | .log2 => 3 | .sin => 4 | .cos => 5
  | .tanh => 6 | .sigm => 7 | .rsqrt => 8 | .recip => 9 | .erf => 10

/-- The lane of width `w` at linear index `j` of a vector register (R206). -/
def lane (w j : Nat) (v : VReg) : BitVec w := v.extractLsb' (w * j) w

/-- Packs `n` lanes of width `w`, lane 0 lowest. -/
def packLanes (w : Nat) (f : Nat → BitVec w) : Nat → Nat
  | 0 => 0
  | n + 1 => packLanes w f n + (f n).toNat * 2 ^ (w * n)

/-- The register whose lane `j` of width `w` is `f j`, for every lane (R206). -/
def ofLanes (w : Nat) (f : Nat → BitVec w) : VReg := BitVec.ofNat 32768 (packLanes w f (32768 / w))

end Sys2Proof
end

