-- ==== Sys2Proof/Syntax.lean ====
section
/-! DEFINITION. The instructions of the LK9: one constructor per row of the table of operations and events
(03_bundle R89-R94, 95_what_each_step_holds). -/

namespace Sys2Proof

/-- An operation that another party asks of a home (R360, R400, R17). -/
inductive FarOp where
  /-- `n` bytes are read. -/
  | read (n : Nat)
  /-- Bytes are written. -/
  | write (bytes : List Byte)
  /-- An ATOM operation 0-9 of R294 with its one or two operands. -/
  | atom (op sz : Nat) (v v2 : W64)
  /-- A RED operation 0-7 or 11 of R294. -/
  | red (op sz : Nat) (v : W64)
  deriving DecidableEq, Repr, Inhabited

/-- What a far device answers to a request of the part (R399, R415). Requests within the part ignore it. -/
inductive FarResp where
  | ok (data : List Byte)
  /-- A line that comes with the poison flag of the stack link protocol (R414). -/
  | poison (data : List Byte)
  | refused
  deriving DecidableEq, Repr, Inhabited

/-- The verdict on a chain (R407). -/
inductive Verdict where
  | ok | bad | refused
  deriving DecidableEq, Repr, Inhabited

/-- Who issued an operation: its context (4,096 and above: none), its core (1,024 and above: none) and its virtual address. -/
structure Origin where
  ctx : Nat
  core : Nat
  va : Nat
  deriving DecidableEq, Repr, Inhabited

/-- What signs a firmware image: an RSA public key, modulus and exponent, and the signature (R21). -/
structure Signer where
  modulus : Nat
  exponent : Nat
  signature : BitVec 3072
  deriving DecidableEq, Repr, Inhabited

/-- The cores and the bays that a self-test finds failed (R20). -/
structure Failed where
  cores : List Nat
  bays : List Nat
  deriving DecidableEq, Repr, Inhabited

/-- The instructions and events of the LK9, in the order of the opcode table. -/
inductive Instr where
  /-- ADD (R182). -/
  | add (d a b : XNo) (s w : Bool)
  /-- SUB (R182). -/
  | sub (d a b : XNo) (s w : Bool)
  /-- MUL (R182). -/
  | mul (d a b : XNo) (s w : Bool)
  /-- MULH (R182). -/
  | mulh (d a b : XNo)
  /-- MULHU (R182). -/
  | mulhu (d a b : XNo)
  /-- DIV (R184). -/
  | div (d a b : XNo) (w : Bool)
  /-- DIVU (R184). -/
  | divu (d a b : XNo) (w : Bool)
  /-- REM (R184). -/
  | rem (d a b : XNo) (w : Bool)
  /-- REMU (R184). -/
  | remu (d a b : XNo) (w : Bool)
  /-- AND (R182). -/
  | and (d a b : XNo)
  /-- OR (R182). -/
  | or (d a b : XNo)
  /-- XOR (R182). -/
  | xor (d a b : XNo)
  /-- SLL (R182). -/
  | sll (d a b : XNo) (s w : Bool)
  /-- SRL (R182). -/
  | srl (d a b : XNo) (w : Bool)
  /-- SRA (R182). -/
  | sra (d a b : XNo) (w : Bool)
  /-- MIN (R182). -/
  | min (d a b : XNo)
  /-- MAX (R182). -/
  | max (d a b : XNo)
  /-- MINU (R182). -/
  | minu (d a b : XNo)
  /-- MAXU (R182). -/
  | maxu (d a b : XNo)
  /-- CLZ (R182). -/
  | clz (d a : XNo) (w : Bool)
  /-- POPC (R182). -/
  | popc (d a : XNo) (w : Bool)
  /-- CMP (R189). -/
  | cmp (p : PNo) (a b : XNo) (w : Bool) (cc : BitVec 4)
  /-- SEL (R191). -/
  | sel (d a b : XNo) (p : PNo)
  /-- PLOG (R192). -/
  | plog (d a b : PNo) (t : BitVec 4)
  /-- ADDI (R186). -/
  | addi (d a : XNo) (imm : BitVec 16)
  /-- ANDI (R186). -/
  | andi (d a : XNo) (imm : BitVec 16)
  /-- ORI (R186). -/
  | ori (d a : XNo) (imm : BitVec 16)
  /-- XORI (R186). -/
  | xori (d a : XNo) (imm : BitVec 16)
  /-- SLLI (R186). -/
  | slli (d a : XNo) (sh : BitVec 6)
  /-- SRLI (R186). -/
  | srli (d a : XNo) (sh : BitVec 6)
  /-- SRAI (R186). -/
  | srai (d a : XNo) (sh : BitVec 6)
  /-- LI (R187). -/
  | li (d : XNo) (imm : BitVec 16)
  /-- LIS (R187). -/
  | lis (d a : XNo) (imm : BitVec 16)
  /-- CMPI (R190). -/
  | cmpi (p : PNo) (a : XNo) (cc : BitVec 3) (imm : BitVec 13)
  /-- BFX, `len` the length minus 1 (R188). -/
  | bfx (d a : XNo) (se : Bool) (len pos : BitVec 6)
  /-- BFI, `len` the length minus 1 (R188). -/
  | bfi (d a : XNo) (len pos : BitVec 6)
  /-- BR (R193). -/
  | br (neg : Bool) (p : PNo) (disp : BitVec 21)
  /-- CALL (R194). -/
  | call (l : XNo) (disp : BitVec 21)
  /-- JR (R194). -/
  | jr (d a : XNo)
  /-- LOOP (R195). -/
  | loop (c : XNo) (disp : BitVec 21)
  /-- LDS (R197). -/
  | lds (d b : XNo) (size : BitVec 2) (off : BitVec 14)
  /-- LDZ (R197). -/
  | ldz (d b : XNo) (size : BitVec 2) (off : BitVec 14)
  /-- ST (R197). -/
  | st (d b : XNo) (size : BitVec 2) (off : BitVec 14)
  /-- SHW (R200). -/
  | shw (n : BitVec 4) (a : XNo) (f : BitVec 3)
  /-- LITR (R201). -/
  | litr (d a : XNo) (imm : BitVec 12)
  /-- CSRR (R202). -/
  | csrr (d : XNo) (csr : BitVec 16)
  /-- CSRW (R202). -/
  | csrw (a : XNo) (csr : BitVec 16)
  /-- TDW (R248). -/
  | tdw (n : TNo) (a : XNo)
  /-- BFW (R244). -/
  | bfw (n : BitVec 4) (a : XNo)
  /-- NOP (R62). -/
  | nop
  /-- NOPN (R62). -/
  | nopn (n : BitVec 16)
  /-- END (R148). -/
  | endp
  /-- LALIGN (R158). -/
  | lalign
  /-- WNEXT (R165). -/
  | wnext (d : PNo)
  /-- PHOPEN (R312). -/
  | phopen (a : XNo) (e1 : Bool) (acc1 : ANo) (e0 : Bool) (acc0 : ANo)
  /-- PHSEAL (R314). -/
  | phseal
  /-- PHPUB (R315). -/
  | phpub
  /-- PHACQ (R317). -/
  | phacq
  /-- PFENCE (R369). -/
  | pfence
  /-- TRAP (R388). -/
  | trap (imm : BitVec 16)
  /-- TRET (R389). -/
  | tret
  /-- BINIT (R334). -/
  | binit (a b : XNo)
  /-- BARR (R334). -/
  | barr (a : XNo)
  /-- BARR.G (R334). -/
  | barrG (a : XNo)
  /-- BEXP (R334). -/
  | bexp (a b : XNo) (arr : Bool)
  /-- BTEST (R334). -/
  | btest (a d : XNo) (h : Bool)
  /-- BWAIT (R334). -/
  | bwait (a b : XNo)
  /-- SBWAIT on a tile register (R74). -/
  | sbwaitTile (f : Bool) (n : TNo)
  /-- SBWAIT on an accumulator (R74). -/
  | sbwaitAcc (f : Bool) (n : ANo)
  /-- ENQ (R136). -/
  | enq (a : XNo) (q : BitVec 10)
  /-- QSIG (R136). -/
  | qsig (a b : XNo) (o : Bool)
  /-- QWAIT (R136). -/
  | qwait (a b : XNo)
  /-- PGINV (R352). -/
  | pginv (a b : XNo)
  /-- PGPROBE (R352). -/
  | pgprobe (a d : XNo)
  /-- PGMIG (R352). -/
  | pgmig (a b : XNo) (ret : Bool)
  /-- DIGRD (R307). -/
  | digrd (d : XNo)
  /-- EVPOST (R123). -/
  | evpost (a b : XNo) (code : BitVec 16)
  /-- VADD (R210). -/
  | vadd (c : Cluster) (vd va vb : VNo) (p : PNo) (neg : Bool) (ty : VTy) (rnd : Rnd) (s : Bool)
  /-- VSUB (R210). -/
  | vsub (c : Cluster) (vd va vb : VNo) (p : PNo) (neg : Bool) (ty : VTy) (rnd : Rnd) (s : Bool)
  /-- VMUL (R210). -/
  | vmul (c : Cluster) (vd va vb : VNo) (p : PNo) (neg : Bool) (ty : VTy) (rnd : Rnd) (s : Bool)
  /-- VFMA (R211). -/
  | vfma (c : Cluster) (vd va vb vc : VNo) (p : PNo) (neg : Bool) (ty : VTy) (rnd : Rnd)
  /-- VFMS (R211). -/
  | vfms (c : Cluster) (vd va vb vc : VNo) (p : PNo) (neg : Bool) (ty : VTy) (rnd : Rnd)
  /-- VMIN (R212). -/
  | vmin (c : Cluster) (vd va vb : VNo) (p : PNo) (ty : VTy)
  /-- VMAX (R212). -/
  | vmax (c : Cluster) (vd va vb : VNo) (p : PNo) (ty : VTy)
  /-- VABS (R212). -/
  | vabs (c : Cluster) (vd va : VNo) (p : PNo) (ty : VTy) (s : Bool)
  /-- VCSGN (R212). -/
  | vcsgn (c : Cluster) (vd va vb : VNo) (p : PNo) (ty : VTy)
  /-- VMULH (R212). -/
  | vmulh (c : Cluster) (vd va vb : VNo) (p : PNo) (ty : VTy)
  /-- VAND (R213). -/
  | vand (c : Cluster) (vd va vb : VNo) (p : PNo)
  /-- VOR (R213). -/
  | vor (c : Cluster) (vd va vb : VNo) (p : PNo)
  /-- VXOR (R213). -/
  | vxor (c : Cluster) (vd va vb : VNo) (p : PNo)
  /-- VNOT (R213). -/
  | vnot (c : Cluster) (vd va : VNo) (p : PNo)
  /-- VSLL (R214). -/
  | vsll (c : Cluster) (vd va vb : VNo) (p : PNo) (ty : VTy) (i : Bool) (n : BitVec 6)
  /-- VSRL (R214). -/
  | vsrl (c : Cluster) (vd va vb : VNo) (p : PNo) (ty : VTy) (i : Bool) (n : BitVec 6)
  /-- VSRA (R214). -/
  | vsra (c : Cluster) (vd va vb : VNo) (p : PNo) (ty : VTy) (i : Bool) (n : BitVec 6)
  /-- VCMP (R216). -/
  | vcmp (c : Cluster) (vd va vb : VNo) (p : PNo) (ty : VTy) (cc : BitVec 4) (pd : PNo) (all : Bool)
  /-- VSEL (R213). -/
  | vsel (c : Cluster) (vd va vb vc : VNo) (p : PNo)
  /-- VCVT (R217). -/
  | vcvt (c : Cluster) (vd va : VNo) (p : PNo) (ty : VTy) (rnd : Rnd) (src : VTy) (h : BitVec 2) (s : Bool)
  /-- VCLZ (R215). -/
  | vclz (c : Cluster) (vd va : VNo) (p : PNo) (ty : VTy)
  /-- VPOPC (R215). -/
  | vpopc (c : Cluster) (vd va : VNo) (p : PNo) (ty : VTy)
  /-- VMOV (R213). -/
  | vmov (c : Cluster) (vd va : VNo) (p : PNo)
  /-- VSPLAT (R219). -/
  | vsplat (c : Cluster) (vd : VNo) (p : PNo) (ty : VTy) (xs : XNo)
  /-- VIOTA (R219). -/
  | viota (c : Cluster) (vd : VNo) (p : PNo) (ty : VTy) (xs : XNo)
  /-- VLI (R219). -/
  | vli (c : Cluster) (vd : VNo) (p : PNo) (ty : VTy) (imm : BitVec 16)
  /-- VROTR (R220). -/
  | vrotr (c : Cluster) (vd va : VNo) (p : PNo) (ty : VTy) (i : Bool) (n : BitVec 6) (xs : XNo)
  /-- VROTC (R220). -/
  | vrotc (c : Cluster) (vd va : VNo) (p : PNo) (ty : VTy) (i : Bool) (n : BitVec 6) (xs : XNo)
  /-- VBCR (R220). -/
  | vbcr (c : Cluster) (vd va : VNo) (p : PNo) (ty : VTy) (i : Bool) (n : BitVec 6) (xs : XNo)
  /-- VBCC (R220). -/
  | vbcc (c : Cluster) (vd va : VNo) (p : PNo) (ty : VTy) (i : Bool) (n : BitVec 6) (xs : XNo)
  /-- VREDR (R221). -/
  | vredr (c : Cluster) (vd va : VNo) (p : PNo) (ty : VTy) (rnd : Rnd) (op : BitVec 2)
  /-- VREDC (R221). -/
  | vredc (c : Cluster) (vd va : VNo) (p : PNo) (ty : VTy) (rnd : Rnd) (op : BitVec 2)
  /-- VSCANR (R222). -/
  | vscanr (c : Cluster) (vd va : VNo) (p : PNo) (ty : VTy) (rnd : Rnd) (op : BitVec 2) (ex : Bool)
  /-- VSCANC (R222). -/
  | vscanc (c : Cluster) (vd va : VNo) (p : PNo) (ty : VTy) (rnd : Rnd) (op : BitVec 2) (ex : Bool)
  /-- VCOMPACT (R223). -/
  | vcompact (c : Cluster) (vd va vb vc : VNo) (p : PNo) (xc : XNo)
  /-- VEXT (R224). -/
  | vext (c : Cluster) (va : VNo) (p : PNo) (ty : VTy) (xd : XNo) (row : BitVec 4) (col : BitVec 6)
  /-- VEXP.Q (R232). -/
  | vexpQ (c : Cluster) (vd va : VNo) (p : PNo) (ty : VTy)
  /-- VEXP.X (R232). -/
  | vexpX (c : Cluster) (vd va : VNo) (p : PNo) (ty : VTy)
  /-- VEXP2.Q (R232). -/
  | vexp2Q (c : Cluster) (vd va : VNo) (p : PNo) (ty : VTy)
  /-- VEXP2.X (R232). -/
  | vexp2X (c : Cluster) (vd va : VNo) (p : PNo) (ty : VTy)
  /-- VLOG.Q (R232). -/
  | vlogQ (c : Cluster) (vd va : VNo) (p : PNo) (ty : VTy)
  /-- VLOG.X (R232). -/
  | vlogX (c : Cluster) (vd va : VNo) (p : PNo) (ty : VTy)
  /-- VLOG2.Q (R232). -/
  | vlog2Q (c : Cluster) (vd va : VNo) (p : PNo) (ty : VTy)
  /-- VLOG2.X (R232). -/
  | vlog2X (c : Cluster) (vd va : VNo) (p : PNo) (ty : VTy)
  /-- VSIN.Q (R232). -/
  | vsinQ (c : Cluster) (vd va : VNo) (p : PNo) (ty : VTy)
  /-- VSIN.X (R232). -/
  | vsinX (c : Cluster) (vd va : VNo) (p : PNo) (ty : VTy)
  /-- VCOS.Q (R232). -/
  | vcosQ (c : Cluster) (vd va : VNo) (p : PNo) (ty : VTy)
  /-- VCOS.X (R232). -/
  | vcosX (c : Cluster) (vd va : VNo) (p : PNo) (ty : VTy)
  /-- VTANH.Q (R232). -/
  | vtanhQ (c : Cluster) (vd va : VNo) (p : PNo) (ty : VTy)
  /-- VTANH.X (R232). -/
  | vtanhX (c : Cluster) (vd va : VNo) (p : PNo) (ty : VTy)
  /-- VSIGM.Q (R232). -/
  | vsigmQ (c : Cluster) (vd va : VNo) (p : PNo) (ty : VTy)
  /-- VSIGM.X (R232). -/
  | vsigmX (c : Cluster) (vd va : VNo) (p : PNo) (ty : VTy)
  /-- VRSQRT.Q (R232). -/
  | vrsqrtQ (c : Cluster) (vd va : VNo) (p : PNo) (ty : VTy)
  /-- VRSQRT.X (R232). -/
  | vrsqrtX (c : Cluster) (vd va : VNo) (p : PNo) (ty : VTy)
  /-- VRECIP.Q (R232). -/
  | vrecipQ (c : Cluster) (vd va : VNo) (p : PNo) (ty : VTy)
  /-- VRECIP.X (R232). -/
  | vrecipX (c : Cluster) (vd va : VNo) (p : PNo) (ty : VTy)
  /-- VERF.Q (R232). -/
  | verfQ (c : Cluster) (vd va : VNo) (p : PNo) (ty : VTy)
  /-- VERF.X (R232). -/
  | verfX (c : Cluster) (vd va : VNo) (p : PNo) (ty : VTy)
  /-- VSHAWM (R239). -/
  | vshawm (c : Cluster) (vd va : VNo) (p : PNo) (v : Bool) (xc xk : XNo)
  /-- VSHAWMF (R239). -/
  | vshawmf (c : Cluster) (vd va : VNo) (p : PNo) (v : Bool) (xc xk : XNo)
  /-- VLD (R225). -/
  | vld (c : Cluster) (vd : VNo) (p : PNo) (xb xs : XNo) (off : BitVec 16)
  /-- VST (R225, R226). -/
  | vst (c : Cluster) (va vc : VNo) (p : PNo) (ty : VTy) (m : Bool) (xb xs : XNo) (off : BitVec 16)
  /-- XMV from cluster `c` to the other (R229). -/
  | xmv (c : Cluster) (vd va : VNo) (p : PNo)
  /-- RANK (R271). -/
  | rank (vd va : VNo) (p : PNo) (ty : VTy) (k : BitVec 7)
  /-- RANKT (R271). -/
  | rankt (vd va : VNo) (p : PNo) (ty : VTy) (k : BitVec 7) (xt : XNo)
  /-- RVAL (R274). -/
  | rval (vd va : VNo) (p : PNo) (xf : XNo)
  /-- VATT (R273). -/
  | vatt (va : VNo) (p : PNo) (row : BitVec 4)
  /-- MMA (R253). -/
  | mma (acc : ANo) (tA tB : TNo) (sh : ShNo) (sw : Bool) (pa pb : BitVec 4) (sub : Bool)
  /-- IMMA (R253). -/
  | imma (acc : ANo) (tA tB : TNo) (sh : ShNo) (sw : Bool) (pa pb : BitVec 4) (sub : Bool)
  /-- PMM (R253). -/
  | pmm (acc : ANo) (tA tB : TNo) (sh : ShNo) (sw : Bool) (pa pb : BitVec 4) (sub : Bool)
  /-- PMMS (R253). -/
  | pmms (acc : ANo) (tA tB : TNo) (sh : ShNo) (sw : Bool) (pa pb : BitVec 4) (sub : Bool)
  /-- BMM (R253). -/
  | bmm (acc : ANo) (tA tB : TNo) (sh : ShNo) (sw : Bool) (pa pb : BitVec 4) (sub : Bool)
  /-- MMAS (R253). -/
  | mmas (acc : ANo) (tA tB : TNo) (sh : ShNo) (sw : Bool) (pa pb : BitVec 4) (sub : Bool)
  /-- RACC (R275). -/
  | racc (acc : ANo) (tA tB : TNo) (sh : ShNo) (sw : Bool) (pb : BitVec 4) (sub : Bool)
  /-- ANCH (R257). -/
  | anch (acc : ANo)
  /-- NORM (R257). -/
  | norm (acc : ANo)
  /-- AZERO (R257). -/
  | azero (acc : ANo)
  /-- ACCRD (R260). -/
  | accrd (acc : ANo) (td ts : TNo) (sh : ShNo) (sw : Bool) (sc : Bool) (rnd : Rnd) (fmt : VTy)
  /-- ACCADD (R257). -/
  | accadd (acc src : ANo)
  /-- ACCMV (R257). -/
  | accmv (acc src : ANo)
  /-- ACCSV (R261). -/
  | accsv (acc : ANo) (t : TNo)
  /-- ACCLD (R261). -/
  | accld (acc : ANo) (t : TNo)
  /-- TTRN (R262). -/
  | ttrn (tA tB : TNo) (sh : ShNo) (sw : Bool)
  /-- TZERO (R262). -/
  | tzero (t : TNo)
  /-- KCHK (R266). -/
  | kchk (seed : BitVec 8)
  /-- TLD (R288). -/
  | tld (e : CopyEng) (g : TagNo) (t : TNo) (h : HNo) (sh : ShNo) (sw : Bool) (cb : XNo) (pr : BitVec 24)
  /-- TST (R288). -/
  | tst (e : CopyEng) (g : TagNo) (t : TNo) (h : HNo) (sh : ShNo) (sw : Bool) (cb : XNo)
  /-- PREF (R290). -/
  | pref (e : CopyEng) (g : TagNo) (h : HNo) (sh : ShNo) (sw : Bool) (cb : XNo)
  /-- TGATH (R289). -/
  | tgath (e : CopyEng) (g : TagNo) (t : TNo) (h : HNo) (sh : ShNo) (sw : Bool) (cb xi : XNo) (pr : BitVec 24)
  /-- TSCAT (R289). -/
  | tscat (e : CopyEng) (g : TagNo) (t : TNo) (h : HNo) (sh : ShNo) (sw : Bool) (cb xi : XNo)
  /-- TLDB (R289). -/
  | tldb (e : CopyEng) (g : TagNo) (t : TNo) (h : HNo) (sh : ShNo) (sw : Bool) (cb : XNo) (pr : BitVec 24)
  /-- SCOPY.ld (R291). -/
  | scopyLd (e : CopyEng) (g : TagNo) (t : TNo) (sh : ShNo) (sw : Bool) (xa xs : XNo) (pr : BitVec 24)
  /-- SCOPY.st (R291). -/
  | scopySt (e : CopyEng) (g : TagNo) (t : TNo) (sh : ShNo) (sw : Bool) (xa xs : XNo)
  /-- VTLD (R292). -/
  | vtld (e : CopyEng) (t : TNo) (sh : ShNo) (sw : Bool) (xo xs : XNo)
  /-- VTST (R292). -/
  | vtst (e : CopyEng) (t : TNo) (sh : ShNo) (sw : Bool) (xo xs : XNo)
  /-- TFILL (R293). -/
  | tfill (e : CopyEng) (t : TNo) (sh : ShNo) (sw : Bool) (xv : XNo)
  /-- ATOM (R294). -/
  | atom (e : CopyEng) (g : TagNo) (t : TNo) (op : BitVec 6) (sz : BitVec 2) (xa xv : XNo) (pr : BitVec 24)
  /-- RED (R294). -/
  | red (e : CopyEng) (g : TagNo) (op : BitVec 6) (sz : BitVec 2) (xa xv : XNo)
  /-- REDT (R296). -/
  | redt (e : CopyEng) (g : TagNo) (t : TNo) (h : HNo) (sh : ShNo) (sw : Bool) (cb : XNo) (op : BitVec 5)
  /-- HLD (R298). -/
  | hld (e : CopyEng) (t : TNo) (h : HNo)
  /-- HST (R298). -/
  | hst (e : CopyEng) (t : TNo) (h : HNo)
  /-- HMOD (R298). -/
  | hmod (e : CopyEng) (h : HNo) (xv : XNo) (f : BitVec 8)
  /-- OVL (R149). -/
  | ovl (e : CopyEng) (g : TagNo) (n : BitVec 24)
  /-- SEND (R159, R403). -/
  | send (port : BitVec 5) (t : TNo) (peer : BitVec 10)
  /-- RECV (R159, R403). -/
  | recv (port : BitVec 5) (t : TNo) (peer : BitVec 10) (ts : BitVec 24)
  /-- SENDR, `k` and `rows` minus 1 (R278). -/
  | sendr (port : BitVec 5) (t : TNo) (peer : BitVec 10) (k : BitVec 6) (rows : BitVec 4)
  /-- RECVR, `k` and `rows` minus 1 (R278). -/
  | recvr (port : BitVec 5) (t : TNo) (peer : BitVec 10) (k : BitVec 6) (rows : BitVec 4) (ts : BitVec 24)
  /-- RADD (R404). -/
  | radd (port : BitVec 5) (t : TNo) (peer : BitVec 10) (ts : BitVec 24)
  /-- RMAX (R404). -/
  | rmax (port : BitVec 5) (t : TNo) (peer : BitVec 10) (ts : BitVec 24)
  /-- RMIN (R404). -/
  | rmin (port : BitVec 5) (t : TNo) (peer : BitVec 10) (ts : BitVec 24)
  /-- LCOPY (R405). -/
  | lcopy (port : BitVec 5) (t : TNo) (sh : ShNo) (sw : Bool) (xd xbar xe : XNo) (f s : Bool) (len8 : BitVec 3)
  /-- LCRCR (R408). -/
  | lcrcr (d : XNo)
  /-- LCRCW (R408). -/
  | lcrcw (a : XNo)
  /-- LSTAT (R408). -/
  | lstat (port : BitVec 5) (d : XNo)
  /-- LFENCE (R408). -/
  | lfence (q : Bool)
  /-- The next due result of a core lands (R63, R64). -/
  | resultLanding (core : Nat)
  /-- A stalled bundle is checked again and issues (R72, R97). -/
  | stallRelease (core : Nat)
  /-- An engine reader has finished reading (R69). -/
  | engineReadFinished (core id : Nat)
  /-- The oldest matrix operation of a core is done (R263). -/
  | engineOpDone (core : Nat)
  /-- A copy-slot transfer is done (R287). -/
  | transferDone (core id : Nat)
  /-- One pending line of an overlay lands (R149). -/
  | ovlLineLanded (core line : Nat)
  /-- A stall past a promise exceeds SLACK (R286). -/
  | promise (core : Nat)
  /-- A known-answer check is injected (R146). -/
  | injectedCheck (core : Nat)
  /-- The oldest known-answer check completes; `ok` says that the engine computed the right digest (R267). -/
  | kchkComplete (core : Nat) (ok : Bool)
  /-- A pending boundary cause is taken (R385). -/
  | boundaryTrapEntry (core : Nat)
  /-- BUDG has passed 65,536 (R390). -/
  | handlerBudgetExceeded (core : Nat)
  /-- A core retires after END (R148). -/
  | coreRetire (core : Nat)
  /-- The last core of a group has reached the rendezvous (R155). -/
  | groupRendezvous (k g : Nat)
  /-- A walker hands an ordinal to a waiting group (R164). -/
  | dispatch (k bay g : Nat)
  /-- An empty walker steals half of the largest range (R166). -/
  | workSteal (k bay : Nat)
  /-- A running kernel is pre-empted (R173). -/
  | kernelPreempt (k : Nat)
  /-- A pre-empted kernel resumes on granted bays (R174). -/
  | kernelResume (k : Nat) (bays : List Nat)
  /-- Every core holds its start state (R147). -/
  | kernelLoadDone (k : Nat)
  /-- Every core has retired and every ordinal has committed (R147). -/
  | kernelFinish (k : Nat)
  /-- The kernel retires (R147). -/
  | kernelRetire (k : Nat)
  /-- A PHPUB drain completes and prepare tokens go out (R315). -/
  | phasePrepare (k g : Nat)
  /-- A home votes on a prepare token (R324). -/
  | homePrepareVote (k g home : Nat) (far : FarResp)
  /-- A home applies a phase's held stores (R316). -/
  | homeCommitApply (k g home : Nat)
  /-- Every commit acknowledgement has arrived (R311). -/
  | phaseCommitComplete (k g : Nat)
  /-- A cancelled phase restarts (R320). -/
  | phaseCancel (k g : Nat)
  /-- Poison found after acceptance is reported (R151). -/
  | lateFault (who : Origin) (addr : Nat)
  /-- Supplies become valid (R20). -/
  | suppliesValid
  /-- PERST# is deasserted (R20). -/
  | perstDeassert
  /-- PERST# is asserted (R20). -/
  | perstAssert
  /-- The firmware signature check completes, over the signer and the image's digest (R21). -/
  | firmwareSignatureCheck (signer : Signer) (digest : BitVec 256)
  /-- Training is done; the digests of its stages are extended into MREG1-MREG5 (R20). -/
  | measureDone (digests : List (BitVec 256))
  /-- Self-test completes; `dead` says that a stack or quadrant failed (R20). -/
  | selftestDone (bad : Failed) (badPlanes : List Nat) (dead : Bool)
  /-- The 1 ms power average is evaluated; `drew` are the islands that drew most, whose clocks are lowered first (R14). -/
  | powerWindowCheck (watts : Nat) (drew : List Nat)
  /-- The global-issue gates close (R14). -/
  | globalIssueGateClose
  /-- The global-issue gates reopen (R14). -/
  | globalIssueGateOpen
  /-- A write to APBASE (R19). -/
  | apbaseWrite (v : W64)
  /-- A write to ATTGO (R23). -/
  | attgo (v : W64)
  /-- The attestation report has been built (R23). -/
  | attestationReportDone
  /-- A write to a host register without a row of its own (R19). -/
  | registerWrite (off : Nat) (v : W64)
  /-- CTXCMD create (R114). -/
  | ctxCreate (ctx : Nat)
  /-- CTXCMD suspend (R119). -/
  | ctxSuspend (ctx : Nat)
  /-- CTXCMD resume (R116). -/
  | ctxResume (ctx : Nat)
  /-- CTXCMD kill (R116). -/
  | ctxKill (ctx : Nat)
  /-- CTXCMD destroy (R116). -/
  | ctxDestroy (ctx : Nat)
  /-- A doorbell write (R126). -/
  | doorbellWrite (off : Nat) (v : W64)
  /-- QCTL OP 1 (R127). -/
  | queueEnable
  /-- QCTL OP 2 (R127). -/
  | queueDisable
  /-- QCTL OP 3 (R127). -/
  | queueReset (base : Nat)
  /-- The scheduler picks a READY queue (R130). -/
  | queueArbitrate (ctx q : Nat)
  /-- A NOP packet (R132). -/
  | packetNop (ctx q : Nat)
  /-- A LAUNCH packet; `bays` are those the bay manager grants (R139, R144). -/
  | launch (ctx q : Nat) (bays : List Nat)
  /-- A COPY packet (R132). -/
  | copy (ctx q : Nat)
  /-- A SIGNAL packet (R132). -/
  | signal (ctx q : Nat)
  /-- A WAIT packet (R132). -/
  | wait (ctx q : Nat)
  /-- A MODE packet (R133). -/
  | mode (ctx q : Nat)
  /-- A CHECKPOINT packet (R417). -/
  | checkpoint (ctx q : Nat)
  /-- The slices have been written, or a link, entry and offset were refused (R417). -/
  | checkpointComplete (refusal : Option (Nat × Nat × Nat))
  /-- A QUERY packet (R132). -/
  | query (ctx q : Nat)
  /-- The oldest finished packet's completion record is written (R134). -/
  | packetComplete (ctx q : Nat)
  /-- A request arrives at its home (R368). -/
  | homeRequest (id : Nat) (far : FarResp)
  /-- A home's acknowledgement reaches its source (R372). -/
  | homeAck (id : Nat)
  /-- A FADD addend enters a reduction unit (R370). -/
  | reductionAddend (id : Nat)
  /-- A partial cell reaches 64 clk of age (R370). -/
  | reductionPartialTimeout (plane addr : Nat)
  /-- A counted-delivery sector lands (R340). -/
  | sectorDelivery (id n : Nat)
  /-- A BARR.G arrival is applied (R341). -/
  | remoteArrival (id : Nat)
  /-- A flit fails 16 retries on a plane segment (R374). -/
  | flitRetryExhausted (plane : Nat)
  /-- A request goes 1 ms without acknowledgement (R374). -/
  | planeAckTimeout (plane : Nat)
  /-- An uncorrectable error in a plane (R374). -/
  | planeBufferError (plane : Nat)
  /-- A supply or clock fault of a plane island (R374). -/
  | planeIslandFault (plane : Nat)
  /-- The driver writes PLCMD (R378). -/
  | plcmdRetire (v : W64)
  /-- The surviving planes have drained (R375). -/
  | rehashDrained
  /-- The walks of a stalled bundle complete (R349). -/
  | translationWalkDone (core : Nat)
  /-- One line of a migrating page is pulled (R358). -/
  | migrationPull (page line : Nat)
  /-- PGICMD invalidate (R362). -/
  | pgicmdInvalidate (ctx : Nat)
  /-- PGICMD migrate (R362). -/
  | pgicmdMigrate (ctx : Nat)
  /-- PGICMD migrate and retire (R362). -/
  | pgicmdMigrateRetire (ctx : Nat)
  /-- A write to a hash-profile mask (R303). -/
  | profileMaskWrite (stack profile i : Nat) (v : W64)
  /-- A write to DEVID (R394). -/
  | devidWrite (v : W64)
  /-- A write to LPCFG (R395). -/
  | lpcfgWrite (port : Nat) (v : W64)
  /-- LPCMD train (R396). -/
  | lpcmdTrain (link : Nat)
  /-- LPCMD quiesce (R396). -/
  | lpcmdQuiesce (link : Nat)
  /-- LPCMD resume (R396). -/
  | lpcmdResume (link : Nat)
  /-- LPCMD disable (R396). -/
  | lpcmdDisable (link : Nat)
  /-- Training ends with lanes trained (R396). -/
  | trainingComplete (link lanes : Nat)
  /-- No lane trained within 100 ms (R396). -/
  | trainingTimeout (link : Nat)
  /-- A flit arrives in error, or the far side requests replay (R396). -/
  | flitError (link : Nat) (far : Bool)
  /-- Every replayed flit is acknowledged (R396). -/
  | replayComplete (link : Nat)
  /-- A flit is retransmitted 8 times unacknowledged (R397). -/
  | replayFail (link : Nat)
  /-- A lane triggers repair (R397). -/
  | laneRepairTrigger (link : Nat)
  /-- Lanes come back within 10 ms (R396). -/
  | repairComplete (link lanes : Nat)
  /-- No lane comes back within 10 ms (R396). -/
  | repairTimeout (link : Nat)
  /-- A request arrives at a UALink port (R400). -/
  | incomingRequest (port addr : Nat) (op : FarOp)
  /-- A request arrives on a stack link (R360). -/
  | stackLinkRequest (link requester entry off : Nat) (op : FarOp) (poison : Bool)
  /-- A timed message arrives (R402). -/
  | incomingMessage (port dev src dst : Nat) (sendr : Bool) (stamp k rows : Nat) (payload : List Byte)
  /-- The far port accepts the oldest message (R401). -/
  | messageAccepted (port : Nat)
  /-- A chain command arrives (R407). -/
  | chainCommandArrival (port dev src : Nat) (seed : W32) (start : Option Nat) (dest : Nat) (bar : Option Nat) (final : Option W32) (bytes : List Byte)
  /-- A chain verdict reaches the sender (R410). -/
  | chainVerdictReturn (core : Nat) (v : Verdict) (crc : W32)
  /-- A received payload has landed (R161). -/
  | receivePayloadLanded (core id : Nat)
  /-- Chain staging is reserved at the far port (R406). -/
  | chainStagingReserved (core : Nat)
  /-- A host access through BAR2 (R17). -/
  | bar2Access (off : Nat) (op : FarOp)
  deriving DecidableEq, Repr

end Sys2Proof
end

