-- ==== Sys2Proof/WellFormed.lean ====
section
/-! DEFINITION. The slot of an instruction, and the constraints that the encoding puts on its fields: those whose
breach decodes as ILLOP with reason 3 or 4 (03_bundle R81-R83, R95). Values whose breach is reason 5 are decided at
issue and are no part of this. -/

namespace Sys2Proof

/-- Every type code 0-11 (R209 "all"). -/
def VTy.any (_ : VTy) : Bool := true

/-- Integer types, codes 0-5, 10 and 11 (R209). -/
def VTy.isInt (t : VTy) : Bool := !t.isFloat

/-- The types of VABS (R209). -/
def VTy.absOk (t : VTy) : Bool := t.isFloat || t.signed

/-- The types of the movement instructions (R220). -/
def VTy.moveOk (t : VTy) : Bool := t == .i32 || t == .i64

/-- The types of VEXT (R224). -/
def VTy.extOk (t : VTy) : Bool := t == .i32 || t == .n32 || t == .i64

/-- The types of RANK and RANKT (R271). -/
def VTy.rankOk (t : VTy) : Bool := t == .i32 || t == .n32 || t == .f32

/-- No pairing of a 64-bit type with an 8- or 16-bit type (R217). -/
def VTy.cvtOk (t s : VTy) : Bool :=
  !(decide (t.width = 64) && decide (s.width < 32)) && !(decide (s.width = 64) && decide (t.width < 32))

/-- The slot in which an instruction stands (R56, R89-R94); an event has none. -/
def Instr.slot? : Instr → Option Slot
  | .add .. => some .s
  | .sub .. => some .s
  | .mul .. => some .s
  | .mulh .. => some .s
  | .mulhu .. => some .s
  | .div .. => some .s
  | .divu .. => some .s
  | .rem .. => some .s
  | .remu .. => some .s
  | .and .. => some .s
  | .or .. => some .s
  | .xor .. => some .s
  | .sll .. => some .s
  | .srl .. => some .s
  | .sra .. => some .s
  | .min .. => some .s
  | .max .. => some .s
  | .minu .. => some .s
  | .maxu .. => some .s
  | .clz .. => some .s
  | .popc .. => some .s
  | .cmp .. => some .s
  | .sel .. => some .s
  | .plog .. => some .s
  | .addi .. => some .s
  | .andi .. => some .s
  | .ori .. => some .s
  | .xori .. => some .s
  | .slli .. => some .s
  | .srli .. => some .s
  | .srai .. => some .s
  | .li .. => some .s
  | .lis .. => some .s
  | .cmpi .. => some .s
  | .bfx .. => some .s
  | .bfi .. => some .s
  | .br .. => some .s
  | .call .. => some .s
  | .jr .. => some .s
  | .loop .. => some .s
  | .lds .. => some .s
  | .ldz .. => some .s
  | .st .. => some .s
  | .shw .. => some .s
  | .litr .. => some .s
  | .csrr .. => some .s
  | .csrw .. => some .s
  | .tdw .. => some .s
  | .bfw .. => some .s
  | .nop => some .x
  | .nopn .. => some .x
  | .endp => some .x
  | .lalign => some .x
  | .wnext .. => some .x
  | .phopen .. => some .x
  | .phseal => some .x
  | .phpub => some .x
  | .phacq => some .x
  | .pfence => some .x
  | .trap .. => some .x
  | .tret => some .x
  | .binit .. => some .x
  | .barr .. => some .x
  | .barrG .. => some .x
  | .bexp .. => some .x
  | .btest .. => some .x
  | .bwait .. => some .x
  | .sbwaitTile .. => some .x
  | .sbwaitAcc .. => some .x
  | .enq .. => some .x
  | .qsig .. => some .x
  | .qwait .. => some .x
  | .pginv .. => some .x
  | .pgprobe .. => some .x
  | .pgmig .. => some .x
  | .digrd .. => some .x
  | .evpost .. => some .x
  | .vadd c .. => some c.slot
  | .vsub c .. => some c.slot
  | .vmul c .. => some c.slot
  | .vfma c .. => some c.slot
  | .vfms c .. => some c.slot
  | .vmin c .. => some c.slot
  | .vmax c .. => some c.slot
  | .vabs c .. => some c.slot
  | .vcsgn c .. => some c.slot
  | .vmulh c .. => some c.slot
  | .vand c .. => some c.slot
  | .vor c .. => some c.slot
  | .vxor c .. => some c.slot
  | .vnot c .. => some c.slot
  | .vsll c .. => some c.slot
  | .vsrl c .. => some c.slot
  | .vsra c .. => some c.slot
  | .vcmp c .. => some c.slot
  | .vsel c .. => some c.slot
  | .vcvt c .. => some c.slot
  | .vclz c .. => some c.slot
  | .vpopc c .. => some c.slot
  | .vmov c .. => some c.slot
  | .vsplat c .. => some c.slot
  | .viota c .. => some c.slot
  | .vli c .. => some c.slot
  | .vrotr c .. => some c.slot
  | .vrotc c .. => some c.slot
  | .vbcr c .. => some c.slot
  | .vbcc c .. => some c.slot
  | .vredr c .. => some c.slot
  | .vredc c .. => some c.slot
  | .vscanr c .. => some c.slot
  | .vscanc c .. => some c.slot
  | .vcompact c .. => some c.slot
  | .vext c .. => some c.slot
  | .vexpQ c .. => some c.slot
  | .vexpX c .. => some c.slot
  | .vexp2Q c .. => some c.slot
  | .vexp2X c .. => some c.slot
  | .vlogQ c .. => some c.slot
  | .vlogX c .. => some c.slot
  | .vlog2Q c .. => some c.slot
  | .vlog2X c .. => some c.slot
  | .vsinQ c .. => some c.slot
  | .vsinX c .. => some c.slot
  | .vcosQ c .. => some c.slot
  | .vcosX c .. => some c.slot
  | .vtanhQ c .. => some c.slot
  | .vtanhX c .. => some c.slot
  | .vsigmQ c .. => some c.slot
  | .vsigmX c .. => some c.slot
  | .vrsqrtQ c .. => some c.slot
  | .vrsqrtX c .. => some c.slot
  | .vrecipQ c .. => some c.slot
  | .vrecipX c .. => some c.slot
  | .verfQ c .. => some c.slot
  | .verfX c .. => some c.slot
  | .vshawm c .. => some c.slot
  | .vshawmf c .. => some c.slot
  | .vld c .. => some c.slot
  | .vst c .. => some c.slot
  | .xmv c .. => some c.slot
  | .rank .. => some .vb
  | .rankt .. => some .vb
  | .rval .. => some .vb
  | .vatt .. => some .vb
  | .mma .. => some .m
  | .imma .. => some .m
  | .pmm .. => some .m
  | .pmms .. => some .m
  | .bmm .. => some .m
  | .mmas .. => some .m
  | .racc .. => some .m
  | .anch .. => some .m
  | .norm .. => some .m
  | .azero .. => some .m
  | .accrd .. => some .m
  | .accadd .. => some .m
  | .accmv .. => some .m
  | .accsv .. => some .m
  | .accld .. => some .m
  | .ttrn .. => some .m
  | .tzero .. => some .m
  | .kchk .. => some .m
  | .tld e .. => some e.slot
  | .tst e .. => some e.slot
  | .pref e .. => some e.slot
  | .tgath e .. => some e.slot
  | .tscat e .. => some e.slot
  | .tldb e .. => some e.slot
  | .scopyLd e .. => some e.slot
  | .scopySt e .. => some e.slot
  | .vtld e .. => some e.slot
  | .vtst e .. => some e.slot
  | .tfill e .. => some e.slot
  | .atom e .. => some e.slot
  | .red e .. => some e.slot
  | .redt e .. => some e.slot
  | .hld e .. => some e.slot
  | .hst e .. => some e.slot
  | .hmod e .. => some e.slot
  | .ovl e .. => some e.slot
  | .send .. => some .l
  | .recv .. => some .l
  | .sendr .. => some .l
  | .recvr .. => some .l
  | .radd .. => some .l
  | .rmax .. => some .l
  | .rmin .. => some .l
  | .lcopy .. => some .l
  | .lcrcr .. => some .l
  | .lcrcw .. => some .l
  | .lstat .. => some .l
  | .lfence .. => some .l
  | .resultLanding .. => none
  | .stallRelease .. => none
  | .engineReadFinished .. => none
  | .engineOpDone .. => none
  | .transferDone .. => none
  | .ovlLineLanded .. => none
  | .promise .. => none
  | .injectedCheck .. => none
  | .kchkComplete .. => none
  | .boundaryTrapEntry .. => none
  | .handlerBudgetExceeded .. => none
  | .coreRetire .. => none
  | .groupRendezvous .. => none
  | .dispatch .. => none
  | .workSteal .. => none
  | .kernelPreempt .. => none
  | .kernelResume .. => none
  | .kernelLoadDone .. => none
  | .kernelFinish .. => none
  | .kernelRetire .. => none
  | .phasePrepare .. => none
  | .homePrepareVote .. => none
  | .homeCommitApply .. => none
  | .phaseCommitComplete .. => none
  | .phaseCancel .. => none
  | .lateFault .. => none
  | .suppliesValid => none
  | .perstDeassert => none
  | .perstAssert => none
  | .firmwareSignatureCheck .. => none
  | .measureDone .. => none
  | .selftestDone .. => none
  | .powerWindowCheck .. => none
  | .globalIssueGateClose => none
  | .globalIssueGateOpen => none
  | .apbaseWrite .. => none
  | .attgo .. => none
  | .attestationReportDone => none
  | .registerWrite .. => none
  | .ctxCreate .. => none
  | .ctxSuspend .. => none
  | .ctxResume .. => none
  | .ctxKill .. => none
  | .ctxDestroy .. => none
  | .doorbellWrite .. => none
  | .queueEnable => none
  | .queueDisable => none
  | .queueReset .. => none
  | .queueArbitrate .. => none
  | .packetNop .. => none
  | .launch .. => none
  | .copy .. => none
  | .signal .. => none
  | .wait .. => none
  | .mode .. => none
  | .checkpoint .. => none
  | .checkpointComplete .. => none
  | .query .. => none
  | .packetComplete .. => none
  | .homeRequest .. => none
  | .homeAck .. => none
  | .reductionAddend .. => none
  | .reductionPartialTimeout .. => none
  | .sectorDelivery .. => none
  | .remoteArrival .. => none
  | .flitRetryExhausted .. => none
  | .planeAckTimeout .. => none
  | .planeBufferError .. => none
  | .planeIslandFault .. => none
  | .plcmdRetire .. => none
  | .rehashDrained => none
  | .translationWalkDone .. => none
  | .migrationPull .. => none
  | .pgicmdInvalidate .. => none
  | .pgicmdMigrate .. => none
  | .pgicmdMigrateRetire .. => none
  | .profileMaskWrite .. => none
  | .devidWrite .. => none
  | .lpcfgWrite .. => none
  | .lpcmdTrain .. => none
  | .lpcmdQuiesce .. => none
  | .lpcmdResume .. => none
  | .lpcmdDisable .. => none
  | .trainingComplete .. => none
  | .trainingTimeout .. => none
  | .flitError .. => none
  | .replayComplete .. => none
  | .replayFail .. => none
  | .laneRepairTrigger .. => none
  | .repairComplete .. => none
  | .repairTimeout .. => none
  | .incomingRequest .. => none
  | .stackLinkRequest .. => none
  | .incomingMessage .. => none
  | .messageAccepted .. => none
  | .chainCommandArrival .. => none
  | .chainVerdictReturn .. => none
  | .receivePayloadLanded .. => none
  | .chainStagingReserved .. => none
  | .bar2Access .. => none

/-- An instruction that the encoding can hold: no reserved or disallowed code and no nonzero unused field
(R81-R83, R95 reasons 3 and 4). -/
def Instr.wf : Instr → Bool
  | .add .. => true
  | .sub .. => true
  | .mul .. => true
  | .mulh .. => true
  | .mulhu .. => true
  | .div .. => true
  | .divu .. => true
  | .rem .. => true
  | .remu .. => true
  | .and .. => true
  | .or .. => true
  | .xor .. => true
  | .sll .. => true
  | .srl .. => true
  | .sra .. => true
  | .min .. => true
  | .max .. => true
  | .minu .. => true
  | .maxu .. => true
  | .clz .. => true
  | .popc .. => true
  | .cmp .. => true
  | .sel .. => true
  | .plog .. => true
  | .addi .. => true
  | .andi .. => true
  | .ori .. => true
  | .xori .. => true
  | .slli .. => true
  | .srli .. => true
  | .srai .. => true
  | .li .. => true
  | .lis .. => true
  | .cmpi .. => true
  | .bfx .. => true
  | .bfi .. => true
  | .br .. => true
  | .call .. => true
  | .jr .. => true
  | .loop .. => true
  | .lds .. => true
  | .ldz .. => true
  | .st .. => true
  | .shw .. => true
  | .litr .. => true
  | .csrr .. => true
  | .csrw .. => true
  | .tdw .. => true
  | .bfw .. => true
  | .nop => true
  | .nopn .. => true
  | .endp => true
  | .lalign => true
  | .wnext .. => true
  | .phopen a e1 acc1 e0 acc0 => (e1 || acc1 == 0) && (e0 || (!e1 && acc0 == 0 && a == 0))
  | .phseal => true
  | .phpub => true
  | .phacq => true
  | .pfence => true
  | .trap .. => true
  | .tret => true
  | .binit .. => true
  | .barr .. => true
  | .barrG .. => true
  | .bexp .. => true
  | .btest .. => true
  | .bwait .. => true
  | .sbwaitTile .. => true
  | .sbwaitAcc .. => true
  | .enq .. => true
  | .qsig .. => true
  | .qwait .. => true
  | .pginv .. => true
  | .pgprobe .. => true
  | .pgmig .. => true
  | .digrd .. => true
  | .evpost .. => true
  | .vadd _ _ _ _ _ neg ty rnd s => (ty.isFloat || (!neg && rnd == .rne)) && (!s || !ty.isFloat)
  | .vsub _ _ _ _ _ neg ty rnd s => (ty.isFloat || (!neg && rnd == .rne)) && (!s || !ty.isFloat)
  | .vmul _ _ _ _ _ neg ty rnd s => (ty.isFloat || (!neg && rnd == .rne)) && (!s || !ty.isFloat)
  | .vfma _ _ _ _ _ _ _ ty _ => ty.isFloat
  | .vfms _ _ _ _ _ _ _ ty _ => ty.isFloat
  | .vmin .. => true
  | .vmax .. => true
  | .vabs _ _ _ _ ty s => ty.absOk && (!s || !ty.isFloat)
  | .vcsgn _ _ _ _ _ ty => ty.isFloat
  | .vmulh _ _ _ _ _ ty => ty.isInt
  | .vand .. => true
  | .vor .. => true
  | .vxor .. => true
  | .vnot .. => true
  | .vsll _ _ _ vb _ ty i n => ty.isInt && (if i then vb == 0 else n == 0)
  | .vsrl _ _ _ vb _ ty i n => ty.isInt && (if i then vb == 0 else n == 0)
  | .vsra _ _ _ vb _ ty i n => ty.isInt && (if i then vb == 0 else n == 0)
  | .vcmp _ _ _ _ _ _ _ pd all => !all || pd != 0
  | .vsel .. => true
  | .vcvt _ _ _ _ ty rnd src _ s => VTy.cvtOk ty src && (if ty.isFloat || src.isFloat then !s else rnd == .rne)
  | .vclz _ _ _ _ ty => ty.isInt
  | .vpopc _ _ _ _ ty => ty.isInt
  | .vmov .. => true
  | .vsplat .. => true
  | .viota _ _ _ ty _ => ty.isInt
  | .vli _ _ _ ty imm => decide (ty.width ≠ 8) || decide (imm.toNat < 256)
  | .vrotr _ _ _ _ ty i n xs => ty.moveOk && (if i then xs == 0 else n == 0)
  | .vrotc _ _ _ _ ty i n xs => ty.moveOk && (if i then xs == 0 else n == 0)
  | .vbcr _ _ _ _ ty i n xs => ty.moveOk && (if i then xs == 0 else n == 0)
  | .vbcc _ _ _ _ ty i n xs => ty.moveOk && (if i then xs == 0 else n == 0)
  | .vredr _ _ _ _ ty rnd op => (ty.isFloat && op == 0) || rnd == .rne
  | .vredc _ _ _ _ ty rnd op => (ty.isFloat && op == 0) || rnd == .rne
  | .vscanr _ _ _ _ ty rnd op _ => (ty.isFloat && op == 0) || rnd == .rne
  | .vscanc _ _ _ _ ty rnd op _ => (ty.isFloat && op == 0) || rnd == .rne
  | .vcompact .. => true
  | .vext _ _ _ ty _ _ _ => ty.extOk
  | .vexpQ _ _ _ _ ty => ty.isFloat
  | .vexpX _ _ _ _ ty => ty.isFloat
  | .vexp2Q _ _ _ _ ty => ty.isFloat
  | .vexp2X _ _ _ _ ty => ty.isFloat
  | .vlogQ _ _ _ _ ty => ty.isFloat
  | .vlogX _ _ _ _ ty => ty.isFloat
  | .vlog2Q _ _ _ _ ty => ty.isFloat
  | .vlog2X _ _ _ _ ty => ty.isFloat
  | .vsinQ _ _ _ _ ty => ty.isFloat
  | .vsinX _ _ _ _ ty => ty.isFloat
  | .vcosQ _ _ _ _ ty => ty.isFloat
  | .vcosX _ _ _ _ ty => ty.isFloat
  | .vtanhQ _ _ _ _ ty => ty.isFloat
  | .vtanhX _ _ _ _ ty => ty.isFloat
  | .vsigmQ _ _ _ _ ty => ty.isFloat
  | .vsigmX _ _ _ _ ty => ty.isFloat
  | .vrsqrtQ _ _ _ _ ty => ty.isFloat
  | .vrsqrtX _ _ _ _ ty => ty.isFloat
  | .vrecipQ _ _ _ _ ty => ty.isFloat
  | .vrecipX _ _ _ _ ty => ty.isFloat
  | .verfQ _ _ _ _ ty => ty.isFloat
  | .verfX _ _ _ _ ty => ty.isFloat
  | .vshawm _ _ va _ v _ _ => v || va == 0
  | .vshawmf _ _ va _ v _ _ => v || va == 0
  | .vld .. => true
  | .vst _ _ vc _ ty m _ _ _ => m || (ty == .i8x4 && vc == 0)
  | .xmv .. => true
  | .rank _ _ _ ty _ => ty.rankOk
  | .rankt _ _ _ ty _ _ => ty.rankOk
  | .rval .. => true
  | .vatt .. => true
  | .mma _ _ _ _ _ pa pb _ => decide (pa.toNat ≤ 3) && decide (pb.toNat ≤ 3)
  | .imma _ _ _ _ _ pa pb _ => (decide (4 ≤ pa.toNat) && decide (pa.toNat ≤ 6)) && (decide (4 ≤ pb.toNat) && decide (pb.toNat ≤ 6))
  | .pmm _ _ _ _ _ pa pb _ => (decide (8 ≤ pa.toNat) && decide (pa.toNat ≤ 14)) && (decide (8 ≤ pb.toNat) && decide (pb.toNat ≤ 14))
  | .pmms _ _ _ _ _ pa pb _ => (decide (8 ≤ pa.toNat) && decide (pa.toNat ≤ 14)) && (decide (8 ≤ pb.toNat) && decide (pb.toNat ≤ 14))
  | .bmm _ _ _ _ _ pa pb _ => decide (pa.toNat = 7) && decide (pb.toNat = 7)
  | .mmas _ _ _ _ _ pa pb _ => decide (pa.toNat ≤ 3) && decide (pb.toNat ≤ 3)
  | .racc _ _ _ _ _ pb _ => decide (pb.toNat ≤ 6)
  | .anch .. => true
  | .norm .. => true
  | .azero .. => true
  | .accrd _ _ ts _ _ sc _ _ => sc || ts == 0
  | .accadd .. => true
  | .accmv .. => true
  | .accsv .. => true
  | .accld .. => true
  | .ttrn .. => true
  | .tzero .. => true
  | .kchk .. => true
  | .tld .. => true
  | .tst .. => true
  | .pref .. => true
  | .tgath .. => true
  | .tscat .. => true
  | .tldb .. => true
  | .scopyLd .. => true
  | .scopySt .. => true
  | .vtld .. => true
  | .vtst .. => true
  | .tfill .. => true
  | .atom _ _ _ op sz _ _ _ => op != 10 || sz == 0
  | .red .. => true
  | .redt .. => true
  | .hld .. => true
  | .hst .. => true
  | .hmod .. => true
  | .ovl .. => true
  | .send .. => true
  | .recv .. => true
  | .sendr .. => true
  | .recvr .. => true
  | .radd .. => true
  | .rmax .. => true
  | .rmin .. => true
  | .lcopy _ _ _ _ _ _ xe f s len8 => (f || xe == 0) && (s || len8 == 0)
  | .lcrcr .. => true
  | .lcrcw .. => true
  | .lstat .. => true
  | .lfence .. => true
  | .resultLanding .. => true
  | .stallRelease .. => true
  | .engineReadFinished .. => true
  | .engineOpDone .. => true
  | .transferDone .. => true
  | .ovlLineLanded .. => true
  | .promise .. => true
  | .injectedCheck .. => true
  | .kchkComplete .. => true
  | .boundaryTrapEntry .. => true
  | .handlerBudgetExceeded .. => true
  | .coreRetire .. => true
  | .groupRendezvous .. => true
  | .dispatch .. => true
  | .workSteal .. => true
  | .kernelPreempt .. => true
  | .kernelResume .. => true
  | .kernelLoadDone .. => true
  | .kernelFinish .. => true
  | .kernelRetire .. => true
  | .phasePrepare .. => true
  | .homePrepareVote .. => true
  | .homeCommitApply .. => true
  | .phaseCommitComplete .. => true
  | .phaseCancel .. => true
  | .lateFault .. => true
  | .suppliesValid => true
  | .perstDeassert => true
  | .perstAssert => true
  | .firmwareSignatureCheck .. => true
  | .measureDone .. => true
  | .selftestDone .. => true
  | .powerWindowCheck .. => true
  | .globalIssueGateClose => true
  | .globalIssueGateOpen => true
  | .apbaseWrite .. => true
  | .attgo .. => true
  | .attestationReportDone => true
  | .registerWrite .. => true
  | .ctxCreate .. => true
  | .ctxSuspend .. => true
  | .ctxResume .. => true
  | .ctxKill .. => true
  | .ctxDestroy .. => true
  | .doorbellWrite .. => true
  | .queueEnable => true
  | .queueDisable => true
  | .queueReset .. => true
  | .queueArbitrate .. => true
  | .packetNop .. => true
  | .launch .. => true
  | .copy .. => true
  | .signal .. => true
  | .wait .. => true
  | .mode .. => true
  | .checkpoint .. => true
  | .checkpointComplete .. => true
  | .query .. => true
  | .packetComplete .. => true
  | .homeRequest .. => true
  | .homeAck .. => true
  | .reductionAddend .. => true
  | .reductionPartialTimeout .. => true
  | .sectorDelivery .. => true
  | .remoteArrival .. => true
  | .flitRetryExhausted .. => true
  | .planeAckTimeout .. => true
  | .planeBufferError .. => true
  | .planeIslandFault .. => true
  | .plcmdRetire .. => true
  | .rehashDrained => true
  | .translationWalkDone .. => true
  | .migrationPull .. => true
  | .pgicmdInvalidate .. => true
  | .pgicmdMigrate .. => true
  | .pgicmdMigrateRetire .. => true
  | .profileMaskWrite .. => true
  | .devidWrite .. => true
  | .lpcfgWrite .. => true
  | .lpcmdTrain .. => true
  | .lpcmdQuiesce .. => true
  | .lpcmdResume .. => true
  | .lpcmdDisable .. => true
  | .trainingComplete .. => true
  | .trainingTimeout .. => true
  | .flitError .. => true
  | .replayComplete .. => true
  | .replayFail .. => true
  | .laneRepairTrigger .. => true
  | .repairComplete .. => true
  | .repairTimeout .. => true
  | .incomingRequest .. => true
  | .stackLinkRequest .. => true
  | .incomingMessage .. => true
  | .messageAccepted .. => true
  | .chainCommandArrival .. => true
  | .chainVerdictReturn .. => true
  | .receivePayloadLanded .. => true
  | .chainStagingReserved .. => true
  | .bar2Access .. => true

end Sys2Proof
end

