-- ==== Sys2Proof/Decode.lean ====
section
/-! DEFINITION. Decoding and encoding: the words of the eight slots (03_bundle R75-R80, R89-R95), bundles in the
bundle store (R56-R59), and the words of the opcode table. A decoder answers an instruction or the lowest ILLOP
reason 1-4 that the word gives (R95, R96). -/

namespace Sys2Proof

/-- A field as a bit vector of `n` bits. -/
def bv (n v : Nat) : BitVec n := BitVec.ofNat n v

/-- A field that is not zero. -/
def nz (v : Nat) : Bool := v != 0

/-- An instruction unless a condition of reason 3, or else one of reason 4, holds (R95, R96). -/
def rej (b3 b4 : Bool) (i : Instr) : Except Nat Instr :=
  if b3 then .error 3 else if b4 then .error 4 else .ok i

/-- RANK, RANKT, RVAL and VATT stand in VB only (R90). -/
def inB (c : Cluster) (r : Except Nat Instr) : Except Nat Instr :=
  match c with
  | .a => .error 2
  | .b => r

/-! ## Layouts (R75-R80) -/

/-- Format R of the S slot (R75). -/
structure RW where
  op : Nat
  d : Nat
  a : Nat
  b : Nat
  s : Nat
  w : Nat
  func : Nat
  deriving DecidableEq, Repr

def rOf (w : Nat) : RW :=
  ⟨fld w 31 26, fld w 25 21, fld w 20 16, fld w 15 11, fld w 10 10, fld w 9 8, fld w 7 0⟩
def rWord (f : RW) : Nat :=
  f.op * 2 ^ 26 + f.d * 2 ^ 21 + f.a * 2 ^ 16 + f.b * 2 ^ 11 + f.s * 2 ^ 10 + f.w * 2 ^ 8 + f.func

def RW.xd (f : RW) : XNo := bv 5 f.d
def RW.xa (f : RW) : XNo := bv 5 f.a
def RW.xb (f : RW) : XNo := bv 5 f.b

/-- Formats I, C and M of the S slot, and the X slot, whose [25:21], [20:16] and [15:0] stand alike (R75, R80). -/
structure IW where
  op : Nat
  d : Nat
  a : Nat
  imm : Nat
  deriving DecidableEq, Repr

def iOf (w : Nat) : IW := ⟨fld w 31 26, fld w 25 21, fld w 20 16, fld w 15 0⟩
def iWord (f : IW) : Nat := f.op * 2 ^ 26 + f.d * 2 ^ 21 + f.a * 2 ^ 16 + f.imm

def IW.xd (f : IW) : XNo := bv 5 f.d
def IW.xa (f : IW) : XNo := bv 5 f.a

/-- Format B of the S slot (R75). -/
structure BW where
  op : Nat
  c : Nat
  disp : Nat
  deriving DecidableEq, Repr

def bOf (w : Nat) : BW := ⟨fld w 31 26, fld w 25 21, fld w 20 0⟩
def bWord (f : BW) : Nat := f.op * 2 ^ 26 + f.c * 2 ^ 21 + f.disp

/-- The V slots (R76). -/
structure VW where
  op : Nat
  vd : Nat
  va : Nat
  vb : Nat
  vc : Nat
  pred : Nat
  neg : Nat
  ty : Nat
  rnd : Nat
  mod : Nat
  deriving DecidableEq, Repr

def vOf (w : Nat) : VW :=
  ⟨fld w 63 56, fld w 55 52, fld w 51 48, fld w 47 44, fld w 43 40, fld w 39 37, fld w 36 36, fld w 35 32,
    fld w 31 28, fld w 27 0⟩
def vWord (f : VW) : Nat :=
  f.op * 2 ^ 56 + f.vd * 2 ^ 52 + f.va * 2 ^ 48 + f.vb * 2 ^ 44 + f.vc * 2 ^ 40 + f.pred * 2 ^ 37 + f.neg * 2 ^ 36 +
    f.ty * 2 ^ 32 + f.rnd * 2 ^ 28 + f.mod

def VW.d (f : VW) : VNo := bv 4 f.vd
def VW.a (f : VW) : VNo := bv 4 f.va
def VW.b (f : VW) : VNo := bv 4 f.vb
def VW.c (f : VW) : VNo := bv 4 f.vc
def VW.p (f : VW) : PNo := bv 3 f.pred
def VW.badRnd (f : VW) : Bool := (rndOf f.rnd).isNone
def VW.rm (f : VW) : Rnd := (rndOf f.rnd).getD .rne
def VW.imm (f : VW) : Bool := bit1 f.mod 27
/-- The type code of an instruction that uses it; codes 12-15 are reason 3 (R81). -/
def VW.withTy (f : VW) (k : VTy → Except Nat Instr) : Except Nat Instr :=
  match vtyOf f.ty with
  | none => .error 3
  | some ty => k ty

/-- The M slot (R77). -/
structure MW where
  op : Nat
  acc : Nat
  tA : Nat
  tB : Nat
  sh : Nat
  sw : Nat
  pa : Nat
  pb : Nat
  mode : Nat
  deriving DecidableEq, Repr

def mOf (w : Nat) : MW :=
  ⟨fld w 63 58, fld w 57 55, fld w 54 49, fld w 48 43, fld w 42 41, fld w 40 40, fld w 39 36, fld w 35 32, fld w 31 0⟩
def mWord (f : MW) : Nat :=
  f.op * 2 ^ 58 + f.acc * 2 ^ 55 + f.tA * 2 ^ 49 + f.tB * 2 ^ 43 + f.sh * 2 ^ 41 + f.sw * 2 ^ 40 + f.pa * 2 ^ 36 +
    f.pb * 2 ^ 32 + f.mode

def MW.a (f : MW) : ANo := bv 3 f.acc
def MW.ta (f : MW) : TNo := bv 6 f.tA
def MW.tb (f : MW) : TNo := bv 6 f.tB
def MW.s (f : MW) : ShNo := bv 2 f.sh

/-- The CA and CB slots (R78). -/
structure CW where
  op : Nat
  tag : Nat
  tile : Nat
  h : Nat
  sh : Nat
  sw : Nat
  cb : Nat
  aux : Nat
  pr : Nat
  deriving DecidableEq, Repr

def cOf (w : Nat) : CW :=
  ⟨fld w 63 58, fld w 57 49, fld w 48 43, fld w 42 37, fld w 36 35, fld w 34 34, fld w 33 29, fld w 28 24, fld w 23 0⟩
def cWord (f : CW) : Nat :=
  f.op * 2 ^ 58 + f.tag * 2 ^ 49 + f.tile * 2 ^ 43 + f.h * 2 ^ 37 + f.sh * 2 ^ 35 + f.sw * 2 ^ 34 + f.cb * 2 ^ 29 +
    f.aux * 2 ^ 24 + f.pr

def CW.g (f : CW) : TagNo := bv 9 f.tag
def CW.t (f : CW) : TNo := bv 6 f.tile
def CW.hn (f : CW) : HNo := bv 6 f.h
def CW.s (f : CW) : ShNo := bv 2 f.sh
def CW.c (f : CW) : XNo := bv 5 f.cb
def CW.x (f : CW) : XNo := bv 5 f.aux

/-- The L slot (R79). -/
structure LW where
  op : Nat
  port : Nat
  tile : Nat
  sh : Nat
  sw : Nat
  len : Nat
  ts : Nat
  deriving DecidableEq, Repr

def lOf (w : Nat) : LW :=
  ⟨fld w 63 58, fld w 57 53, fld w 52 47, fld w 46 45, fld w 44 44, fld w 43 24, fld w 23 0⟩
def lWord (f : LW) : Nat :=
  f.op * 2 ^ 58 + f.port * 2 ^ 53 + f.tile * 2 ^ 47 + f.sh * 2 ^ 45 + f.sw * 2 ^ 44 + f.len * 2 ^ 24 + f.ts

def LW.po (f : LW) : BitVec 5 := bv 5 f.port
def LW.t (f : LW) : TNo := bv 6 f.tile
def LW.pe (f : LW) : BitVec 10 := bv 10 (f.len / 2 ^ 10)

/-! ## S slot (R89) -/

/-- The instruction an S-slot word holds, or the reason of its ILLOP (R89, R95, R181). -/
def decodeS (w : Nat) : Except Nat Instr :=
  let f := rOf w; let g := iOf w; let b := bOf w
  match f.op with
  | 0x00 => rej false (nz f.func || decide (1 < f.w)) (.add f.xd f.xa f.xb (nz f.s) (nz f.w))
  | 0x01 => rej false (nz f.func || decide (1 < f.w)) (.sub f.xd f.xa f.xb (nz f.s) (nz f.w))
  | 0x02 => rej false (nz f.func || decide (1 < f.w)) (.mul f.xd f.xa f.xb (nz f.s) (nz f.w))
  | 0x03 => rej false (nz f.func || nz f.s || nz f.w) (.mulh f.xd f.xa f.xb)
  | 0x04 => rej false (nz f.func || nz f.s || nz f.w) (.mulhu f.xd f.xa f.xb)
  | 0x05 => rej false (nz f.func || nz f.s || decide (1 < f.w)) (.div f.xd f.xa f.xb (nz f.w))
  | 0x06 => rej false (nz f.func || nz f.s || decide (1 < f.w)) (.divu f.xd f.xa f.xb (nz f.w))
  | 0x07 => rej false (nz f.func || nz f.s || decide (1 < f.w)) (.rem f.xd f.xa f.xb (nz f.w))
  | 0x08 => rej false (nz f.func || nz f.s || decide (1 < f.w)) (.remu f.xd f.xa f.xb (nz f.w))
  | 0x09 => rej false (nz f.func || nz f.s || nz f.w) (.and f.xd f.xa f.xb)
  | 0x0A => rej false (nz f.func || nz f.s || nz f.w) (.or f.xd f.xa f.xb)
  | 0x0B => rej false (nz f.func || nz f.s || nz f.w) (.xor f.xd f.xa f.xb)
  | 0x0C => rej false (nz f.func || decide (1 < f.w)) (.sll f.xd f.xa f.xb (nz f.s) (nz f.w))
  | 0x0D => rej false (nz f.func || nz f.s || decide (1 < f.w)) (.srl f.xd f.xa f.xb (nz f.w))
  | 0x0E => rej false (nz f.func || nz f.s || decide (1 < f.w)) (.sra f.xd f.xa f.xb (nz f.w))
  | 0x0F => rej false (nz f.func || nz f.s || nz f.w) (.min f.xd f.xa f.xb)
  | 0x10 => rej false (nz f.func || nz f.s || nz f.w) (.max f.xd f.xa f.xb)
  | 0x11 => rej false (nz f.func || nz f.s || nz f.w) (.minu f.xd f.xa f.xb)
  | 0x12 => rej false (nz f.func || nz f.s || nz f.w) (.maxu f.xd f.xa f.xb)
  | 0x13 => rej false (nz f.func || nz f.s || nz f.b || decide (1 < f.w)) (.clz f.xd f.xa (nz f.w))
  | 0x14 => rej false (nz f.func || nz f.s || nz f.b || decide (1 < f.w)) (.popc f.xd f.xa (nz f.w))
  | 0x15 => rej false (decide (7 < f.d) || nz f.s || decide (1 < f.w) || decide (15 < f.func)) (.cmp (bv 3 f.d) f.xa f.xb (nz f.w) (bv 4 f.func))
  | 0x16 => rej false (decide (7 < f.func) || nz f.s || nz f.w) (.sel f.xd f.xa f.xb (bv 3 f.func))
  | 0x17 => rej false (decide (7 < f.d) || decide (7 < f.a) || decide (7 < f.b) || nz f.s || nz f.w || decide (15 < f.func)) (.plog (bv 3 f.d) (bv 3 f.a) (bv 3 f.b) (bv 4 f.func))
  | 0x18 => .ok (.addi g.xd g.xa (bv 16 g.imm))
  | 0x19 => .ok (.andi g.xd g.xa (bv 16 g.imm))
  | 0x1A => .ok (.ori g.xd g.xa (bv 16 g.imm))
  | 0x1B => .ok (.xori g.xd g.xa (bv 16 g.imm))
  | 0x1C => rej false (decide (63 < g.imm)) (.slli g.xd g.xa (bv 6 g.imm))
  | 0x1D => rej false (decide (63 < g.imm)) (.srli g.xd g.xa (bv 6 g.imm))
  | 0x1E => rej false (decide (63 < g.imm)) (.srai g.xd g.xa (bv 6 g.imm))
  | 0x1F => rej false (nz g.a) (.li g.xd (bv 16 g.imm))
  | 0x20 => .ok (.lis g.xd g.xa (bv 16 g.imm))
  | 0x21 => rej false (decide (7 < g.d)) (.cmpi (bv 3 g.d) g.xa (bv 3 (g.imm / 2 ^ 13)) (bv 13 g.imm))
  | 0x22 => rej false (decide (2 ^ 13 ≤ g.imm)) (.bfx g.xd g.xa (nz (g.imm / 2 ^ 12)) (bv 6 (g.imm / 2 ^ 6)) (bv 6 g.imm))
  | 0x23 => rej false (decide (2 ^ 12 ≤ g.imm)) (.bfi g.xd g.xa (bv 6 (g.imm / 2 ^ 6)) (bv 6 g.imm))
  | 0x24 => rej false (decide (15 < b.c)) (.br (nz (b.c / 8)) (bv 3 b.c) (bv 21 b.disp))
  | 0x25 => .ok (.call (bv 5 b.c) (bv 21 b.disp))
  | 0x26 => rej false (nz f.func || nz f.s || nz f.w || nz f.b) (.jr f.xd f.xa)
  | 0x27 => .ok (.loop (bv 5 b.c) (bv 21 b.disp))
  | 0x28 => .ok (.lds g.xd g.xa (bv 2 (g.imm / 2 ^ 14)) (bv 14 g.imm))
  | 0x29 => .ok (.ldz g.xd g.xa (bv 2 (g.imm / 2 ^ 14)) (bv 14 g.imm))
  | 0x2A => .ok (.st g.xd g.xa (bv 2 (g.imm / 2 ^ 14)) (bv 14 g.imm))
  | 0x2B => rej false (decide (15 < f.d) || decide (7 < f.func) || nz f.b || nz f.s || nz f.w) (.shw (bv 4 f.d) f.xa (bv 3 f.func))
  | 0x2C => rej false (decide (2 ^ 12 ≤ g.imm)) (.litr g.xd g.xa (bv 12 g.imm))
  | 0x2D => rej false (nz g.a) (.csrr g.xd (bv 16 g.imm))
  | 0x2E => rej false (nz g.d) (.csrw g.xa (bv 16 g.imm))
  | 0x2F => rej false (nz g.d || decide (63 < g.imm)) (.tdw (bv 6 g.imm) g.xa)
  | 0x30 => rej false (decide (15 < g.d) || nz g.imm) (.bfw (bv 4 g.d) g.xa)
  | _ => .error 1

/-! ## X slot (R94) -/

/-- The instruction an X-slot word holds, or the reason of its ILLOP (R94, R95). -/
def decodeX (w : Nat) : Except Nat Instr :=
  let g := iOf w
  match g.op with
  | 0x00 => rej false (nz g.d || nz g.a || nz g.imm) (.nop)
  | 0x01 => rej false (nz g.d || nz g.a) (.nopn (bv 16 g.imm))
  | 0x02 => rej false (nz g.d || nz g.a || nz g.imm) (.endp)
  | 0x03 => rej false (nz g.d || nz g.a || nz g.imm) (.lalign)
  | 0x04 => rej false (nz g.d || nz g.a || decide (7 < g.imm)) (.wnext (bv 3 g.imm))
  | 0x05 => let e1 := bit1 g.imm 15; let e0 := bit1 g.imm 11
    rej false (nz g.a || nz (g.imm % 256) || (!e1 && nz (fld g.imm 14 12)) || (!e0 && nz (fld g.imm 10 8)) || (!e0 && (e1 || nz g.d)))
      (.phopen g.xd e1 (bv 3 (fld g.imm 14 12)) e0 (bv 3 (fld g.imm 10 8)))
  | 0x06 => rej false (nz g.d || nz g.a || nz g.imm) (.phseal)
  | 0x07 => rej false (nz g.d || nz g.a || nz g.imm) (.phpub)
  | 0x08 => rej false (nz g.d || nz g.a || nz g.imm) (.phacq)
  | 0x09 => rej false (nz g.d || nz g.a || nz g.imm) (.pfence)
  | 0x0A => rej false (nz g.d || nz g.a) (.trap (bv 16 g.imm))
  | 0x0B => rej false (nz g.d || nz g.a || nz g.imm) (.tret)
  | 0x0C => rej false (nz g.imm) (.binit g.xd g.xa)
  | 0x0D => rej false (nz g.a || nz (g.imm % 2 ^ 15)) (if bit1 g.imm 15 then .barrG g.xd else .barr g.xd)
  | 0x0E => rej false (decide (1 < g.imm)) (.bexp g.xd g.xa (nz g.imm))
  | 0x0F => rej false (decide (1 < g.imm)) (.btest g.xd g.xa (nz g.imm))
  | 0x10 => rej false (nz g.imm) (.bwait g.xd g.xa)
  | 0x11 => rej false (nz g.d || nz g.a || decide (255 < g.imm) || (bit1 g.imm 6 && nz (fld g.imm 5 3)))
      (if bit1 g.imm 6 then .sbwaitAcc (bit1 g.imm 7) (bv 3 g.imm) else .sbwaitTile (bit1 g.imm 7) (bv 6 g.imm))
  | 0x12 => rej false (nz g.a || decide (1023 < g.imm)) (.enq g.xd (bv 10 g.imm))
  | 0x13 => rej false (decide (1 < g.imm)) (.qsig g.xd g.xa (nz g.imm))
  | 0x14 => rej false (nz g.imm) (.qwait g.xd g.xa)
  | 0x15 => rej false (nz g.imm) (.pginv g.xd g.xa)
  | 0x16 => rej false (nz g.imm) (.pgprobe g.xd g.xa)
  | 0x17 => rej false (decide (1 < g.imm)) (.pgmig g.xd g.xa (nz g.imm))
  | 0x18 => rej false (nz g.a || nz g.imm) (.digrd g.xd)
  | 0x19 => .ok (.evpost g.xd g.xa (bv 16 g.imm))
  | _ => .error 1

/-! ## V slots (R90) -/

/-- The opcodes 0x00-0x19 (R90). -/
def decodeVArith (c : Cluster) (f : VW) : Except Nat Instr :=
  match f.op with
  | 0x00 => f.withTy (fun ty => rej (!ty.any || (ty.isFloat && f.badRnd)) (nz f.vc || decide (1 < f.mod) || (ty.isFloat && nz f.mod) || (!ty.isFloat && (nz f.neg || nz f.rnd))) (.vadd c f.d f.a f.b f.p (nz f.neg) ty f.rm (nz f.mod)))
  | 0x01 => f.withTy (fun ty => rej (!ty.any || (ty.isFloat && f.badRnd)) (nz f.vc || decide (1 < f.mod) || (ty.isFloat && nz f.mod) || (!ty.isFloat && (nz f.neg || nz f.rnd))) (.vsub c f.d f.a f.b f.p (nz f.neg) ty f.rm (nz f.mod)))
  | 0x02 => f.withTy (fun ty => rej (!ty.any || (ty.isFloat && f.badRnd)) (nz f.vc || decide (1 < f.mod) || (ty.isFloat && nz f.mod) || (!ty.isFloat && (nz f.neg || nz f.rnd))) (.vmul c f.d f.a f.b f.p (nz f.neg) ty f.rm (nz f.mod)))
  | 0x03 => f.withTy (fun ty => rej (!ty.isFloat || f.badRnd) (nz f.mod) (.vfma c f.d f.a f.b f.c f.p (nz f.neg) ty f.rm))
  | 0x04 => f.withTy (fun ty => rej (!ty.isFloat || f.badRnd) (nz f.mod) (.vfms c f.d f.a f.b f.c f.p (nz f.neg) ty f.rm))
  | 0x05 => f.withTy (fun ty => rej (!ty.any) (nz f.vc || nz f.neg || nz f.rnd || nz f.mod) (.vmin c f.d f.a f.b f.p ty))
  | 0x06 => f.withTy (fun ty => rej (!ty.any) (nz f.vc || nz f.neg || nz f.rnd || nz f.mod) (.vmax c f.d f.a f.b f.p ty))
  | 0x07 => f.withTy (fun ty => rej (!ty.absOk) (nz f.vb || nz f.vc || nz f.neg || nz f.rnd || decide (1 < f.mod) || (ty.isFloat && nz f.mod)) (.vabs c f.d f.a f.p ty (nz f.mod)))
  | 0x08 => f.withTy (fun ty => rej (!ty.isFloat) (nz f.vc || nz f.neg || nz f.rnd || nz f.mod) (.vcsgn c f.d f.a f.b f.p ty))
  | 0x09 => f.withTy (fun ty => rej (!ty.isInt) (nz f.vc || nz f.neg || nz f.rnd || nz f.mod) (.vmulh c f.d f.a f.b f.p ty))
  | 0x0A => rej false (nz f.vc || nz f.neg || nz f.ty || nz f.rnd || nz f.mod) (.vand c f.d f.a f.b f.p)
  | 0x0B => rej false (nz f.vc || nz f.neg || nz f.ty || nz f.rnd || nz f.mod) (.vor c f.d f.a f.b f.p)
  | 0x0C => rej false (nz f.vc || nz f.neg || nz f.ty || nz f.rnd || nz f.mod) (.vxor c f.d f.a f.b f.p)
  | 0x0D => rej false (nz f.vb || nz f.vc || nz f.neg || nz f.ty || nz f.rnd || nz f.mod) (.vnot c f.d f.a f.p)
  | 0x0E => f.withTy (fun ty => rej (!ty.isInt) (nz f.vc || nz f.neg || nz f.rnd || nz (fld f.mod 26 6) || (f.imm && nz f.vb) || (!f.imm && nz (fld f.mod 5 0))) (.vsll c f.d f.a f.b f.p ty f.imm (bv 6 f.mod)))
  | 0x0F => f.withTy (fun ty => rej (!ty.isInt) (nz f.vc || nz f.neg || nz f.rnd || nz (fld f.mod 26 6) || (f.imm && nz f.vb) || (!f.imm && nz (fld f.mod 5 0))) (.vsrl c f.d f.a f.b f.p ty f.imm (bv 6 f.mod)))
  | 0x10 => f.withTy (fun ty => rej (!ty.isInt) (nz f.vc || nz f.neg || nz f.rnd || nz (fld f.mod 26 6) || (f.imm && nz f.vb) || (!f.imm && nz (fld f.mod 5 0))) (.vsra c f.d f.a f.b f.p ty f.imm (bv 6 f.mod)))
  | 0x11 => f.withTy (fun ty => rej (!ty.any) (nz f.vc || nz f.neg || nz f.rnd || decide (255 < f.mod) || (bit1 f.mod 7 && !nz (fld f.mod 6 4))) (.vcmp c f.d f.a f.b f.p ty (bv 4 f.mod) (bv 3 (f.mod / 2 ^ 4)) (bit1 f.mod 7)))
  | 0x12 => rej false (nz f.neg || nz f.ty || nz f.rnd || nz f.mod) (.vsel c f.d f.a f.b f.c f.p)
  | 0x13 => f.withTy (fun ty => match vtyOf (f.mod % 16) with
      | none => .error 3
      | some src => rej (!VTy.cvtOk ty src || ((ty.isFloat || src.isFloat) && f.badRnd))
          (nz f.vb || nz f.vc || nz f.neg || decide (127 < f.mod) || ((ty.isFloat || src.isFloat) && bit1 f.mod 6) ||
            (!(ty.isFloat || src.isFloat) && nz f.rnd))
          (.vcvt c f.d f.a f.p ty f.rm src (bv 2 (f.mod / 2 ^ 4)) (bit1 f.mod 6)))
  | 0x14 => f.withTy (fun ty => rej (!ty.isInt) (nz f.vb || nz f.vc || nz f.neg || nz f.rnd || nz f.mod) (.vclz c f.d f.a f.p ty))
  | 0x15 => f.withTy (fun ty => rej (!ty.isInt) (nz f.vb || nz f.vc || nz f.neg || nz f.rnd || nz f.mod) (.vpopc c f.d f.a f.p ty))
  | 0x16 => rej false (nz f.vb || nz f.vc || nz f.neg || nz f.ty || nz f.rnd || nz f.mod) (.vmov c f.d f.a f.p)
  | 0x17 => f.withTy (fun ty => rej (!ty.any) (nz f.va || nz f.vb || nz f.vc || nz f.neg || nz f.rnd || decide (31 < f.mod)) (.vsplat c f.d f.p ty (bv 5 f.mod)))
  | 0x18 => f.withTy (fun ty => rej (!ty.isInt) (nz f.va || nz f.vb || nz f.vc || nz f.neg || nz f.rnd || decide (31 < f.mod)) (.viota c f.d f.p ty (bv 5 f.mod)))
  | 0x19 => f.withTy (fun ty => rej (!ty.any) (nz f.va || nz f.vb || nz f.vc || nz f.neg || nz f.rnd || decide (2 ^ 16 ≤ f.mod) || (decide (ty.width = 8) && decide (255 < f.mod))) (.vli c f.d f.p ty (bv 16 f.mod)))
  | _ => .error 1

/-- The opcodes 0x40-0x49 (R90). -/
def decodeVPerm (c : Cluster) (f : VW) : Except Nat Instr :=
  match f.op with
  | 0x40 => f.withTy (fun ty => rej (!ty.moveOk) (nz f.vb || nz f.vc || nz f.neg || nz f.rnd || nz (fld f.mod 26 6) || (!f.imm && bit1 f.mod 5)) (.vrotr c f.d f.a f.p ty f.imm (if f.imm then bv 6 f.mod else 0) (if f.imm then 0 else bv 5 f.mod)))
  | 0x41 => f.withTy (fun ty => rej (!ty.moveOk) (nz f.vb || nz f.vc || nz f.neg || nz f.rnd || nz (fld f.mod 26 6) || (!f.imm && bit1 f.mod 5)) (.vrotc c f.d f.a f.p ty f.imm (if f.imm then bv 6 f.mod else 0) (if f.imm then 0 else bv 5 f.mod)))
  | 0x42 => f.withTy (fun ty => rej (!ty.moveOk) (nz f.vb || nz f.vc || nz f.neg || nz f.rnd || nz (fld f.mod 26 6) || (!f.imm && bit1 f.mod 5)) (.vbcr c f.d f.a f.p ty f.imm (if f.imm then bv 6 f.mod else 0) (if f.imm then 0 else bv 5 f.mod)))
  | 0x43 => f.withTy (fun ty => rej (!ty.moveOk) (nz f.vb || nz f.vc || nz f.neg || nz f.rnd || nz (fld f.mod 26 6) || (!f.imm && bit1 f.mod 5)) (.vbcc c f.d f.a f.p ty f.imm (if f.imm then bv 6 f.mod else 0) (if f.imm then 0 else bv 5 f.mod)))
  | 0x44 => f.withTy (fun ty => rej (!ty.any || (ty.isFloat && !nz (f.mod % 4) && f.badRnd)) (nz f.vb || nz f.vc || nz f.neg || decide (3 < f.mod) || (!(ty.isFloat && !nz (f.mod % 4)) && nz f.rnd)) (.vredr c f.d f.a f.p ty f.rm (bv 2 f.mod)))
  | 0x45 => f.withTy (fun ty => rej (!ty.any || (ty.isFloat && !nz (f.mod % 4) && f.badRnd)) (nz f.vb || nz f.vc || nz f.neg || decide (3 < f.mod) || (!(ty.isFloat && !nz (f.mod % 4)) && nz f.rnd)) (.vredc c f.d f.a f.p ty f.rm (bv 2 f.mod)))
  | 0x46 => f.withTy (fun ty => rej (!ty.any || (ty.isFloat && !nz (f.mod % 4) && f.badRnd)) (nz f.vb || nz f.vc || nz f.neg || decide (7 < f.mod) || (!(ty.isFloat && !nz (f.mod % 4)) && nz f.rnd)) (.vscanr c f.d f.a f.p ty f.rm (bv 2 f.mod) (bit1 f.mod 2)))
  | 0x47 => f.withTy (fun ty => rej (!ty.any || (ty.isFloat && !nz (f.mod % 4) && f.badRnd)) (nz f.vb || nz f.vc || nz f.neg || decide (7 < f.mod) || (!(ty.isFloat && !nz (f.mod % 4)) && nz f.rnd)) (.vscanc c f.d f.a f.p ty f.rm (bv 2 f.mod) (bit1 f.mod 2)))
  | 0x48 => rej (f.ty != 2) (nz f.neg || nz f.rnd || decide (31 < f.mod)) (.vcompact c f.d f.a f.b f.c f.p (bv 5 f.mod))
  | 0x49 => f.withTy (fun ty => rej (!ty.extOk) (nz f.vd || nz f.vb || nz f.vc || nz f.neg || nz f.rnd || decide (2 ^ 15 ≤ f.mod)) (.vext c f.a f.p ty (bv 5 f.mod) (bv 4 (f.mod / 2 ^ 5)) (bv 6 (f.mod / 2 ^ 9))))
  | _ => .error 1

/-- The opcodes 0x60-0x77 (R90). -/
def decodeVFunc (c : Cluster) (f : VW) : Except Nat Instr :=
  match f.op with
  | 0x60 => f.withTy (fun ty => rej (!ty.isFloat) (nz f.vb || nz f.vc || nz f.neg || nz f.rnd || nz f.mod) (.vexpQ c f.d f.a f.p ty))
  | 0x61 => f.withTy (fun ty => rej (!ty.isFloat) (nz f.vb || nz f.vc || nz f.neg || nz f.rnd || nz f.mod) (.vexpX c f.d f.a f.p ty))
  | 0x62 => f.withTy (fun ty => rej (!ty.isFloat) (nz f.vb || nz f.vc || nz f.neg || nz f.rnd || nz f.mod) (.vexp2Q c f.d f.a f.p ty))
  | 0x63 => f.withTy (fun ty => rej (!ty.isFloat) (nz f.vb || nz f.vc || nz f.neg || nz f.rnd || nz f.mod) (.vexp2X c f.d f.a f.p ty))
  | 0x64 => f.withTy (fun ty => rej (!ty.isFloat) (nz f.vb || nz f.vc || nz f.neg || nz f.rnd || nz f.mod) (.vlogQ c f.d f.a f.p ty))
  | 0x65 => f.withTy (fun ty => rej (!ty.isFloat) (nz f.vb || nz f.vc || nz f.neg || nz f.rnd || nz f.mod) (.vlogX c f.d f.a f.p ty))
  | 0x66 => f.withTy (fun ty => rej (!ty.isFloat) (nz f.vb || nz f.vc || nz f.neg || nz f.rnd || nz f.mod) (.vlog2Q c f.d f.a f.p ty))
  | 0x67 => f.withTy (fun ty => rej (!ty.isFloat) (nz f.vb || nz f.vc || nz f.neg || nz f.rnd || nz f.mod) (.vlog2X c f.d f.a f.p ty))
  | 0x68 => f.withTy (fun ty => rej (!ty.isFloat) (nz f.vb || nz f.vc || nz f.neg || nz f.rnd || nz f.mod) (.vsinQ c f.d f.a f.p ty))
  | 0x69 => f.withTy (fun ty => rej (!ty.isFloat) (nz f.vb || nz f.vc || nz f.neg || nz f.rnd || nz f.mod) (.vsinX c f.d f.a f.p ty))
  | 0x6A => f.withTy (fun ty => rej (!ty.isFloat) (nz f.vb || nz f.vc || nz f.neg || nz f.rnd || nz f.mod) (.vcosQ c f.d f.a f.p ty))
  | 0x6B => f.withTy (fun ty => rej (!ty.isFloat) (nz f.vb || nz f.vc || nz f.neg || nz f.rnd || nz f.mod) (.vcosX c f.d f.a f.p ty))
  | 0x6C => f.withTy (fun ty => rej (!ty.isFloat) (nz f.vb || nz f.vc || nz f.neg || nz f.rnd || nz f.mod) (.vtanhQ c f.d f.a f.p ty))
  | 0x6D => f.withTy (fun ty => rej (!ty.isFloat) (nz f.vb || nz f.vc || nz f.neg || nz f.rnd || nz f.mod) (.vtanhX c f.d f.a f.p ty))
  | 0x6E => f.withTy (fun ty => rej (!ty.isFloat) (nz f.vb || nz f.vc || nz f.neg || nz f.rnd || nz f.mod) (.vsigmQ c f.d f.a f.p ty))
  | 0x6F => f.withTy (fun ty => rej (!ty.isFloat) (nz f.vb || nz f.vc || nz f.neg || nz f.rnd || nz f.mod) (.vsigmX c f.d f.a f.p ty))
  | 0x70 => f.withTy (fun ty => rej (!ty.isFloat) (nz f.vb || nz f.vc || nz f.neg || nz f.rnd || nz f.mod) (.vrsqrtQ c f.d f.a f.p ty))
  | 0x71 => f.withTy (fun ty => rej (!ty.isFloat) (nz f.vb || nz f.vc || nz f.neg || nz f.rnd || nz f.mod) (.vrsqrtX c f.d f.a f.p ty))
  | 0x72 => f.withTy (fun ty => rej (!ty.isFloat) (nz f.vb || nz f.vc || nz f.neg || nz f.rnd || nz f.mod) (.vrecipQ c f.d f.a f.p ty))
  | 0x73 => f.withTy (fun ty => rej (!ty.isFloat) (nz f.vb || nz f.vc || nz f.neg || nz f.rnd || nz f.mod) (.vrecipX c f.d f.a f.p ty))
  | 0x74 => f.withTy (fun ty => rej (!ty.isFloat) (nz f.vb || nz f.vc || nz f.neg || nz f.rnd || nz f.mod) (.verfQ c f.d f.a f.p ty))
  | 0x75 => f.withTy (fun ty => rej (!ty.isFloat) (nz f.vb || nz f.vc || nz f.neg || nz f.rnd || nz f.mod) (.verfX c f.d f.a f.p ty))
  | 0x76 => rej (f.ty != 5) (nz f.vb || nz f.vc || nz f.neg || nz f.rnd || decide (2 ^ 11 ≤ f.mod) || (!bit1 f.mod 10 && nz f.va)) (.vshawm c f.d f.a f.p (bit1 f.mod 10) (bv 5 (f.mod / 2 ^ 5)) (bv 5 f.mod))
  | 0x77 => rej (f.ty != 8) (nz f.vb || nz f.vc || nz f.neg || nz f.rnd || decide (2 ^ 11 ≤ f.mod) || (!bit1 f.mod 10 && nz f.va)) (.vshawmf c f.d f.a f.p (bit1 f.mod 10) (bv 5 (f.mod / 2 ^ 5)) (bv 5 f.mod))
  | _ => .error 1

/-- The opcodes 0x80-0x93; those of the Ziggurat unit stand in VB only (R90). -/
def decodeVMem (c : Cluster) (f : VW) : Except Nat Instr :=
  match f.op with
  | 0x80 => rej false (nz f.va || nz f.vb || nz f.vc || nz f.neg || nz f.ty || nz f.rnd || bit1 f.mod 10 || bit1 f.mod 27) (.vld c f.d f.p (bv 5 f.mod) (bv 5 (f.mod / 2 ^ 5)) (bv 16 (f.mod / 2 ^ 11)))
  | 0x81 => let m := bit1 f.mod 10
    let b4 := nz f.vd || nz f.vb || nz f.neg || nz f.rnd || bit1 f.mod 27
    if m then f.withTy (fun ty => rej false b4
        (.vst c f.a f.c f.p ty true (bv 5 f.mod) (bv 5 (f.mod / 2 ^ 5)) (bv 16 (f.mod / 2 ^ 11))))
    else rej false (b4 || nz f.ty || nz f.vc)
        (.vst c f.a 0 f.p .i8x4 false (bv 5 f.mod) (bv 5 (f.mod / 2 ^ 5)) (bv 16 (f.mod / 2 ^ 11)))
  | 0x88 => rej false (nz f.vb || nz f.vc || nz f.neg || nz f.ty || nz f.rnd || nz f.mod) (.xmv c f.d f.a f.p)
  | 0x90 => inB c (f.withTy (fun ty => rej (!ty.rankOk) (nz f.vb || nz f.vc || nz f.neg || nz f.rnd || decide (127 < f.mod)) (.rank f.d f.a f.p ty (bv 7 f.mod))))
  | 0x91 => inB c (f.withTy (fun ty => rej (!ty.rankOk) (nz f.vb || nz f.vc || nz f.neg || nz f.rnd || decide (2 ^ 12 ≤ f.mod)) (.rankt f.d f.a f.p ty (bv 7 f.mod) (bv 5 (f.mod / 2 ^ 7)))))
  | 0x92 => inB c (rej (f.ty != 8) (nz f.vb || nz f.vc || nz f.neg || nz f.rnd || decide (31 < f.mod)) (.rval f.d f.a f.p (bv 5 f.mod)))
  | 0x93 => inB c (rej (f.ty != 8) (nz f.vd || nz f.vb || nz f.vc || nz f.neg || nz f.rnd || decide (15 < f.mod)) (.vatt f.a f.p (bv 4 f.mod)))
  | _ => .error 1

/-- The instruction a V-slot word holds, or the reason of its ILLOP (R90, R95, R208, R209). -/
def decodeV (c : Cluster) (w : Nat) : Except Nat Instr :=
  let f := vOf w
  if f.op < 0x40 then decodeVArith c f
  else if f.op < 0x60 then decodeVPerm c f
  else if f.op < 0x80 then decodeVFunc c f
  else decodeVMem c f

/-! ## M slot (R91) -/

/-- The instruction an M-slot word holds, or the reason of its ILLOP (R91, R95, R252). -/
def decodeM (w : Nat) : Except Nat Instr :=
  let f := mOf w
  match f.op with
  | 0x00 => rej (!decide (f.pa ≤ 3) || !decide (f.pb ≤ 3)) (decide (1 < f.mode)) (.mma f.a f.ta f.tb f.s (nz f.sw) (bv 4 f.pa) (bv 4 f.pb) (nz f.mode))
  | 0x01 => rej (!(decide (4 ≤ f.pa) && decide (f.pa ≤ 6)) || !(decide (4 ≤ f.pb) && decide (f.pb ≤ 6))) (decide (1 < f.mode)) (.imma f.a f.ta f.tb f.s (nz f.sw) (bv 4 f.pa) (bv 4 f.pb) (nz f.mode))
  | 0x02 => rej (!(decide (8 ≤ f.pa) && decide (f.pa ≤ 14)) || !(decide (8 ≤ f.pb) && decide (f.pb ≤ 14))) (decide (1 < f.mode)) (.pmm f.a f.ta f.tb f.s (nz f.sw) (bv 4 f.pa) (bv 4 f.pb) (nz f.mode))
  | 0x03 => rej (!(decide (8 ≤ f.pa) && decide (f.pa ≤ 14)) || !(decide (8 ≤ f.pb) && decide (f.pb ≤ 14))) (decide (1 < f.mode)) (.pmms f.a f.ta f.tb f.s (nz f.sw) (bv 4 f.pa) (bv 4 f.pb) (nz f.mode))
  | 0x04 => rej (!decide (f.pa = 7) || !decide (f.pb = 7)) (decide (1 < f.mode)) (.bmm f.a f.ta f.tb f.s (nz f.sw) (bv 4 f.pa) (bv 4 f.pb) (nz f.mode))
  | 0x05 => rej (!decide (f.pa ≤ 3) || !decide (f.pb ≤ 3)) (decide (1 < f.mode)) (.mmas f.a f.ta f.tb f.s (nz f.sw) (bv 4 f.pa) (bv 4 f.pb) (nz f.mode))
  | 0x06 => rej (decide (6 < f.pb)) (nz f.pa || decide (1 < f.mode)) (.racc f.a f.ta f.tb f.s (nz f.sw) (bv 4 f.pb) (nz f.mode))
  | 0x07 => rej false (nz f.tA || nz f.tB || nz f.sh || nz f.sw || nz f.pa || nz f.pb || nz f.mode) (.anch f.a)
  | 0x08 => rej false (nz f.tA || nz f.tB || nz f.sh || nz f.sw || nz f.pa || nz f.pb || nz f.mode) (.norm f.a)
  | 0x09 => rej false (nz f.tA || nz f.tB || nz f.sh || nz f.sw || nz f.pa || nz f.pb || nz f.mode) (.azero f.a)
  | 0x0A => match vtyOf (f.mode % 16), rndOf (f.mode / 16 % 16) with
    | some ty, some r => rej false (nz f.pa || nz f.pb || decide (511 < f.mode) || (!bit1 f.mode 8 && nz f.tB))
        (.accrd f.a f.ta f.tb f.s (nz f.sw) (bit1 f.mode 8) r ty)
    | _, _ => .error 3
  | 0x0B => rej false (nz f.tA || nz f.tB || nz f.sh || nz f.sw || nz f.pa || nz f.pb || decide (7 < f.mode)) (.accadd f.a (bv 3 f.mode))
  | 0x0C => rej false (nz f.tA || nz f.tB || nz f.sh || nz f.sw || nz f.pa || nz f.pb || decide (7 < f.mode)) (.accmv f.a (bv 3 f.mode))
  | 0x0D => rej false (nz f.tB || nz f.sh || nz f.sw || nz f.pa || nz f.pb || nz f.mode) (.accsv f.a f.ta)
  | 0x0E => rej false (nz f.tB || nz f.sh || nz f.sw || nz f.pa || nz f.pb || nz f.mode) (.accld f.a f.ta)
  | 0x0F => rej false (nz f.acc || nz f.pa || nz f.pb || nz f.mode) (.ttrn f.ta f.tb f.s (nz f.sw))
  | 0x10 => rej false (nz f.acc || nz f.tB || nz f.sh || nz f.sw || nz f.pa || nz f.pb || nz f.mode) (.tzero f.ta)
  | 0x11 => rej false (nz f.acc || nz f.tA || nz f.tB || nz f.sh || nz f.sw || nz f.pa || nz f.pb || decide (255 < f.mode)) (.kchk (bv 8 f.mode))
  | _ => .error 1

/-! ## CA and CB slots (R92) -/

/-- The instruction a copy-slot word holds, or the reason of its ILLOP (R92, R95, R285). -/
def decodeC (e : CopyEng) (w : Nat) : Except Nat Instr :=
  let f := cOf w
  match f.op with
  | 0x00 => rej false (nz f.aux) (.tld e f.g f.t f.hn f.s (nz f.sw) f.c (bv 24 f.pr))
  | 0x01 => rej false (nz f.aux || nz f.pr) (.tst e f.g f.t f.hn f.s (nz f.sw) f.c)
  | 0x02 => rej false (nz f.tile || nz f.aux || nz f.pr) (.pref e f.g f.hn f.s (nz f.sw) f.c)
  | 0x03 => .ok (.tgath e f.g f.t f.hn f.s (nz f.sw) f.c f.x (bv 24 f.pr))
  | 0x04 => rej false (nz f.pr) (.tscat e f.g f.t f.hn f.s (nz f.sw) f.c f.x)
  | 0x05 => rej false (nz f.aux) (.tldb e f.g f.t f.hn f.s (nz f.sw) f.c (bv 24 f.pr))
  | 0x06 => if bit1 f.h 0 then rej false (decide (1 < f.h) || nz f.pr) (.scopySt e f.g f.t f.s (nz f.sw) f.c f.x)
    else rej false (nz f.h) (.scopyLd e f.g f.t f.s (nz f.sw) f.c f.x (bv 24 f.pr))
  | 0x07 => rej false (nz f.tag || nz f.h || nz f.pr) (.vtld e f.t f.s (nz f.sw) f.c f.x)
  | 0x08 => rej false (nz f.tag || nz f.h || nz f.pr) (.vtst e f.t f.s (nz f.sw) f.c f.x)
  | 0x09 => rej false (nz f.tag || nz f.h || nz f.cb || nz f.pr) (.tfill e f.t f.s (nz f.sw) f.x)
  | 0x0A => rej false (nz f.sw || (decide (f.h = 10) && nz f.sh)) (.atom e f.g f.t (bv 6 f.h) (bv 2 f.sh) f.c f.x (bv 24 f.pr))
  | 0x0B => rej false (nz f.tile || nz f.sw || nz f.pr) (.red e f.g (bv 6 f.h) (bv 2 f.sh) f.c f.x)
  | 0x0C => rej false (nz f.pr) (.redt e f.g f.t f.hn f.s (nz f.sw) f.c f.x)
  | 0x0D => rej false (nz f.tag || nz f.sh || nz f.sw || nz f.cb || nz f.aux || nz f.pr) (.hld e f.t f.hn)
  | 0x0E => rej false (nz f.tag || nz f.sh || nz f.sw || nz f.cb || nz f.aux || nz f.pr) (.hst e f.t f.hn)
  | 0x0F => rej false (nz f.tag || nz f.tile || nz f.sh || nz f.sw || nz f.aux || decide (255 < f.pr)) (.hmod e f.hn f.c (bv 8 f.pr))
  | 0x10 => rej false (nz f.tile || nz f.h || nz f.sh || nz f.sw || nz f.cb || nz f.aux) (.ovl e f.g (bv 24 f.pr))
  | _ => .error 1

/-! ## L slot (R93) -/

/-- The instruction an L-slot word holds, or the reason of its ILLOP (R93, R95). -/
def decodeL (w : Nat) : Except Nat Instr :=
  let f := lOf w
  match f.op with
  | 0x00 => rej false (nz f.sh || nz f.sw || nz f.ts || nz (f.len % 2 ^ 10)) (.send f.po f.t f.pe)
  | 0x01 => rej false (nz f.sh || nz f.sw || nz (f.len % 2 ^ 10)) (.recv f.po f.t f.pe (bv 24 f.ts))
  | 0x02 => rej false (nz f.sh || nz f.sw || nz f.ts) (.sendr f.po f.t f.pe (bv 6 (f.len / 2 ^ 4)) (bv 4 f.len))
  | 0x03 => rej false (nz f.sh || nz f.sw) (.recvr f.po f.t f.pe (bv 6 (f.len / 2 ^ 4)) (bv 4 f.len) (bv 24 f.ts))
  | 0x04 => rej false (nz f.sh || nz f.sw || nz (f.len % 2 ^ 10)) (.radd f.po f.t f.pe (bv 24 f.ts))
  | 0x05 => rej false (nz f.sh || nz f.sw || nz (f.len % 2 ^ 10)) (.rmax f.po f.t f.pe (bv 24 f.ts))
  | 0x06 => rej false (nz f.sh || nz f.sw || nz (f.len % 2 ^ 10)) (.rmin f.po f.t f.pe (bv 24 f.ts))
  | 0x07 => rej false (nz f.ts || (!bit1 f.len 4 && nz (fld f.len 9 5)) || (!bit1 f.len 3 && nz (f.len % 8)))
      (.lcopy f.po f.t (bv 2 f.sh) (nz f.sw) (bv 5 (f.len / 2 ^ 15)) (bv 5 (f.len / 2 ^ 10)) (bv 5 (f.len / 2 ^ 5))
        (bit1 f.len 4) (bit1 f.len 3) (bv 3 f.len))
  | 0x08 => rej false (nz f.port || nz f.tile || nz f.sh || nz f.sw || nz f.ts || nz (f.len % 2 ^ 15)) (.lcrcr (bv 5 (f.len / 2 ^ 15)))
  | 0x09 => rej false (nz f.port || nz f.tile || nz f.sh || nz f.sw || nz f.ts || nz (f.len % 2 ^ 15)) (.lcrcw (bv 5 (f.len / 2 ^ 15)))
  | 0x0A => rej false (nz f.tile || nz f.sh || nz f.sw || nz f.ts || nz (f.len % 2 ^ 15)) (.lstat f.po (bv 5 (f.len / 2 ^ 15)))
  | 0x0B => rej false (nz f.port || nz f.tile || nz f.sh || nz f.sw || nz f.ts || decide (1 < f.len)) (.lfence (nz f.len))
  | _ => .error 1

/-- The instruction the word of a slot holds (R89-R94). -/
def decodeSlot : Slot → Nat → Except Nat Instr
  | .s, w => decodeS w
  | .va, w => decodeV .a w
  | .vb, w => decodeV .b w
  | .m, w => decodeM w
  | .ca, w => decodeC .a w
  | .cb, w => decodeC .b w
  | .l, w => decodeL w
  | .x, w => decodeX w

/-! ## The encoder, from the same layouts (R75-R80, R89-R94) -/

/-- The word of a well-formed slot instruction; an event has none, and 0 stands for it. -/
def encode : Instr → Nat
  | .add d a b s w => rWord ⟨0x0, d.toNat, a.toNat, b.toNat, b2n s, b2n w, 0⟩
  | .sub d a b s w => rWord ⟨0x1, d.toNat, a.toNat, b.toNat, b2n s, b2n w, 0⟩
  | .mul d a b s w => rWord ⟨0x2, d.toNat, a.toNat, b.toNat, b2n s, b2n w, 0⟩
  | .mulh d a b => rWord ⟨0x3, d.toNat, a.toNat, b.toNat, 0, 0, 0⟩
  | .mulhu d a b => rWord ⟨0x4, d.toNat, a.toNat, b.toNat, 0, 0, 0⟩
  | .div d a b w => rWord ⟨0x5, d.toNat, a.toNat, b.toNat, 0, b2n w, 0⟩
  | .divu d a b w => rWord ⟨0x6, d.toNat, a.toNat, b.toNat, 0, b2n w, 0⟩
  | .rem d a b w => rWord ⟨0x7, d.toNat, a.toNat, b.toNat, 0, b2n w, 0⟩
  | .remu d a b w => rWord ⟨0x8, d.toNat, a.toNat, b.toNat, 0, b2n w, 0⟩
  | .and d a b => rWord ⟨0x9, d.toNat, a.toNat, b.toNat, 0, 0, 0⟩
  | .or d a b => rWord ⟨0xa, d.toNat, a.toNat, b.toNat, 0, 0, 0⟩
  | .xor d a b => rWord ⟨0xb, d.toNat, a.toNat, b.toNat, 0, 0, 0⟩
  | .sll d a b s w => rWord ⟨0xc, d.toNat, a.toNat, b.toNat, b2n s, b2n w, 0⟩
  | .srl d a b w => rWord ⟨0xd, d.toNat, a.toNat, b.toNat, 0, b2n w, 0⟩
  | .sra d a b w => rWord ⟨0xe, d.toNat, a.toNat, b.toNat, 0, b2n w, 0⟩
  | .min d a b => rWord ⟨0xf, d.toNat, a.toNat, b.toNat, 0, 0, 0⟩
  | .max d a b => rWord ⟨0x10, d.toNat, a.toNat, b.toNat, 0, 0, 0⟩
  | .minu d a b => rWord ⟨0x11, d.toNat, a.toNat, b.toNat, 0, 0, 0⟩
  | .maxu d a b => rWord ⟨0x12, d.toNat, a.toNat, b.toNat, 0, 0, 0⟩
  | .clz d a w => rWord ⟨0x13, d.toNat, a.toNat, 0, 0, b2n w, 0⟩
  | .popc d a w => rWord ⟨0x14, d.toNat, a.toNat, 0, 0, b2n w, 0⟩
  | .cmp p a b w cc => rWord ⟨0x15, p.toNat, a.toNat, b.toNat, 0, b2n w, cc.toNat⟩
  | .sel d a b p => rWord ⟨0x16, d.toNat, a.toNat, b.toNat, 0, 0, p.toNat⟩
  | .plog d a b t => rWord ⟨0x17, d.toNat, a.toNat, b.toNat, 0, 0, t.toNat⟩
  | .addi d a imm => iWord ⟨0x18, d.toNat, a.toNat, imm.toNat⟩
  | .andi d a imm => iWord ⟨0x19, d.toNat, a.toNat, imm.toNat⟩
  | .ori d a imm => iWord ⟨0x1a, d.toNat, a.toNat, imm.toNat⟩
  | .xori d a imm => iWord ⟨0x1b, d.toNat, a.toNat, imm.toNat⟩
  | .slli d a sh => iWord ⟨0x1c, d.toNat, a.toNat, sh.toNat⟩
  | .srli d a sh => iWord ⟨0x1d, d.toNat, a.toNat, sh.toNat⟩
  | .srai d a sh => iWord ⟨0x1e, d.toNat, a.toNat, sh.toNat⟩
  | .li d imm => iWord ⟨0x1f, d.toNat, 0, imm.toNat⟩
  | .lis d a imm => iWord ⟨0x20, d.toNat, a.toNat, imm.toNat⟩
  | .cmpi p a cc imm => iWord ⟨0x21, p.toNat, a.toNat, cc.toNat * 2 ^ 13 + imm.toNat⟩
  | .bfx d a se len pos => iWord ⟨0x22, d.toNat, a.toNat, b2n se * 2 ^ 12 + len.toNat * 2 ^ 6 + pos.toNat⟩
  | .bfi d a len pos => iWord ⟨0x23, d.toNat, a.toNat, len.toNat * 2 ^ 6 + pos.toNat⟩
  | .br neg p disp => bWord ⟨0x24, b2n neg * 8 + p.toNat, disp.toNat⟩
  | .call l disp => bWord ⟨0x25, l.toNat, disp.toNat⟩
  | .jr d a => rWord ⟨0x26, d.toNat, a.toNat, 0, 0, 0, 0⟩
  | .loop c disp => bWord ⟨0x27, c.toNat, disp.toNat⟩
  | .lds d b size off => iWord ⟨0x28, d.toNat, b.toNat, size.toNat * 2 ^ 14 + off.toNat⟩
  | .ldz d b size off => iWord ⟨0x29, d.toNat, b.toNat, size.toNat * 2 ^ 14 + off.toNat⟩
  | .st d b size off => iWord ⟨0x2a, d.toNat, b.toNat, size.toNat * 2 ^ 14 + off.toNat⟩
  | .shw n a f => rWord ⟨0x2b, n.toNat, a.toNat, 0, 0, 0, f.toNat⟩
  | .litr d a imm => iWord ⟨0x2c, d.toNat, a.toNat, imm.toNat⟩
  | .csrr d csr => iWord ⟨0x2d, d.toNat, 0, csr.toNat⟩
  | .csrw a csr => iWord ⟨0x2e, 0, a.toNat, csr.toNat⟩
  | .tdw n a => iWord ⟨0x2f, 0, a.toNat, n.toNat⟩
  | .bfw n a => iWord ⟨0x30, n.toNat, a.toNat, 0⟩
  | .nop => iWord ⟨0x0, 0, 0, 0⟩
  | .nopn n => iWord ⟨0x1, 0, 0, n.toNat⟩
  | .endp => iWord ⟨0x2, 0, 0, 0⟩
  | .lalign => iWord ⟨0x3, 0, 0, 0⟩
  | .wnext d => iWord ⟨0x4, 0, 0, d.toNat⟩
  | .phopen a e1 acc1 e0 acc0 => iWord ⟨0x5, a.toNat, 0, b2n e1 * 2 ^ 15 + acc1.toNat * 2 ^ 12 + b2n e0 * 2 ^ 11 + acc0.toNat * 2 ^ 8⟩
  | .phseal => iWord ⟨0x6, 0, 0, 0⟩
  | .phpub => iWord ⟨0x7, 0, 0, 0⟩
  | .phacq => iWord ⟨0x8, 0, 0, 0⟩
  | .pfence => iWord ⟨0x9, 0, 0, 0⟩
  | .trap imm => iWord ⟨0xa, 0, 0, imm.toNat⟩
  | .tret => iWord ⟨0xb, 0, 0, 0⟩
  | .binit a b => iWord ⟨0xc, a.toNat, b.toNat, 0⟩
  | .barr a => iWord ⟨0xd, a.toNat, 0, 0⟩
  | .barrG a => iWord ⟨0xd, a.toNat, 0, 2 ^ 15⟩
  | .bexp a b arr => iWord ⟨0xe, a.toNat, b.toNat, b2n arr⟩
  | .btest a d h => iWord ⟨0xf, a.toNat, d.toNat, b2n h⟩
  | .bwait a b => iWord ⟨0x10, a.toNat, b.toNat, 0⟩
  | .sbwaitTile f n => iWord ⟨0x11, 0, 0, b2n f * 2 ^ 7 + n.toNat⟩
  | .sbwaitAcc f n => iWord ⟨0x11, 0, 0, b2n f * 2 ^ 7 + 2 ^ 6 + n.toNat⟩
  | .enq a q => iWord ⟨0x12, a.toNat, 0, q.toNat⟩
  | .qsig a b o => iWord ⟨0x13, a.toNat, b.toNat, b2n o⟩
  | .qwait a b => iWord ⟨0x14, a.toNat, b.toNat, 0⟩
  | .pginv a b => iWord ⟨0x15, a.toNat, b.toNat, 0⟩
  | .pgprobe a d => iWord ⟨0x16, a.toNat, d.toNat, 0⟩
  | .pgmig a b ret => iWord ⟨0x17, a.toNat, b.toNat, b2n ret⟩
  | .digrd d => iWord ⟨0x18, d.toNat, 0, 0⟩
  | .evpost a b code => iWord ⟨0x19, a.toNat, b.toNat, code.toNat⟩
  | .vadd _ vd va vb p neg ty rnd s => vWord ⟨0x00, vd.toNat, va.toNat, vb.toNat, 0, p.toNat, b2n neg, ty.code, rnd.code, b2n s⟩
  | .vsub _ vd va vb p neg ty rnd s => vWord ⟨0x01, vd.toNat, va.toNat, vb.toNat, 0, p.toNat, b2n neg, ty.code, rnd.code, b2n s⟩
  | .vmul _ vd va vb p neg ty rnd s => vWord ⟨0x02, vd.toNat, va.toNat, vb.toNat, 0, p.toNat, b2n neg, ty.code, rnd.code, b2n s⟩
  | .vfma _ vd va vb vc p neg ty rnd => vWord ⟨0x03, vd.toNat, va.toNat, vb.toNat, vc.toNat, p.toNat, b2n neg, ty.code, rnd.code, 0⟩
  | .vfms _ vd va vb vc p neg ty rnd => vWord ⟨0x04, vd.toNat, va.toNat, vb.toNat, vc.toNat, p.toNat, b2n neg, ty.code, rnd.code, 0⟩
  | .vmin _ vd va vb p ty => vWord ⟨0x05, vd.toNat, va.toNat, vb.toNat, 0, p.toNat, 0, ty.code, 0, 0⟩
  | .vmax _ vd va vb p ty => vWord ⟨0x06, vd.toNat, va.toNat, vb.toNat, 0, p.toNat, 0, ty.code, 0, 0⟩
  | .vabs _ vd va p ty s => vWord ⟨0x07, vd.toNat, va.toNat, 0, 0, p.toNat, 0, ty.code, 0, b2n s⟩
  | .vcsgn _ vd va vb p ty => vWord ⟨0x08, vd.toNat, va.toNat, vb.toNat, 0, p.toNat, 0, ty.code, 0, 0⟩
  | .vmulh _ vd va vb p ty => vWord ⟨0x09, vd.toNat, va.toNat, vb.toNat, 0, p.toNat, 0, ty.code, 0, 0⟩
  | .vand _ vd va vb p => vWord ⟨0x0A, vd.toNat, va.toNat, vb.toNat, 0, p.toNat, 0, 0, 0, 0⟩
  | .vor _ vd va vb p => vWord ⟨0x0B, vd.toNat, va.toNat, vb.toNat, 0, p.toNat, 0, 0, 0, 0⟩
  | .vxor _ vd va vb p => vWord ⟨0x0C, vd.toNat, va.toNat, vb.toNat, 0, p.toNat, 0, 0, 0, 0⟩
  | .vnot _ vd va p => vWord ⟨0x0D, vd.toNat, va.toNat, 0, 0, p.toNat, 0, 0, 0, 0⟩
  | .vsll _ vd va vb p ty i n => vWord ⟨0x0E, vd.toNat, va.toNat, vb.toNat, 0, p.toNat, 0, ty.code, 0, b2n i * 2 ^ 27 + n.toNat⟩
  | .vsrl _ vd va vb p ty i n => vWord ⟨0x0F, vd.toNat, va.toNat, vb.toNat, 0, p.toNat, 0, ty.code, 0, b2n i * 2 ^ 27 + n.toNat⟩
  | .vsra _ vd va vb p ty i n => vWord ⟨0x10, vd.toNat, va.toNat, vb.toNat, 0, p.toNat, 0, ty.code, 0, b2n i * 2 ^ 27 + n.toNat⟩
  | .vcmp _ vd va vb p ty cc pd all => vWord ⟨0x11, vd.toNat, va.toNat, vb.toNat, 0, p.toNat, 0, ty.code, 0, b2n all * 2 ^ 7 + pd.toNat * 2 ^ 4 + cc.toNat⟩
  | .vsel _ vd va vb vc p => vWord ⟨0x12, vd.toNat, va.toNat, vb.toNat, vc.toNat, p.toNat, 0, 0, 0, 0⟩
  | .vcvt _ vd va p ty rnd src h s => vWord ⟨0x13, vd.toNat, va.toNat, 0, 0, p.toNat, 0, ty.code, rnd.code, b2n s * 2 ^ 6 + h.toNat * 2 ^ 4 + src.code⟩
  | .vclz _ vd va p ty => vWord ⟨0x14, vd.toNat, va.toNat, 0, 0, p.toNat, 0, ty.code, 0, 0⟩
  | .vpopc _ vd va p ty => vWord ⟨0x15, vd.toNat, va.toNat, 0, 0, p.toNat, 0, ty.code, 0, 0⟩
  | .vmov _ vd va p => vWord ⟨0x16, vd.toNat, va.toNat, 0, 0, p.toNat, 0, 0, 0, 0⟩
  | .vsplat _ vd p ty xs => vWord ⟨0x17, vd.toNat, 0, 0, 0, p.toNat, 0, ty.code, 0, xs.toNat⟩
  | .viota _ vd p ty xs => vWord ⟨0x18, vd.toNat, 0, 0, 0, p.toNat, 0, ty.code, 0, xs.toNat⟩
  | .vli _ vd p ty imm => vWord ⟨0x19, vd.toNat, 0, 0, 0, p.toNat, 0, ty.code, 0, imm.toNat⟩
  | .vrotr _ vd va p ty i n xs => vWord ⟨0x40, vd.toNat, va.toNat, 0, 0, p.toNat, 0, ty.code, 0, b2n i * 2 ^ 27 + n.toNat + xs.toNat⟩
  | .vrotc _ vd va p ty i n xs => vWord ⟨0x41, vd.toNat, va.toNat, 0, 0, p.toNat, 0, ty.code, 0, b2n i * 2 ^ 27 + n.toNat + xs.toNat⟩
  | .vbcr _ vd va p ty i n xs => vWord ⟨0x42, vd.toNat, va.toNat, 0, 0, p.toNat, 0, ty.code, 0, b2n i * 2 ^ 27 + n.toNat + xs.toNat⟩
  | .vbcc _ vd va p ty i n xs => vWord ⟨0x43, vd.toNat, va.toNat, 0, 0, p.toNat, 0, ty.code, 0, b2n i * 2 ^ 27 + n.toNat + xs.toNat⟩
  | .vredr _ vd va p ty rnd op => vWord ⟨0x44, vd.toNat, va.toNat, 0, 0, p.toNat, 0, ty.code, rnd.code, op.toNat⟩
  | .vredc _ vd va p ty rnd op => vWord ⟨0x45, vd.toNat, va.toNat, 0, 0, p.toNat, 0, ty.code, rnd.code, op.toNat⟩
  | .vscanr _ vd va p ty rnd op ex => vWord ⟨0x46, vd.toNat, va.toNat, 0, 0, p.toNat, 0, ty.code, rnd.code, b2n ex * 2 ^ 2 + op.toNat⟩
  | .vscanc _ vd va p ty rnd op ex => vWord ⟨0x47, vd.toNat, va.toNat, 0, 0, p.toNat, 0, ty.code, rnd.code, b2n ex * 2 ^ 2 + op.toNat⟩
  | .vcompact _ vd va vb vc p xc => vWord ⟨0x48, vd.toNat, va.toNat, vb.toNat, vc.toNat, p.toNat, 0, 2, 0, xc.toNat⟩
  | .vext _ va p ty xd row col => vWord ⟨0x49, 0, va.toNat, 0, 0, p.toNat, 0, ty.code, 0, col.toNat * 2 ^ 9 + row.toNat * 2 ^ 5 + xd.toNat⟩
  | .vexpQ _ vd va p ty => vWord ⟨0x60, vd.toNat, va.toNat, 0, 0, p.toNat, 0, ty.code, 0, 0⟩
  | .vexpX _ vd va p ty => vWord ⟨0x61, vd.toNat, va.toNat, 0, 0, p.toNat, 0, ty.code, 0, 0⟩
  | .vexp2Q _ vd va p ty => vWord ⟨0x62, vd.toNat, va.toNat, 0, 0, p.toNat, 0, ty.code, 0, 0⟩
  | .vexp2X _ vd va p ty => vWord ⟨0x63, vd.toNat, va.toNat, 0, 0, p.toNat, 0, ty.code, 0, 0⟩
  | .vlogQ _ vd va p ty => vWord ⟨0x64, vd.toNat, va.toNat, 0, 0, p.toNat, 0, ty.code, 0, 0⟩
  | .vlogX _ vd va p ty => vWord ⟨0x65, vd.toNat, va.toNat, 0, 0, p.toNat, 0, ty.code, 0, 0⟩
  | .vlog2Q _ vd va p ty => vWord ⟨0x66, vd.toNat, va.toNat, 0, 0, p.toNat, 0, ty.code, 0, 0⟩
  | .vlog2X _ vd va p ty => vWord ⟨0x67, vd.toNat, va.toNat, 0, 0, p.toNat, 0, ty.code, 0, 0⟩
  | .vsinQ _ vd va p ty => vWord ⟨0x68, vd.toNat, va.toNat, 0, 0, p.toNat, 0, ty.code, 0, 0⟩
  | .vsinX _ vd va p ty => vWord ⟨0x69, vd.toNat, va.toNat, 0, 0, p.toNat, 0, ty.code, 0, 0⟩
  | .vcosQ _ vd va p ty => vWord ⟨0x6A, vd.toNat, va.toNat, 0, 0, p.toNat, 0, ty.code, 0, 0⟩
  | .vcosX _ vd va p ty => vWord ⟨0x6B, vd.toNat, va.toNat, 0, 0, p.toNat, 0, ty.code, 0, 0⟩
  | .vtanhQ _ vd va p ty => vWord ⟨0x6C, vd.toNat, va.toNat, 0, 0, p.toNat, 0, ty.code, 0, 0⟩
  | .vtanhX _ vd va p ty => vWord ⟨0x6D, vd.toNat, va.toNat, 0, 0, p.toNat, 0, ty.code, 0, 0⟩
  | .vsigmQ _ vd va p ty => vWord ⟨0x6E, vd.toNat, va.toNat, 0, 0, p.toNat, 0, ty.code, 0, 0⟩
  | .vsigmX _ vd va p ty => vWord ⟨0x6F, vd.toNat, va.toNat, 0, 0, p.toNat, 0, ty.code, 0, 0⟩
  | .vrsqrtQ _ vd va p ty => vWord ⟨0x70, vd.toNat, va.toNat, 0, 0, p.toNat, 0, ty.code, 0, 0⟩
  | .vrsqrtX _ vd va p ty => vWord ⟨0x71, vd.toNat, va.toNat, 0, 0, p.toNat, 0, ty.code, 0, 0⟩
  | .vrecipQ _ vd va p ty => vWord ⟨0x72, vd.toNat, va.toNat, 0, 0, p.toNat, 0, ty.code, 0, 0⟩
  | .vrecipX _ vd va p ty => vWord ⟨0x73, vd.toNat, va.toNat, 0, 0, p.toNat, 0, ty.code, 0, 0⟩
  | .verfQ _ vd va p ty => vWord ⟨0x74, vd.toNat, va.toNat, 0, 0, p.toNat, 0, ty.code, 0, 0⟩
  | .verfX _ vd va p ty => vWord ⟨0x75, vd.toNat, va.toNat, 0, 0, p.toNat, 0, ty.code, 0, 0⟩
  | .vshawm _ vd va p v xc xk => vWord ⟨0x76, vd.toNat, va.toNat, 0, 0, p.toNat, 0, 5, 0, b2n v * 2 ^ 10 + xc.toNat * 2 ^ 5 + xk.toNat⟩
  | .vshawmf _ vd va p v xc xk => vWord ⟨0x77, vd.toNat, va.toNat, 0, 0, p.toNat, 0, 8, 0, b2n v * 2 ^ 10 + xc.toNat * 2 ^ 5 + xk.toNat⟩
  | .vld _ vd p xb xs off => vWord ⟨0x80, vd.toNat, 0, 0, 0, p.toNat, 0, 0, 0, off.toNat * 2 ^ 11 + xs.toNat * 2 ^ 5 + xb.toNat⟩
  | .vst _ va vc p ty m xb xs off => vWord ⟨0x81, 0, va.toNat, 0, vc.toNat, p.toNat, 0, ty.code, 0, off.toNat * 2 ^ 11 + b2n m * 2 ^ 10 + xs.toNat * 2 ^ 5 + xb.toNat⟩
  | .xmv _ vd va p => vWord ⟨0x88, vd.toNat, va.toNat, 0, 0, p.toNat, 0, 0, 0, 0⟩
  | .rank vd va p ty k => vWord ⟨0x90, vd.toNat, va.toNat, 0, 0, p.toNat, 0, ty.code, 0, k.toNat⟩
  | .rankt vd va p ty k xt => vWord ⟨0x91, vd.toNat, va.toNat, 0, 0, p.toNat, 0, ty.code, 0, xt.toNat * 2 ^ 7 + k.toNat⟩
  | .rval vd va p xf => vWord ⟨0x92, vd.toNat, va.toNat, 0, 0, p.toNat, 0, 8, 0, xf.toNat⟩
  | .vatt va p row => vWord ⟨0x93, 0, va.toNat, 0, 0, p.toNat, 0, 8, 0, row.toNat⟩
  | .mma acc tA tB sh sw pa pb sub => mWord ⟨0x00, acc.toNat, tA.toNat, tB.toNat, sh.toNat, b2n sw, pa.toNat, pb.toNat, b2n sub⟩
  | .imma acc tA tB sh sw pa pb sub => mWord ⟨0x01, acc.toNat, tA.toNat, tB.toNat, sh.toNat, b2n sw, pa.toNat, pb.toNat, b2n sub⟩
  | .pmm acc tA tB sh sw pa pb sub => mWord ⟨0x02, acc.toNat, tA.toNat, tB.toNat, sh.toNat, b2n sw, pa.toNat, pb.toNat, b2n sub⟩
  | .pmms acc tA tB sh sw pa pb sub => mWord ⟨0x03, acc.toNat, tA.toNat, tB.toNat, sh.toNat, b2n sw, pa.toNat, pb.toNat, b2n sub⟩
  | .bmm acc tA tB sh sw pa pb sub => mWord ⟨0x04, acc.toNat, tA.toNat, tB.toNat, sh.toNat, b2n sw, pa.toNat, pb.toNat, b2n sub⟩
  | .mmas acc tA tB sh sw pa pb sub => mWord ⟨0x05, acc.toNat, tA.toNat, tB.toNat, sh.toNat, b2n sw, pa.toNat, pb.toNat, b2n sub⟩
  | .racc acc tA tB sh sw pb sub => mWord ⟨0x06, acc.toNat, tA.toNat, tB.toNat, sh.toNat, b2n sw, 0, pb.toNat, b2n sub⟩
  | .anch acc => mWord ⟨0x07, acc.toNat, 0, 0, 0, 0, 0, 0, 0⟩
  | .norm acc => mWord ⟨0x08, acc.toNat, 0, 0, 0, 0, 0, 0, 0⟩
  | .azero acc => mWord ⟨0x09, acc.toNat, 0, 0, 0, 0, 0, 0, 0⟩
  | .accrd acc td ts sh sw sc rnd fmt => mWord ⟨0x0A, acc.toNat, td.toNat, ts.toNat, sh.toNat, b2n sw, 0, 0, b2n sc * 2 ^ 8 + rnd.code * 2 ^ 4 + fmt.code⟩
  | .accadd acc src => mWord ⟨0x0B, acc.toNat, 0, 0, 0, 0, 0, 0, src.toNat⟩
  | .accmv acc src => mWord ⟨0x0C, acc.toNat, 0, 0, 0, 0, 0, 0, src.toNat⟩
  | .accsv acc t => mWord ⟨0x0D, acc.toNat, t.toNat, 0, 0, 0, 0, 0, 0⟩
  | .accld acc t => mWord ⟨0x0E, acc.toNat, t.toNat, 0, 0, 0, 0, 0, 0⟩
  | .ttrn tA tB sh sw => mWord ⟨0x0F, 0, tA.toNat, tB.toNat, sh.toNat, b2n sw, 0, 0, 0⟩
  | .tzero t => mWord ⟨0x10, 0, t.toNat, 0, 0, 0, 0, 0, 0⟩
  | .kchk seed => mWord ⟨0x11, 0, 0, 0, 0, 0, 0, 0, seed.toNat⟩
  | .tld _ g t h sh sw cb pr => cWord ⟨0x00, g.toNat, t.toNat, h.toNat, sh.toNat, b2n sw, cb.toNat, 0, pr.toNat⟩
  | .tst _ g t h sh sw cb => cWord ⟨0x01, g.toNat, t.toNat, h.toNat, sh.toNat, b2n sw, cb.toNat, 0, 0⟩
  | .pref _ g h sh sw cb => cWord ⟨0x02, g.toNat, 0, h.toNat, sh.toNat, b2n sw, cb.toNat, 0, 0⟩
  | .tgath _ g t h sh sw cb xi pr => cWord ⟨0x03, g.toNat, t.toNat, h.toNat, sh.toNat, b2n sw, cb.toNat, xi.toNat, pr.toNat⟩
  | .tscat _ g t h sh sw cb xi => cWord ⟨0x04, g.toNat, t.toNat, h.toNat, sh.toNat, b2n sw, cb.toNat, xi.toNat, 0⟩
  | .tldb _ g t h sh sw cb pr => cWord ⟨0x05, g.toNat, t.toNat, h.toNat, sh.toNat, b2n sw, cb.toNat, 0, pr.toNat⟩
  | .scopyLd _ g t sh sw xa xs pr => cWord ⟨0x06, g.toNat, t.toNat, 0, sh.toNat, b2n sw, xa.toNat, xs.toNat, pr.toNat⟩
  | .scopySt _ g t sh sw xa xs => cWord ⟨0x06, g.toNat, t.toNat, 1, sh.toNat, b2n sw, xa.toNat, xs.toNat, 0⟩
  | .vtld _ t sh sw xo xs => cWord ⟨0x07, 0, t.toNat, 0, sh.toNat, b2n sw, xo.toNat, xs.toNat, 0⟩
  | .vtst _ t sh sw xo xs => cWord ⟨0x08, 0, t.toNat, 0, sh.toNat, b2n sw, xo.toNat, xs.toNat, 0⟩
  | .tfill _ t sh sw xv => cWord ⟨0x09, 0, t.toNat, 0, sh.toNat, b2n sw, 0, xv.toNat, 0⟩
  | .atom _ g t op sz xa xv pr => cWord ⟨0x0A, g.toNat, t.toNat, op.toNat, sz.toNat, 0, xa.toNat, xv.toNat, pr.toNat⟩
  | .red _ g op sz xa xv => cWord ⟨0x0B, g.toNat, 0, op.toNat, sz.toNat, 0, xa.toNat, xv.toNat, 0⟩
  | .redt _ g t h sh sw cb op => cWord ⟨0x0C, g.toNat, t.toNat, h.toNat, sh.toNat, b2n sw, cb.toNat, op.toNat, 0⟩
  | .hld _ t h => cWord ⟨0x0D, 0, t.toNat, h.toNat, 0, 0, 0, 0, 0⟩
  | .hst _ t h => cWord ⟨0x0E, 0, t.toNat, h.toNat, 0, 0, 0, 0, 0⟩
  | .hmod _ h xv f => cWord ⟨0x0F, 0, 0, h.toNat, 0, 0, xv.toNat, 0, f.toNat⟩
  | .ovl _ g n => cWord ⟨0x10, g.toNat, 0, 0, 0, 0, 0, 0, n.toNat⟩
  | .send port t peer => lWord ⟨0x00, port.toNat, t.toNat, 0, 0, peer.toNat * 2 ^ 10, 0⟩
  | .recv port t peer ts => lWord ⟨0x01, port.toNat, t.toNat, 0, 0, peer.toNat * 2 ^ 10, ts.toNat⟩
  | .sendr port t peer k rows => lWord ⟨0x02, port.toNat, t.toNat, 0, 0, peer.toNat * 2 ^ 10 + k.toNat * 2 ^ 4 + rows.toNat, 0⟩
  | .recvr port t peer k rows ts => lWord ⟨0x03, port.toNat, t.toNat, 0, 0, peer.toNat * 2 ^ 10 + k.toNat * 2 ^ 4 + rows.toNat, ts.toNat⟩
  | .radd port t peer ts => lWord ⟨0x04, port.toNat, t.toNat, 0, 0, peer.toNat * 2 ^ 10, ts.toNat⟩
  | .rmax port t peer ts => lWord ⟨0x05, port.toNat, t.toNat, 0, 0, peer.toNat * 2 ^ 10, ts.toNat⟩
  | .rmin port t peer ts => lWord ⟨0x06, port.toNat, t.toNat, 0, 0, peer.toNat * 2 ^ 10, ts.toNat⟩
  | .lcopy port t sh sw xd xbar xe f s len8 => lWord ⟨0x07, port.toNat, t.toNat, sh.toNat, b2n sw, xd.toNat * 2 ^ 15 + xbar.toNat * 2 ^ 10 + xe.toNat * 2 ^ 5 + b2n f * 2 ^ 4 + b2n s * 2 ^ 3 + len8.toNat, 0⟩
  | .lcrcr d => lWord ⟨0x08, 0, 0, 0, 0, d.toNat * 2 ^ 15, 0⟩
  | .lcrcw a => lWord ⟨0x09, 0, 0, 0, 0, a.toNat * 2 ^ 15, 0⟩
  | .lstat port d => lWord ⟨0x0A, port.toNat, 0, 0, 0, d.toNat * 2 ^ 15, 0⟩
  | .lfence q => lWord ⟨0x0B, 0, 0, 0, 0, b2n q, 0⟩
  | .resultLanding .. => 0
  | .stallRelease .. => 0
  | .engineReadFinished .. => 0
  | .engineOpDone .. => 0
  | .transferDone .. => 0
  | .ovlLineLanded .. => 0
  | .promise .. => 0
  | .injectedCheck .. => 0
  | .kchkComplete .. => 0
  | .boundaryTrapEntry .. => 0
  | .handlerBudgetExceeded .. => 0
  | .coreRetire .. => 0
  | .groupRendezvous .. => 0
  | .dispatch .. => 0
  | .workSteal .. => 0
  | .kernelPreempt .. => 0
  | .kernelResume .. => 0
  | .kernelLoadDone .. => 0
  | .kernelFinish .. => 0
  | .kernelRetire .. => 0
  | .phasePrepare .. => 0
  | .homePrepareVote .. => 0
  | .homeCommitApply .. => 0
  | .phaseCommitComplete .. => 0
  | .phaseCancel .. => 0
  | .lateFault .. => 0
  | .suppliesValid => 0
  | .perstDeassert => 0
  | .perstAssert => 0
  | .firmwareSignatureCheck .. => 0
  | .measureDone .. => 0
  | .selftestDone .. => 0
  | .powerWindowCheck .. => 0
  | .globalIssueGateClose => 0
  | .globalIssueGateOpen => 0
  | .apbaseWrite .. => 0
  | .attgo .. => 0
  | .attestationReportDone => 0
  | .registerWrite .. => 0
  | .ctxCreate .. => 0
  | .ctxSuspend .. => 0
  | .ctxResume .. => 0
  | .ctxKill .. => 0
  | .ctxDestroy .. => 0
  | .doorbellWrite .. => 0
  | .queueEnable => 0
  | .queueDisable => 0
  | .queueReset .. => 0
  | .queueArbitrate .. => 0
  | .packetNop .. => 0
  | .launch .. => 0
  | .copy .. => 0
  | .signal .. => 0
  | .wait .. => 0
  | .mode .. => 0
  | .checkpoint .. => 0
  | .checkpointComplete .. => 0
  | .query .. => 0
  | .packetComplete .. => 0
  | .homeRequest .. => 0
  | .homeAck .. => 0
  | .reductionAddend .. => 0
  | .reductionPartialTimeout .. => 0
  | .sectorDelivery .. => 0
  | .remoteArrival .. => 0
  | .flitRetryExhausted .. => 0
  | .planeAckTimeout .. => 0
  | .planeBufferError .. => 0
  | .planeIslandFault .. => 0
  | .plcmdRetire .. => 0
  | .rehashDrained => 0
  | .translationWalkDone .. => 0
  | .migrationPull .. => 0
  | .pgicmdInvalidate .. => 0
  | .pgicmdMigrate .. => 0
  | .pgicmdMigrateRetire .. => 0
  | .profileMaskWrite .. => 0
  | .devidWrite .. => 0
  | .lpcfgWrite .. => 0
  | .lpcmdTrain .. => 0
  | .lpcmdQuiesce .. => 0
  | .lpcmdResume .. => 0
  | .lpcmdDisable .. => 0
  | .trainingComplete .. => 0
  | .trainingTimeout .. => 0
  | .flitError .. => 0
  | .replayComplete .. => 0
  | .replayFail .. => 0
  | .laneRepairTrigger .. => 0
  | .repairComplete .. => 0
  | .repairTimeout .. => 0
  | .incomingRequest .. => 0
  | .stackLinkRequest .. => 0
  | .incomingMessage .. => 0
  | .messageAccepted .. => 0
  | .chainCommandArrival .. => 0
  | .chainVerdictReturn .. => 0
  | .receivePayloadLanded .. => 0
  | .chainStagingReserved .. => 0
  | .bar2Access .. => 0

/-! ## Bundles (R56-R59) -/

/-- Size of a bundle with header `h` (R57). -/
def bundleSize (h : Nat) : Nat :=
  1 + (Slot.all.foldl (fun n sl => if bit1 h sl.bit then n + sl.bytes else n) 0)

/-- The slot words of a bundle, from the bytes that follow its header (R56). -/
def slotWords (h : Nat) : List Slot → List Byte → List (Slot × Nat)
  | [], _ => []
  | sl :: r, bs =>
    if bit1 h sl.bit then (sl, leNat (bs.take sl.bytes)) :: slotWords h r (bs.drop sl.bytes)
    else slotWords h r bs

/-- What stands at a bundle address. -/
inductive Fetched where
  /-- A bundle: its header, its size and, slot by slot, the word and the instruction or ILLOP reason that it gives. -/
  | bundle (h size : Nat) (slots : List (Slot × Nat × Except Nat Instr))
  /-- The line-end marker (R58). -/
  | lineEnd
  /-- A bundle that crosses its fetch line: reason 8 (R57). -/
  | crosses
  deriving Repr

/-- Decodes the bundle whose bytes begin the list; `room` is the number of bytes left in its fetch line. -/
def decodeBundle (room : Nat) (bs : List Byte) : Fetched :=
  let h := (bs.headD 0).toNat
  if h = 0 then .lineEnd
  else if room < bundleSize h then .crosses
  else .bundle h (bundleSize h)
    ((slotWords h Slot.all (bs.drop 1)).map (fun p => (p.1, p.2, decodeSlot p.1 p.2)))

/-- The bytes of a bundle of one instruction (R56). -/
def encodeAlone (i : Instr) : List Byte :=
  match i.slot? with
  | some sl => BitVec.ofNat 8 (2 ^ sl.bit) :: leBytes sl.bytes (encode i)
  | none => []

/-! ## The words of the opcode table -/

/-- The slots in which a word of the table is tried: a 32-bit word is read in the X slot first, then in the S slot,
because the two slots number their opcodes alike; a 64-bit word is read in VA, VB, M, CA and L in turn. -/
def tableSlots (nbits : Nat) : List Slot :=
  if nbits ≤ 32 then [.x, .s] else [.va, .vb, .m, .ca, .l]

/-- The first slot of a list in which a word is an instruction. -/
def firstSlot (w : Nat) : List Slot → Option (Slot × Instr)
  | [] => none
  | sl :: r => match decodeSlot sl w with
    | .ok i => some (sl, i)
    | .error _ => firstSlot w r

/-- The instruction the decoder reads from a word of the opcode table. -/
def decodeTableWord (nbits w : Nat) : Option Instr := (firstSlot w (tableSlots nbits)).map (·.2)

end Sys2Proof
end

