-- ==== Sys2Proof/Config.lean ====
section
/-! DEFINITION. What each part fixes for itself: opaque constants, of which nothing can be proved but that they are
constants (the notes' log entry 7). -/

namespace Sys2Proof.Config

/-- Serial number (01_module R23). -/
opaque serial : W64

/-- Firmware version (R23). -/
opaque firmware : W64

/-- The five bytes between the ordering code BSX-LK9-A1 and the stepping code of a report (R23). -/
opaque orderingPad : BitVec 40

/-- The RSA-3072 signature of a report's first bytes under the fused identity key (R23). -/
opaque signature : List Byte → BitVec 3072

/-- The bytes of a public key, modulus and exponent, that are hashed; the fused hash; and the length of the signature's
salt (R21). -/
opaque keyBytes : Nat → Nat → List Byte
opaque keyHash : BitVec 256
opaque saltLength : Nat

/-- The identifiers of the capability list's entries in their order, their versions, and the number and the values of the body words that the
spec does not describe (R24, R25). -/
opaque capabilityOrder : List Nat
opaque capabilityVersion : Nat → Byte
opaque capabilityLength : Nat → Nat
opaque capabilityWord : Nat → Nat → W64

/-- The errata of the part: their count, the bits above it in its word, and of each its number, its status and the statement that it
replaces (R26). -/
opaque errataCount : Nat
opaque errataReserved : BitVec 48
opaque erratumId : Nat → BitVec 16
opaque erratumStatus : Nat → Nat
opaque erratumLabel : Nat → BitVec 26

/-- Values that the manual leaves open, one after another. -/
opaque freeValue : Nat → W64

end Sys2Proof.Config
end

