-- ==== Sys2Proof/Machine/Crc.lean ====
section
/-! DEFINITION. The digests: CRC-64 (12_tile R266), CRC-32C (22_link R406) and SHA-256 (01_module R21). -/

namespace Sys2Proof

/-- Eight most significant bit first steps of a CRC of width `n` (R266). -/
def crcShift (n poly : Nat) : Nat → Nat → Nat
  | 0, c => c
  | k + 1, c => crcShift n poly k (if 2 ^ (n - 1) ≤ c then Nat.xor (2 * c % 2 ^ n) poly else 2 * c)

/-- CRC-64: polynomial 0x42F0E1EBA9EA3693, no reflection, no final XOR (R266). -/
def crc64Byte (c : Nat) (b : Byte) : Nat :=
  crcShift 64 0x42F0E1EBA9EA3693 8 (Nat.xor c (b.toNat * 2 ^ 56))

/-- The running CRC-64 `c` taken over more bytes (R266, R305). -/
def crc64 (c : W64) (l : List Byte) : W64 := BitVec.ofNat 64 (l.foldl crc64Byte c.toNat)

/-- Eight reflected steps of CRC-32C (R406). -/
def crcShiftR (poly : Nat) : Nat → Nat → Nat
  | 0, c => c
  | k + 1, c => crcShiftR poly k (if c % 2 = 1 then Nat.xor (c / 2) poly else c / 2)

/-- One byte of the raw CRC-32C register (R406). -/
def crc32cByte (c : Nat) (b : Byte) : Nat := crcShiftR 0x82F63B78 8 (Nat.xor c b.toNat)

/-- The raw CRC-32C register after more bytes (R406). -/
def crc32c (c : W32) (l : List Byte) : W32 := BitVec.ofNat 32 (l.foldl crc32cByte c.toNat)

/-! ## SHA-256 -/

/-- Round constants of SHA-256. -/
def shaK : List Nat :=
  [0x428a2f98, 0x71374491, 0xb5c0fbcf, 0xe9b5dba5, 0x3956c25b, 0x59f111f1, 0x923f82a4, 0xab1c5ed5] ++
  [0xd807aa98, 0x12835b01, 0x243185be, 0x550c7dc3, 0x72be5d74, 0x80deb1fe, 0x9bdc06a7, 0xc19bf174] ++
  [0xe49b69c1, 0xefbe4786, 0x0fc19dc6, 0x240ca1cc, 0x2de92c6f, 0x4a7484aa, 0x5cb0a9dc, 0x76f988da] ++
  [0x983e5152, 0xa831c66d, 0xb00327c8, 0xbf597fc7, 0xc6e00bf3, 0xd5a79147, 0x06ca6351, 0x14292967] ++
  [0x27b70a85, 0x2e1b2138, 0x4d2c6dfc, 0x53380d13, 0x650a7354, 0x766a0abb, 0x81c2c92e, 0x92722c85] ++
  [0xa2bfe8a1, 0xa81a664b, 0xc24b8b70, 0xc76c51a3, 0xd192e819, 0xd6990624, 0xf40e3585, 0x106aa070] ++
  [0x19a4c116, 0x1e376c08, 0x2748774c, 0x34b0bcb5, 0x391c0cb3, 0x4ed8aa4a, 0x5b9cca4f, 0x682e6ff3] ++
  [0x748f82ee, 0x78a5636f, 0x84c87814, 0x8cc70208, 0x90befffa, 0xa4506ceb, 0xbef9a3f7, 0xc67178f2]

/-- Initial chaining value of SHA-256. -/
def shaH : List W32 :=
  [0x6a09e667, 0xbb67ae85, 0x3c6ef372, 0xa54ff53a, 0x510e527f, 0x9b05688c, 0x1f83d9ab, 0x5be0cd19]

/-- Message schedule, newest word first. -/
def shaSched : Nat → List W32 → List W32
  | 0, l => l
  | k + 1, l =>
    let w15 := l.getD 14 0; let w2 := l.getD 1 0
    let s0 := w15.rotateRight 7 ^^^ w15.rotateRight 18 ^^^ (w15 >>> 3)
    let s1 := w2.rotateRight 17 ^^^ w2.rotateRight 19 ^^^ (w2 >>> 10)
    shaSched k ((l.getD 15 0 + s0 + l.getD 6 0 + s1) :: l)

/-- One round on the eight working words. -/
def shaRound (st : List W32) (kw : Nat × W32) : List W32 :=
  match st with
  | [a, b, c, d, e, f, g, h] =>
    let t1 := h + (e.rotateRight 6 ^^^ e.rotateRight 11 ^^^ e.rotateRight 25) + ((e &&& f) ^^^ (~~~e &&& g)) +
      BitVec.ofNat 32 kw.1 + kw.2
    let t2 := (a.rotateRight 2 ^^^ a.rotateRight 13 ^^^ a.rotateRight 22) + ((a &&& b) ^^^ (a &&& c) ^^^ (b &&& c))
    [t1 + t2, a, b, c, d + t1, e, f, g]
  | l => l

/-- One 512-bit block, given as sixteen big-endian words. -/
def shaBlock (h : List W32) (ws : List W32) : List W32 :=
  List.zipWith (· + ·) h ((List.zip shaK (shaSched 48 ws.reverse).reverse).foldl shaRound h)

/-- Big-endian 32-bit words of a list of bytes. -/
def shaWords : List Byte → List W32
  | a :: b :: c :: d :: r => (a ++ b ++ c ++ d) :: shaWords r
  | _ => []

/-- Blocks of sixteen words, by fuel. -/
def shaBlocks : Nat → List W32 → List W32 → List W32
  | 0, h, _ => h
  | k + 1, h, ws => if ws.isEmpty then h else shaBlocks k (shaBlock h (ws.take 16)) (ws.drop 16)

/-- SHA-256 of a list of bytes. -/
def sha256 (l : List Byte) : List Byte :=
  let pad := (119 - l.length % 64) % 64
  let msg := l ++ [0x80#8] ++ List.replicate pad 0 ++ (leBytes 8 (8 * l.length)).reverse
  (shaBlocks (msg.length / 64 + 1) shaH (shaWords msg)).flatMap (fun w => (leBytes 4 w.toNat).reverse)

end Sys2Proof
end

