-- ==== Sys2Proof/Machine/Num.lean ====
section
/-! DEFINITION. The number: integers, floats, rounding, accumulator elements, reduction cells, trees and scans (02_number R28-R55). -/

namespace Sys2Proof

/-! ## Integers (R28) -/

/-- `wrap_i` and `wrap_n`, read as the word of `n` bits (R28). -/
def wrapW (n : Nat) (v : Int) : BitVec n := BitVec.ofInt n v

/-- `sat_i(v, n)` (R28). -/
def satI (n : Nat) (v : Int) : Int := min (max v (-(2 ^ (n - 1) : Nat))) ((2 ^ (n - 1) : Nat) - 1)

/-- `sat_n(v, n)` (R28). -/
def satN (n : Nat) (v : Int) : Int := min (max v 0) ((2 ^ n : Nat) - 1)

/-- Saturation by signedness (R28). -/
def sat (sg : Bool) (n : Nat) (v : Int) : Int := if sg then satI n v else satN n v

/-- Wrap or saturate by form (R28). -/
def narrow (s sg : Bool) (n : Nat) (v : Int) : BitVec n := wrapW n (if s then sat sg n v else v)

/-- The integer a word of an integer type holds (R28). -/
def readI (sg : Bool) {n : Nat} (w : BitVec n) : Int := if sg then w.toInt else (w.toNat : Int)

/-! ## Float formats (R29) -/

/-- Precision with the hidden bit. -/
def FFmt.p : FFmt → Nat
  | .f64 => 53 | .f32 => 24 | .f16 => 11 | .bf16 => 8

/-- Width of the exponent field. -/
def FFmt.eb : FFmt → Nat
  | .f64 => 11 | .f32 => 8 | .f16 => 5 | .bf16 => 8

/-- Total width. -/
def FFmt.width : FFmt → Nat
  | .f64 => 64 | .f32 => 32 | .f16 => 16 | .bf16 => 16

/-- Exponent of the smallest normal binade. -/
def FFmt.emin : FFmt → Int
  | .f64 => -1022 | .f32 => -126 | .f16 => -14 | .bf16 => -126

/-- Exponent of the largest normal binade. -/
def FFmt.emax : FFmt → Int
  | .f64 => 1023 | .f32 => 127 | .f16 => 15 | .bf16 => 127

/-- Magnitude bits of infinity. -/
def FFmt.infBits (f : FFmt) : Nat := (2 ^ f.eb - 1) * 2 ^ (f.p - 1)

/-- The canonical NaN (R31). -/
def FFmt.nan (f : FFmt) : Nat := f.infBits + 2 ^ (f.p - 2)

/-- The sign bit's weight. -/
def FFmt.signBit (f : FFmt) : Nat := 2 ^ (f.width - 1)

/-- The value of a float word: a finite value is `±m * 2^e`; a zero keeps its sign (R29, R30). -/
inductive FVal where
  | nan
  | inf (neg : Bool)
  | fin (neg : Bool) (m : Nat) (e : Int)
  deriving DecidableEq, Repr, Inhabited

/-- Reads a float word (R29). A signalling NaN is a NaN (R30). -/
def FVal.ofBits (f : FFmt) (w : Nat) : FVal :=
  let s := bit1 w (f.width - 1)
  let ef := w / 2 ^ (f.p - 1) % 2 ^ f.eb
  let fr := w % 2 ^ (f.p - 1)
  let e0 : Int := f.emin - f.p + 1
  if ef = 2 ^ f.eb - 1 then (if fr = 0 then .inf s else .nan)
  else if ef = 0 then .fin s fr e0
  else .fin s (fr + 2 ^ (f.p - 1)) (e0 + (ef - 1))

def FVal.isNan : FVal → Bool
  | .nan => true | _ => false

def FVal.isZero : FVal → Bool
  | .fin _ m _ => m == 0 | _ => false

def FVal.isInf : FVal → Bool
  | .inf _ => true | _ => false

def FVal.isNeg : FVal → Bool
  | .nan => false | .inf s => s | .fin s _ _ => s

/-- The sign changed, as the negate modifier does to an operand (R31). -/
def FVal.neg : FVal → FVal
  | .nan => .nan | .inf s => .inf (!s) | .fin s m e => .fin (!s) m e

/-- The signed significand. -/
def sgn (neg : Bool) (m : Nat) : Int := if neg then -(m : Int) else (m : Int)

/-! ## Rounding (R33, R34) -/

/-- Whether a magnitude with quotient `n` is raised by one: `r` is the discarded part, `h` twice of which is the
quantum; `x` says whether anything was discarded (R33). -/
def roundsUp (mode : Rnd) (neg : Bool) (n r q : Nat) : Bool :=
  match mode with
  | .rne => decide (q < 2 * r) || (decide (q = 2 * r) && n % 2 == 1)
  | .rna => decide (q ≤ 2 * r)
  | .rtz => false
  | .rup => !neg && decide (0 < r)
  | .rdn => neg && decide (0 < r)
  | .rto => decide (0 < r) && n % 2 == 0

/-- The overflow result's magnitude bits by mode and sign (R33). -/
def overflowBits (f : FFmt) (mode : Rnd) (neg : Bool) : Nat :=
  match mode with
  | .rne => f.infBits
  | .rna => f.infBits
  | .rtz => f.infBits - 1
  | .rto => f.infBits - 1
  | .rup => if neg then f.infBits - 1 else f.infBits
  | .rdn => if neg then f.infBits else f.infBits - 1

/-- `round(±m * 2^e, f, mode)` as a word of `f`; `m = 0` gives a zero of the sign given (R33). -/
def roundBits (f : FFmt) (mode : Rnd) (neg : Bool) (m : Nat) (e : Int) : Nat :=
  let sb := if neg then f.signBit else 0
  if m = 0 then sb
  else
    let top : Int := e + (Nat.log2 m : Int)
    if f.emax < top then sb + overflowBits f mode neg
    else
      let b := max top f.emin
      let q := b - f.p + 1
      let base := (b - f.emin).toNat * 2 ^ (f.p - 1)
      let mag :=
        if q ≤ e then base + m * 2 ^ (e - q).toNat
        else
          let d := 2 ^ (q - e).toNat
          let n := m / d
          base + n + (if roundsUp mode neg n (m % d) d then 1 else 0)
      if f.infBits ≤ mag then sb + overflowBits f mode neg else sb + mag

/-- A signed exact value rounded; an exact zero is +0, or -0 under RDN (R30, R33). -/
def roundSum (f : FFmt) (mode : Rnd) (v : Int) (e : Int) : Nat :=
  if v = 0 then roundBits f mode (mode == .rdn) 0 0
  else roundBits f mode (decide (v < 0)) v.natAbs e

/-- A signed exact value rounded; an exact zero is +0 (R33, R50, R55). -/
def roundInt (f : FFmt) (mode : Rnd) (v : Int) (e : Int) : Nat :=
  roundBits f mode (decide (v < 0)) v.natAbs e

/-- A float value rounded into a format; a zero keeps its sign, a NaN is canonical (R37). -/
def FVal.toBits (f : FFmt) (mode : Rnd) : FVal → Nat
  | .nan => f.nan
  | .inf s => (if s then f.signBit else 0) + f.infBits
  | .fin s m e => roundBits f mode s m e

/-- Rounding to an integer (R34). -/
def roundToInt (mode : Rnd) (neg : Bool) (m : Nat) (e : Int) : Int :=
  if 0 ≤ e then sgn neg (m * 2 ^ e.toNat)
  else
    let d := 2 ^ (-e).toNat
    let n := m / d
    sgn neg (n + (if roundsUp mode neg n (m % d) d then 1 else 0))

/-- Float to integer: NaN is 0, everything saturates (R34). -/
def FVal.toIntSat (mode : Rnd) (sg : Bool) (n : Nat) : FVal → Int
  | .nan => 0
  | .inf s => if s then (if sg then -(2 ^ (n - 1) : Nat) else 0) else (if sg then (2 ^ (n - 1) : Nat) - 1 else (2 ^ n : Nat) - 1)
  | .fin s m e => sat sg n (roundToInt mode s m e)

/-! ## Float arithmetic (R30-R32) -/

/-- The exact sum of two finite values as significand and exponent. -/
def addDy (a : Int) (ea : Int) (b : Int) (eb : Int) : Int × Int :=
  let e := min ea eb
  (a * ((2 ^ (ea - e).toNat : Nat) : Int) + b * ((2 ^ (eb - e).toNat : Nat) : Int), e)

/-- Addition to a word of `f` (R30, R31, R33). -/
def fAdd (f : FFmt) (mode : Rnd) : FVal → FVal → Nat
  | .nan, _ => f.nan
  | _, .nan => f.nan
  | .inf s, .inf t => if s = t then FVal.toBits f mode (.inf s) else f.nan
  | .inf s, .fin .. => FVal.toBits f mode (.inf s)
  | .fin .., .inf t => FVal.toBits f mode (.inf t)
  | .fin s m e, .fin t n g =>
    let r := addDy (sgn s m) e (sgn t n) g
    roundSum f mode r.1 r.2

/-- The exact product; 0 times infinity is invalid (R30, R31, R45). -/
def FVal.mul : FVal → FVal → FVal
  | .nan, _ => .nan
  | _, .nan => .nan
  | .inf s, .inf t => .inf (s != t)
  | .inf s, .fin t n _ => if n = 0 then .nan else .inf (s != t)
  | .fin s m _, .inf t => if m = 0 then .nan else .inf (s != t)
  | .fin s m e, .fin t n g => .fin (s != t) (m * n) (e + g)

/-- Multiplication: the sign of a zero product is the XOR of the signs (R30). -/
def fMul (f : FFmt) (mode : Rnd) (a b : FVal) : Nat := FVal.toBits f mode (a.mul b)

/-- Fused multiply-add: one rounding of the exact `a*b + c` (R30). -/
def fFma (f : FFmt) (mode : Rnd) (a b c : FVal) : Nat := fAdd f mode (a.mul b) c

/-- The order of two finite values with infinities, zeros equal; NaN is handled by the callers (R32). -/
def FVal.cmp : FVal → FVal → Ordering
  | .inf s, .inf t => if s = t then .eq else if s then .lt else .gt
  | .inf s, _ => if s then .lt else .gt
  | _, .inf t => if t then .gt else .lt
  | .fin s m e, .fin t n g =>
    let d := (addDy (sgn s m) e (-(sgn t n)) g).1
    if d < 0 then .lt else if d = 0 then .eq else .gt
  | _, _ => .eq

def fEq (a b : FVal) : Bool := !a.isNan && !b.isNan && a.cmp b == .eq
def fLt (a b : FVal) : Bool := !a.isNan && !b.isNan && a.cmp b == .lt
def fLe (a b : FVal) : Bool := fEq a b || fLt a b

/-- Minimum of two float words, bit for bit, -0 below +0 (R32). -/
def fMin (f : FFmt) (a b : Nat) : Nat :=
  let x := FVal.ofBits f a; let y := FVal.ofBits f b
  if x.isNan || y.isNan then f.nan
  else match x.cmp y with
    | .lt => a
    | .gt => b
    | .eq => if x.isNeg then a else b

/-- Maximum of two float words, bit for bit, -0 below +0 (R32). -/
def fMax (f : FFmt) (a b : Nat) : Nat :=
  let x := FVal.ofBits f a; let y := FVal.ofBits f b
  if x.isNan || y.isNan then f.nan
  else match x.cmp y with
    | .lt => b
    | .gt => a
    | .eq => if x.isNeg then b else a

/-- `trunc(±m * 2^e)` toward zero (R45, R54). -/
def truncScaled (v : Int) (e : Int) : Int :=
  if 0 ≤ e then v * ((2 ^ e.toNat : Nat) : Int)
  else sgn (decide (v < 0)) (v.natAbs / 2 ^ (-e).toNat)

/-- `trunc(v * 2^e)` reduced modulo 2^192, which is all that R45 and R54 keep of it; a shift of 192 or more
leaves nothing. -/
def truncMod (v : Int) (e : Int) : BitVec 192 :=
  if 192 ≤ e then 0 else BitVec.ofInt 192 (truncScaled v e)

/-! ## Plane-nested integers (R38-R40) and b1 (R41) -/

/-- The value represented by an 8-bit element read at precision `p` (R39). -/
def pniValue (v : Byte) (p : Nat) : Int :=
  v.toInt / ((2 ^ (8 - p) : Nat) : Int) * ((2 ^ (8 - p) : Nat) : Int) + (if p < 8 then ((2 ^ (7 - p) : Nat) : Int) else 0)

/-! ## The accumulator element (R43-R50) -/

/-- One accumulator element: the anchor X and the words G and M as one 192-bit integer (R43). -/
structure AccEl where
  x : BitVec 16
  gm : BitVec 192
  deriving DecidableEq, Repr, Inhabited

/-- The reset value of an element (R43). -/
def AccEl.zero : AccEl := ⟨0, 0⟩

/-- The class of an element (R44). -/
def AccEl.val (a : AccEl) : FVal :=
  if a.x = 0x8000#16 then
    (if a.gm = 1#192 then .inf false else if a.gm = BitVec.allOnes 192 then .inf true else .nan)
  else .fin (decide (a.gm.toInt < 0)) a.gm.toInt.natAbs a.x.toInt

def AccEl.nan : AccEl := ⟨0x8000#16, 0⟩
def AccEl.inf (neg : Bool) : AccEl := ⟨0x8000#16, if neg then BitVec.allOnes 192 else 1⟩

/-- Adds a product, exact, to an element (R45). An element of the never formed shape adds as NaN (R44). -/
def AccEl.add (a : AccEl) (pr : FVal) : AccEl :=
  match a.val, pr with
  | .nan, _ => .nan
  | _, .nan => .nan
  | .inf s, .inf t => if s = t then a else .nan
  | .inf _, .fin .. => a
  | .fin .., .inf t => .inf t
  | .fin .., .fin s m e => { a with gm := a.gm + truncMod (sgn s m) (e - a.x.toInt) }

/-- Combines a partial element into `a`, realigning it when the anchors differ (R46). -/
def AccEl.combine (a b : AccEl) : AccEl := a.add b.val

/-- Re-anchoring (R48). -/
def AccEl.norm (a : AccEl) : AccEl :=
  match a.val with
  | .fin _ m _ =>
    if m = 0 then a
    else
      let v := a.gm.toInt
      let s : Int := (Nat.log2 m : Int) + 1 - 159
      let x := a.x.toInt
      if 32767 < x + s then .inf (decide (v < 0))
      else
        let s := if x + s < -32767 then -32767 - x else s
        ⟨BitVec.ofInt 16 (x + s), BitVec.ofInt 192 (truncScaled v (-s))⟩
  | _ => a

/-- Setting an anchor (R49). -/
def AccEl.anchor (x : BitVec 16) : AccEl := ⟨x, 0⟩

/-- The destination of a readout: a float format or an integer format (R50). -/
inductive ReadFmt where
  | flt (f : FFmt)
  | int (signed : Bool) (n : Nat)
  deriving DecidableEq, Repr

/-- Readout of an element with two scales, one rounding (R50). -/
def AccEl.readout (a : AccEl) (sa sb : FVal) (d : ReadFmt) (mode : Rnd) : Nat :=
  let w : FVal := (a.val.mul sa).mul sb
  let w := if a.val.isNan || sa.isNan || sb.isNan then .nan else
    if a.val.isInf || sa.isInf || sb.isInf then
      (if a.val.isZero || sa.isZero || sb.isZero then .nan else w)
    else match w with
      | .fin s m e => .fin (s && m != 0) m e
      | v => v
  match d with
  | .flt f => w.toBits f mode
  | .int sg n => (BitVec.ofInt n (w.toIntSat mode sg n)).toNat

/-- The 26 saved bytes as a number: M, G, then X (R43). -/
def AccEl.toNat (a : AccEl) : Nat := a.gm.toNat + a.x.toNat * 2 ^ 192

/-- An element from its saved bytes (R43). -/
def AccEl.ofNat (v : Nat) : AccEl := ⟨BitVec.ofNat 16 (v / 2 ^ 192), BitVec.ofNat 192 v⟩

/-! ## Reduction trees and scans (R51, R52) -/

/-- The fixed binary tree: at each level lane `i` takes lane `i + w` as its right operand (R51). `l` has `2 * w`
entries for some power of two `w`; fuel is the number of levels. -/
def treeReduce (op : Nat → Nat → Nat) : Nat → List Nat → Nat
  | 0, l => l.headD 0
  | k + 1, l => treeReduce op k (List.zipWith op (l.take (l.length / 2)) (l.drop (l.length / 2)))

/-- One distance of an inclusive scan: every lane reads before any writes (R52). -/
def scanStep (op : Nat → Nat → Nat) (d : Nat) (l : List Nat) : List Nat :=
  l.take d ++ List.zipWith op l (l.drop d)

/-- The inclusive scan over `2^k` lanes: distances 1, 2, 4, ... (R52). -/
def scanIncl (op : Nat → Nat → Nat) : Nat → Nat → List Nat → List Nat
  | 0, _, l => l
  | k + 1, d, l => scanIncl op k (2 * d) (scanStep op d l)

/-- The exclusive scan: the inclusive one moved up by one lane with the identity in lane 0 (R52). -/
def scanExcl (op : Nat → Nat → Nat) (ident k : Nat) (l : List Nat) : List Nat :=
  ident :: (scanIncl op k 1 l).dropLast

/-! ## The anchored reduction cell (R53-R55) -/

/-- The state of a cell as it is read: 4-255 counts as 3 (R53). -/
def cellState (cell : Nat) : Nat := min (fld cell 215 208) 3

/-- STATE after an addend (R54). -/
def cellStateAdd (st : Nat) : FVal → Nat
  | .nan => 3
  | .inf neg =>
    let t := if neg then 2 else 1
    if st = 0 then t else if st = t then t else 3
  | .fin .. => st

/-- STATE after a partial cell is merged, by the same transitions (R54). -/
def cellStateOr (a b : Nat) : Nat :=
  if b = 0 then a else if a = 0 then b else if a = b then a else 3

/-- A cell from its fields (R53). -/
def mkCell (count fmt st x val : Nat) : Nat :=
  count % 2 ^ 32 * 2 ^ 224 + fmt % 256 * 2 ^ 216 + st % 256 * 2 ^ 208 + x % 2 ^ 16 * 2 ^ 192 + val % 2 ^ 192

/-- A float addend reaches a cell; FMT and X are the window's (R54). -/
def cellAdd (fmt : Nat) (x : BitVec 16) (cell : Nat) (a : FVal) : Nat :=
  let st := cellState cell
  let val := BitVec.ofNat 192 cell
  let val := match a with
    | .fin s m e => if st = 0 then val + truncMod (sgn s m) (e - x.toInt) else val
    | _ => val
  mkCell (fld cell 255 224 + 1) fmt (cellStateAdd st a) x.toNat val.toNat

/-- A partial cell of a plane's reduction unit is merged into a cell (R54); like every addend it adds its value to a cell
of STATE 0 only. -/
def cellMerge (fmt : Nat) (x : BitVec 16) (cell part : Nat) : Nat :=
  let val := BitVec.ofNat 192 cell
  let val := if cellState cell = 0 then val + BitVec.ofNat 192 part else val
  mkCell (fld cell 255 224 + fld part 255 224) fmt (cellStateOr (cellState cell) (cellState part)) x.toNat val.toNat

/-- The float format a window's FMT names (R53). -/
def cellFmt (fmt : Nat) : FFmt := if fmt = 9 then .f64 else .f32

/-- A cell read as a float value (R55). -/
def cellRead (fmt : Nat) (x : BitVec 16) (cell : Nat) : Nat :=
  let f := cellFmt fmt
  match cellState cell with
  | 0 => roundInt f .rne (BitVec.ofNat 192 cell).toInt x.toInt
  | 1 => FVal.toBits f .rne (.inf false)
  | 2 => FVal.toBits f .rne (.inf true)
  | _ => f.nan

end Sys2Proof
end

