-- ==== Sys2Proof/Machine/Tab.lean ====
section
/-! DEFINITION. Finite tables with a default, and byte memories in canonical form: addresses strictly rising, no entry
equal to what an unlisted address reads as. -/

namespace Sys2Proof.Machine

/-- A finite table: keys strictly rising, entries equal to the table's default left out. -/
abbrev Tab (α : Type) := List (Nat × α)

/-- The entry of a key. -/
def tabFind {α : Type} : Tab α → Nat → Option α
  | [], _ => none
  | (k, v) :: r, n => if k = n then some v else tabFind r n

/-- The value at a key, or the default. -/
def tabGet {α : Type} (d : α) (t : Tab α) (n : Nat) : α := (tabFind t n).getD d

/-- The table without a key. -/
def tabErase {α : Type} : Tab α → Nat → Tab α
  | [], _ => []
  | (k, v) :: r, n => if k = n then tabErase r n else (k, v) :: tabErase r n

/-- A new key put before the first greater one. -/
def tabInsert {α : Type} (n : Nat) (a : α) : Tab α → Tab α
  | [] => [(n, a)]
  | (k, v) :: r => if n < k then (n, a) :: (k, v) :: r else (k, v) :: tabInsert n a r

/-- The value at a key replaced; a value equal to the default is not listed. -/
def tabSet {α : Type} [DecidableEq α] (d : α) (t : Tab α) (n : Nat) (a : α) : Tab α :=
  if a = d then tabErase t n else tabInsert n a (tabErase t n)

/-- The value at a key replaced, in a table that lists every entry it was given. -/
def tabPut {α : Type} (t : Tab α) (n : Nat) (a : α) : Tab α := tabInsert n a (tabErase t n)

/-- Every value of a table changed by a function of its key. -/
def tabMap {α : Type} (f : Nat → α → α) (t : Tab α) : Tab α := t.map (fun p => (p.1, f p.1 p.2))

/-- Keys strictly rising. -/
def keysRise {α : Type} : Tab α → Bool
  | [] => true
  | [_] => true
  | (k, _) :: (k', v) :: r => decide (k < k') && keysRise ((k', v) :: r)

/-- The canonical form of a table. -/
def tabWf {α : Type} [DecidableEq α] (d : α) (t : Tab α) : Bool := keysRise t && t.all (fun p => p.2 != d)

/-! ## Memory -/

/-- A byte memory; an unlisted address reads as `Memory.dflt`. -/
abbrev Memory := List Host.Cell

/-- What an unlisted address of a memory reads as: 0 (R145 for the core's memories; the notes' log entry 3 for DRAM and
host memory). -/
def Memory.dflt : Byte := 0

/-- The byte at an address. -/
def Memory.read (m : Memory) (a : Nat) : Byte := tabGet Memory.dflt m a

/-- The canonical form (addresses strictly rising, no listed byte equal to the default). -/
def Memory.wf (m : Memory) : Bool := tabWf Memory.dflt m

/-- `n` bytes from address `a` on, given the cells at or above `a` in rising order. -/
def takeBytes : Nat → Nat → Memory → List Byte
  | 0, _, _ => []
  | n + 1, a, [] => Memory.dflt :: takeBytes n (a + 1) []
  | n + 1, a, (k, v) :: r =>
    if k = a then v :: takeBytes n (a + 1) r
    else Memory.dflt :: takeBytes n (a + 1) ((k, v) :: r)

/-- The cells at or above an address. -/
def dropBelow (a : Nat) : Memory → Memory
  | [] => []
  | (k, v) :: r => if k < a then dropBelow a r else (k, v) :: r

/-- The cells below an address. -/
def keepBelow (a : Nat) : Memory → Memory
  | [] => []
  | (k, v) :: r => if k < a then (k, v) :: keepBelow a r else []

/-- `n` bytes from address `a` on. -/
def Memory.readN (m : Memory) (a n : Nat) : List Byte := takeBytes n a (dropBelow a m)

/-- The cells of a run of bytes, `none` leaving the byte of `m` (whose cells start at or above `a`). -/
def mergeBytes : Nat → List (Option Byte) → Memory → Memory
  | _, [], m => m
  | a, b :: bs, [] =>
    match b with
    | some v => if v = Memory.dflt then mergeBytes (a + 1) bs [] else (a, v) :: mergeBytes (a + 1) bs []
    | none => mergeBytes (a + 1) bs []
  | a, b :: bs, (k, w) :: r =>
    let old := if k = a then some w else none
    let rest := if k = a then r else (k, w) :: r
    match b.orElse (fun _ => old) with
    | some v => if v = Memory.dflt then mergeBytes (a + 1) bs rest else (a, v) :: mergeBytes (a + 1) bs rest
    | none => mergeBytes (a + 1) bs rest

/-- A run of bytes written from address `a` on; `none` leaves a byte as it is. -/
def Memory.writeM (m : Memory) (a : Nat) (bs : List (Option Byte)) : Memory :=
  keepBelow a m ++ mergeBytes a bs (dropBelow a m)

/-- A run of bytes written. -/
def Memory.writeN (m : Memory) (a : Nat) (bs : List Byte) : Memory := m.writeM a (bs.map some)

/-- Little-endian value of `n` bytes (R27). -/
def Memory.readLE (m : Memory) (a n : Nat) : Nat := leNat (m.readN a n)

/-! ## Sets of numbers: strictly rising lists -/

/-- Insertion into a strictly rising list. -/
def setIns (n : Nat) : List Nat → List Nat
  | [] => [n]
  | k :: r => if n < k then n :: k :: r else if n = k then k :: r else k :: setIns n r

/-- Several insertions. -/
def setInsAll (l s : List Nat) : List Nat := l.foldl (fun s n => setIns n s) s

/-- Removal. -/
def setDel (n : Nat) (s : List Nat) : List Nat := s.filter (fun k => k != n)

/-- Removal of a range of numbers. -/
def setDelRange (a n : Nat) (s : List Nat) : List Nat := s.filter (fun k => decide (k < a) || decide (a + n ≤ k))

end Sys2Proof.Machine
end

