-- ==== Sys2Proof/Machine/State.lean ====
section
/-! DEFINITION. The state of the module: boot and host registers, contexts, queues, kernels, groups, cores, requests,
planes, pages and links, as plain data; its reset; and the reasons a step can stop. Every field names the rule of the
spec that gives it. -/

namespace Sys2Proof.Machine

/-! ## Results in flight and scoreboard objects -/

/-- Where an exposed result lands (R63, R67). Register numbers are plain indices. -/
inductive Landing where
  /-- A scalar register. -/
  | x (n : Nat) (v : W64)
  /-- A predicate. -/
  | p (n : Nat) (v : Bool)
  /-- A vector register of a cluster. -/
  | v (c : Cluster) (n : Nat) (v : VReg)
  /-- Scratchpad bytes in ascending order of writing; `none` bytes are not written; `sub` marks a store narrower than
  a word, whose landing is a read-modify-write (R68, R199). -/
  | mem (rows : List (Nat × List (Option Byte))) (sub : Bool)
  /-- A field of a shadow shape register: 0-3 one dimension, 4 all four (R200). -/
  | shadow (n f : Nat) (v : W64)
  /-- The attenuation table (R273). -/
  | att (v : BitVec 2048)
  /-- A tile register written by TDW (R248). -/
  | tile (n : Nat) (v : BitVec 40)
  /-- A bank format register written by BFW (R244). -/
  | bf (n : Nat) (f : BitVec 4)
  deriving DecidableEq, Repr, Inhabited

/-- An exposed result in flight: the logical cycles left before it lands, whether it was issued inside the open phase
(R320), and its landing (R63). -/
structure Flight where
  rem : Int
  ph : Bool
  dst : Landing
  deriving DecidableEq, Repr, Inhabited

/-- The exposed vector units (R65, R268). -/
inductive VUnit where
  | arith (c : Cluster) | perm (c : Cluster) | func (c : Cluster) | mem (c : Cluster) | move (c : Cluster) | zig
  deriving DecidableEq, Repr, Inhabited

/-- Scoreboard objects (R69). -/
inductive Obj where
  | tile (n : Nat) | acc (n : Nat)
  deriving DecidableEq, Repr, Inhabited

/-- Scoreboard states other than FREE (R69). -/
inductive Sb where
  | read (n : Nat) | write
  deriving DecidableEq, Repr, Inhabited

/-! ## Transfers and requests -/

/-- A translated page of a transfer: virtual base, log2 of the size, leaf entry and, for VAULT and SCRATCH, the core
that the relocation map gave (R348, R349, R356). -/
structure Page where
  va : Nat
  lg : Nat
  leaf : W64
  core : Nat
  deriving DecidableEq, Repr, Inhabited

/-- What a logged or issued tile load captured (R286, R287, R318). `kind` is the copy-slot opcode of R285. -/
structure LoadDesc where
  kind : Nat
  tile : BitVec 40
  tileNo : Nat
  handle : HandleBits
  shape : W64
  coords : List Int
  xi : Nat
  base : Nat
  pitch : Int
  value : W64
  bf : W64
  pages : List Page
  deriving DecidableEq, Repr, Inhabited

/-- Where one piece of a read lands in a scratchpad row: plain bytes at an address, or a value converted from one
format to position `pos` of the row at `row` of capacity `cap` in another format (R245, R284). -/
inductive PieceDst where
  | bytes (addr : Nat)
  | conv (src dst : BFmt) (row cap pos : Nat)
  deriving DecidableEq, Repr, Inhabited

/-- One piece of a read of a line: offset in the line, bytes, destination, and its position among the pieces of its
transfer, which land in that order (R247). -/
structure Piece where
  off : Nat
  n : Nat
  dst : PieceDst
  seq : Nat
  deriving DecidableEq, Repr, Inhabited

/-- A chain command on its way (R405, R407). -/
structure ChainCmd where
  dest : Nat
  bar : Option Nat
  bytes : List Byte
  seed : W32
  /-- LEN8, in the first command of a chain. -/
  start : Option Nat
  final : Option W32
  deriving DecidableEq, Repr, Inhabited

/-- A timed message (R160, R279, R401), or an LCOPY command in a transmit skid (R418). -/
structure Msg where
  src : Nat
  dst : Nat
  sendr : Bool
  stamp : Nat
  k : Nat
  rows : Nat
  payload : List Byte
  /-- Slots of the outbox or of a skid that it takes. -/
  slots : Nat
  /-- The core that waits for its acceptance by a far port (R369, R410). -/
  sender : Option Nat
  /-- The device identifiers of its source and of the peer that it is for (R394, R403). -/
  from_ : BitVec 20
  dest : BitVec 20
  /-- The context that sent it, and its number in the order of what the port has accepted (R328, R398). -/
  ctx : Nat
  num : Nat
  chain : Option ChainCmd
  /-- The pages that a chain command's addresses were translated by (R353). -/
  pages : List Page
  deriving DecidableEq, Repr, Inhabited

/-- Homes (R316, R324, R364): what serves a request. -/
inductive Home where
  /-- The base die of a stack. -/
  | stack (n : Nat)
  /-- The vault port of a core. -/
  | vault (core : Nat)
  /-- The scratchpad of a core. -/
  | scratch (core : Nat)
  /-- The PCIe port, to host memory. -/
  | host
  /-- A UALink port, to a far device. -/
  | port (n : Nat)
  /-- A stack link, to a far accelerator. -/
  | link (n : Nat)
  /-- The transmit skid of a UALink port (R401). -/
  | skid (n : Nat)
  /-- The global registers. -/
  | mmio
  deriving DecidableEq, Repr, Inhabited

/-- A place at a home: the home, its local address (the device physical address for HBM), and a tag: for PEER the
device, for HBM the hash profile of the page (R303, R348, R364). -/
structure Place where
  home : Home
  addr : Nat
  dev : Nat
  deriving DecidableEq, Repr, Inhabited

/-- What a request does at its home (R368). Addresses are the place's. -/
inductive ReqOp where
  /-- Reads pieces of one line. -/
  | read (ps : List Piece)
  /-- Writes bytes from the place on, some of them poisoned (R300). -/
  | write (bs : List (Option Byte)) (poison : List Nat)
  /-- ATOM, with its result landing at a scratchpad address (R294). -/
  | atom (op sz : Nat) (v v2 : W64) (dst : Nat)
  /-- CREAD of a window's cell (R294). -/
  | cread (fmt : Nat) (x : BitVec 16) (dst : Nat)
  /-- RED or REDT other than a window's FADD (R294, R296). -/
  | red (op sz : Nat) (v : W64)
  /-- A FADD addend of a window's cell (R54, R295). -/
  | cell (fmt : Nat) (x : BitVec 16) (wide : Bool) (v : W64)
  /-- A merged partial cell with the requests it holds (R370, R371). -/
  | part (fmt : Nat) (x : BitVec 16) (val : Nat) (ids : List Nat)
  /-- A remote barrier arrival (R336). -/
  | arrive
  /-- A packet bound for the ring of a device-owned queue (R137). -/
  | enq (q : Nat) (packet : List Byte)
  /-- A line read whose bytes go to no register: of a PREF to a line buffer (R290), of a walk (R346), of a load whose core has
  gone (R308). -/
  | fetch
  /-- A message or a chain command bound for the transmit skid of a port (R401, R405). -/
  | msg (m : Msg)
  /-- A prepare token, or a commit token, of the phase of a group (R315). -/
  | token (k g : Nat) (commit : Bool)
  deriving DecidableEq, Repr, Inhabited

/-- Sources of requests (R368). -/
inductive Src where
  | core (n : Nat) | port (n : Nat) | link (n : Nat) | host | queue (ctx q : Nat) | unit (plane : Nat)
  /-- The part itself, for a context: what it reads to judge a packet or to load an image, and what it saves (R118, R139, R140). -/
  | part (ctx : Nat)
  deriving DecidableEq, Repr, Inhabited

/-- Where a request is on its way (R368, R372, R375). -/
inductive ReqSt where
  /-- Held at its source: no plane has taken it. -/
  | source
  /-- In a plane, or on the bay fabric when none. -/
  | plane (n : Option Nat)
  /-- Merged into a partial cell of a plane's reduction unit. -/
  | merged (n : Nat)
  /-- Applied at its home, which awaits the acknowledgement's receipt. -/
  | applied
  /-- Applied, but its acknowledgement was lost with a plane: back at its source, and answered from the completion cache of
  its home when it is replayed. -/
  | echo
  /-- Accepted into a phase store buffer. -/
  | held
  deriving DecidableEq, Repr, Inhabited

/-- A request (R364-R372). -/
structure Req where
  id : Nat
  src : Src
  ctx : Nat
  /-- The transfer of the core that it belongs to, if any. -/
  xfer : Option Nat
  place : Place
  va : Nat
  op : ReqOp
  st : ReqSt
  /-- The phase (kernel and group) it is held with, when issued inside one. -/
  ph : Option (Nat × Nat)
  /-- Log2 size of the page whose translation its transfer captured (R353); 0 for none. -/
  lg : Nat
  /-- The plane that its acknowledgement comes back on (R372). -/
  via : Option Nat
  /-- The device identifier that it carries as its source (R394). -/
  dev : BitVec 20
  /-- Of a store that a phase holds: the acknowledgement of its acceptance was lost with a plane (R372). -/
  lost : Bool
  /-- The requests that it follows: the reads of the walks that translated it (R351), the partials that it closed (R370). -/
  after : List Nat
  /-- The kernel of the core that sent it (R147). -/
  kn : Option Nat
  /-- It has waited for a core that was away, and reaches it before the core goes on (R328, R356). -/
  parked : Bool
  deriving DecidableEq, Repr, Inhabited

/-- What the part reads through a context's pages for itself (R139, R140): for the head packet of a queue, for the image of a
kernel, for the probe of a suspend, for a page command. -/
inductive FetchFor where
  | head (ctx q : Nat)
  | image (k : Nat)
  | probe (ctx : Nat)
  | page
  deriving DecidableEq, Repr, Inhabited

/-- A merged partial cell (R370). -/
structure Partial where
  plane : Nat
  place : Place
  ctx : Nat
  fmt : Nat
  x : BitVec 16
  val : Nat
  age : Nat
  ids : List Nat
  deriving DecidableEq, Repr, Inhabited

/-- Bytes that a transfer brings to the scratchpad when it is done: position, destination, bytes in their source format,
poison (R300). -/
structure Brought where
  seq : Nat
  dst : PieceDst
  bytes : List Byte
  poison : Bool
  deriving DecidableEq, Repr, Inhabited

/-- A stretch of a context's pages that the part reads for itself: its requests, what they have brought, and its lowest faulting
address (R139, R350, R351). -/
structure Fetch where
  own : FetchFor
  ctx : Nat
  va : Nat
  n : Nat
  ids : List Nat
  land : List Brought
  fault : Option Nat
  deriving DecidableEq, Repr, Inhabited

/-- What a transfer writes into a handle (R298). -/
inductive HandleEdit where
  /-- The whole handle, by HLD. -/
  | all (v : HandleBits)
  /-- Eight bytes at an offset, by HMOD. -/
  | field (off : Nat) (v : W64)
  deriving DecidableEq, Repr, Inhabited

/-- A copy-slot transfer or receive in flight (R286, R287). -/
structure Xfer where
  id : Nat
  /-- Copy-slot opcode (R285), 0x20 for a receive payload, 0x21 for LCOPY's stream, 0x22 for a line of an overlay. -/
  kind : Nat
  tag : Option Nat
  reads : List Obj
  writes : List Obj
  /-- Banks it reads, and banks it writes (R244). -/
  rbanks : List Nat
  wbanks : List Nat
  handle : Option Nat
  /-- LCC of issue plus promise, when one was given (R286). -/
  due : Option Nat
  promise : Bool
  readDone : Bool
  /-- Requests sent and not served. -/
  left : List Nat
  /-- What lands when it is done: bytes by position, or a handle (R298). -/
  land : List Brought
  newHandle : Option (Nat × HandleEdit)
  /-- Cycles by which a vault transfer is done at the latest (R292). -/
  cap : Option Nat
  /-- Issued in the open phase, and reissued from the input log (R318, R320). -/
  ph : Bool
  replay : Bool
  pages : List Page
  deriving DecidableEq, Repr, Inhabited

/-- An overlay copy in flight (R149). -/
structure OvlCopy where
  n : Nat
  tag : Nat
  /-- Bundle-store lines still pending, each with the transfer that reads its bytes. -/
  lines : List (Nat × Nat)
  deriving DecidableEq, Repr, Inhabited

/-! ## The matrix engine -/

/-- A matrix operation issued and not done, with the results it will leave (R250, R263). -/
structure MatOp where
  op : Nat
  reads : List Obj
  writes : List Obj
  /-- Banks it reads, and banks it writes (R244). -/
  rbanks : List Nat
  wbanks : List Nat
  acc : Option (Nat × Tab AccEl)
  land : List (Nat × List (Option Byte))
  /-- Bits that it replaces in bytes: each with the number of the row that lands before it, its address, a mask and a value
  (R262). -/
  bits : List (Nat × Nat × Byte × Byte)
  readDone : Bool
  /-- Address of an uncorrectable error that it consumed (R265). -/
  bad : Option Nat
  ph : Bool
  /-- A known-answer check, and whether the digest that it computes is the expected one (R266). -/
  kchk : Option Bool
  deriving DecidableEq, Repr, Inhabited

/-- A known-answer check in flight: explicit checks pass through the engine, injected ones do not (R146, R267). -/
structure Kchk where
  ph : Bool
  good : Bool
  deriving DecidableEq, Repr, Inhabited

/-! ## Traps -/

/-- The banked registers of one trap level and its latch bank (R385, R386). -/
structure TrapBank where
  cause : Nat
  from_ : Nat
  re : Bool
  epc : Nat
  lpc : BitVec 12
  deta : W64
  detb : W64
  x30 : W64
  x31 : W64
  pred : BitVec 8
  live : Tab W64
  shadow : Tab W64
  latch : List Flight
  units : List (VUnit × Nat)
  deriving DecidableEq, Repr, Inhabited

/-- A pending boundary cause: MCHK with a source, or HOMEFLT (R380, R384). -/
inductive Pending where
  | mchk (source : Nat) (addr : Nat) (entry : Option Nat)
  | homeflt (va reason entry : Nat)
  deriving DecidableEq, Repr, Inhabited

/-- What a message or a chain command needs of a port: free slots of its transmit skid and, for the first command of a chain,
the reservation of the far staging (R401, R406, R413). -/
structure SkidWait where
  port : Nat
  slots : Nat
  stage : Bool
  deriving DecidableEq, Repr, Inhabited

/-- The read of a token that a wait makes (R132, R137): none yet; under way, as a request; or what the last one brought. -/
inductive Poll where
  | idle
  | asked (id : Nat)
  | got (v : Nat)
  deriving DecidableEq, Repr, Inhabited

/-- A bundle that is stalled (R70, R97): the first check has passed. -/
structure Stall where
  /-- Its translation walks have completed (R349), the addresses that they walk, and the reads of table entries that have been
  sent, by entry and request. -/
  walked : Bool
  walks : List Nat
  reads : List (Nat × Nat)
  /-- The read of a QWAIT's token (R137). -/
  poll : Poll
  /-- Stalled clk counted against SLACK (R286), and the objects it waits for. -/
  clk : Nat
  waits : List Obj
  /-- It has reached its rendezvous (R155). -/
  rdv : Option Rdv
  /-- The rendezvous has been completed, so the bundle may issue. -/
  go : Bool
  /-- WNEXT's predicate: dispatched (R165). -/
  got : Bool
  /-- The LCC at which the next bundle issues, when the rendezvous sets it (R158, R164, R165). -/
  lccNext : Option W64
  /-- The barrier address and token of a BWAIT (R337). -/
  bwait : Option (Nat × Nat)
  /-- The other slots of a WNEXT bundle have issued (R165). -/
  early : Bool
  /-- The chain reservation has arrived (R406). -/
  staged : Bool
  /-- The barrier that a BWAIT waits at has passed its token (R337). -/
  done : Bool
  /-- It would send a request on a plane, so that a closed global-issue gate holds it (R375, R379). -/
  gate : Bool
  /-- What it needs of a transmit skid (R413). -/
  skid : Option SkidWait
  /-- It holds a PFENCE (R369, R370). -/
  fence : Bool
  deriving DecidableEq, Repr, Inhabited

/-- A chain whose verdict a core awaits or has (R410). -/
structure ChainRec where
  port : Nat
  seed : W32
  expected : W32
  verdict : Option Verdict
  crc : W32
  deriving DecidableEq, Repr, Inhabited

/-- The open chain of a core (R405). -/
structure OpenChain where
  port : Nat
  seed : W32
  limit : Nat
  sent : Nat
  deriving DecidableEq, Repr, Inhabited

/-! ## The core -/

/-- Core states (R148); a pre-empted core is saved with its kernel (R173). -/
inductive Life where
  | idle | running | ended | retired
  deriving DecidableEq, Repr, Inhabited

/-- The phase snapshot of a core (R313). -/
structure Snap where
  x : Tab W64
  p : BitVec 8
  latch : List Flight
  bpc : Nat
  lpc : BitVec 12
  lcc : W64
  accs : List Nat
  area : Nat
  units : List (VUnit × Nat)
  deriving DecidableEq, Repr, Inhabited

/-- A core. -/
structure Core where
  /-- R148. -/
  life : Life
  /-- Kernel, group and index within the group (R152, R153). -/
  kernel : Option Nat
  group : Nat
  cidx : Nat
  /-- x0-x31 (R179); x0 is never listed. -/
  x : Tab W64
  /-- p0-p7, bit 0 true (R180). -/
  p : BitVec 8
  /-- Next bundle address; 0x2_0000 is the end (R59). -/
  bpc : Nat
  /-- R87. -/
  lpc : BitVec 12
  /-- TL0 logical cycle counter (R61). -/
  lcc : W64
  /-- Exposed results in flight, in issue order (R63, R64). -/
  pipe : List Flight
  /-- Remaining initiation intervals (R65). -/
  units : List (VUnit × Nat)
  /-- Bundle store, 128 KiB (R59). -/
  bundle : Memory
  /-- Lines of the bundle store an OVL will write, and poisoned lines (R60, R149). -/
  bPend : List Nat
  bPoison : List Nat
  /-- Overlays present, with the digest of the image whose they are (R149, R150). -/
  present : List Nat
  image : BitVec 256
  /-- Overlay copies in flight. -/
  ovls : List OvlCopy
  /-- Literal store, 4,096 words (R87). -/
  lit : Tab W64
  /-- va0-va15, vb0-vb15 (R205). -/
  va : Tab VReg
  vb : Tab VReg
  /-- Live and shadow shape registers (R84). -/
  shLive : Tab W64
  shShadow : Tab W64
  /-- Tile registers (R246). -/
  tile : Tab (BitVec 40)
  /-- Bank format registers (R243). -/
  bf : Tab (BitVec 4)
  /-- Accumulators: element i of accumulator n at 1024 n + i (R43, R250). -/
  acc : Tab AccEl
  accPoison : List Nat
  /-- Scoreboard (R69): tile n at n, accumulator n at 64 + n. -/
  sb : Tab (Option Sb)
  /-- Matrix operations issued and not done, oldest first (R250). -/
  mops : List MatOp
  /-- Transfers in flight (R286). -/
  xfers : List Xfer
  /-- Handles (R282). -/
  handle : Tab HandleBits
  /-- ATT (R273). -/
  att : BitVec 2048
  /-- Scratchpad and its poisoned words (R242, R300). -/
  sp : Memory
  spPoison : List Nat
  /-- Vault and its poisoned lines (R292). -/
  vault : Memory
  vaultPoison : List Nat
  /-- Trap level and the clocks of TL1 and TL2 (R380, R381). -/
  tl : Nat
  hc1 : Nat
  hc2 : Nat
  /-- R386. -/
  thvec : Nat
  tsave : Nat
  budg : Nat
  bank1 : TrapBank
  bank2 : TrapBank
  /-- Pending boundary causes in the order found (R384). -/
  pend : List Pending
  /-- CSR 0x0A0 (R301) and TSEL (R249). -/
  lusel : BitVec 11
  tsel : BitVec 6
  /-- CHKCNT and SUSPECT (R249, R176). -/
  chkcnt : W32
  suspect : Bool
  /-- Check count; injected checks due, each with whether its bundle stood in a phase; checks in flight (R146, R267). -/
  kcount : Nat
  inject : List Bool
  kchks : List Kchk
  /-- SECCNT, UECNT (R301), WALKS, PULLS (R363), REPLAYS, GATECLK (R379), LBPCLK (R413). -/
  seccnt : W32
  uecnt : W32
  walks : W32
  pulls : W32
  replays : W32
  gateclk : W32
  lbpclk : W32
  /-- Running digest (R305). -/
  digest : W64
  /-- LCRC and the chains (R406, R410). -/
  lcrc : W32
  chain : Option OpenChain
  chains : List ChainRec
  /-- CBAD, CREF and the far CRC that LSTAT shows (R409). -/
  cbad : Bool
  cref : Bool
  ccrc : W32
  /-- Outbox of 16 message slots (R160). -/
  outbox : List Msg
  /-- LALIGN has completed (R158, R159). -/
  aligned : Bool
  /-- LCC of the first bundle of the item (R157). -/
  ld : W64
  /-- Phase snapshot and the load logs (R313, R318). -/
  snap : Option Snap
  runLog : List LoadDesc
  inLog : List LoadDesc
  /-- A stalled bundle (R70). -/
  stall : Option Stall
  deriving DecidableEq, Repr, Inhabited

/-! ## Groups and kernels -/

/-- Group states (R154). -/
inductive GState where
  | waiting | running | retired | preempted
  deriving DecidableEq, Repr, Inhabited

/-- Phase states (R310). -/
inductive PhState where
  | closed | open_ | sealed | prepare
  deriving DecidableEq, Repr, Inhabited

/-- Where a PHPUB or a cancellation stands (R315, R320). -/
inductive PhStep where
  | none
  /-- Prepare tokens are out; these homes have voted to commit. -/
  | voting (voted : List Nat)
  /-- Every home voted to commit, and the homes apply the phase. -/
  | committing
  /-- A cancelling cause is held; `count` says whether it counts toward escalation; a home fault names its core. -/
  | cancel (count : Bool) (flt : Option (Nat × Nat × Nat))
  /-- The phase has restarted, and its cores wait at the entry until these have returned from their traps (R323,
  R324). -/
  | waiting (cores : List Nat)
  deriving DecidableEq, Repr, Inhabited

/-- Something other than a request that a phase holds (R123, R305, R316). -/
inductive HeldAct where
  | evpost (code : Nat) (a b : W64)
  /-- Digest bytes of a store (R305). -/
  | digest (bytes : List Byte)
  deriving DecidableEq, Repr, Inhabited

/-- A group (R152-R154, R310). -/
structure Group where
  bay : Nat
  /-- Core numbers by CIDX. -/
  cores : List Nat
  st : GState
  /-- The state to which a pre-empted group returns. -/
  back : GState
  /-- Ordinal of the current item. -/
  item : Option Nat
  /-- Order in which it entered WAITING. -/
  since : Nat
  /-- The item has committed, and a phase has been opened in it (R168). -/
  committed : Bool
  opened : Bool
  ph : PhState
  step : PhStep
  canc : Nat
  ncommit : BitVec 16
  /-- Read signature (R169). -/
  sig : BitVec 1024
  /-- Held acts with the CIDX of their core, in issue order. -/
  held : List (Nat × HeldAct)
  deriving DecidableEq, Repr, Inhabited

/-- A walker (R162). -/
structure Walker where
  bay : Nat
  lo : Nat
  hi : Nat
  /-- Ranges of ordinals from the first to below the second, rising (R163, R174, R177). -/
  pending : List (Nat × Nat)
  deriving DecidableEq, Repr, Inhabited

/-- Kernel states (R147). -/
inductive KState where
  | loading | running | preempted | finishing | retired | killed
  deriving DecidableEq, Repr, Inhabited

/-- An overlay of an image (R107). -/
structure Overlay where
  dest : Nat
  len : Nat
  off : Nat
  tag : Nat
  deriving DecidableEq, Repr, Inhabited

/-- A launch record's fields (R138). -/
structure LaunchRec where
  image : Nat
  entry : Nat
  lpc0 : Nat
  nest : Bool
  gsize : Nat
  level : Nat
  nfields : Nat
  order : Nat
  kdens : Nat
  slack : Nat
  w : List Nat
  gang : Nat
  first : Nat
  count : Nat
  ext : List Nat
  presets : Nat
  handles : Nat
  arg : List W64
  digest : BitVec 256
  deriving DecidableEq, Repr, Inhabited

/-- A saved core of a pre-empted kernel: the number it had and its state (R173). -/
abbrev SavedCore := Nat × Core

/-- A kernel (R147), with its queue and the packet of it that launched it. -/
structure Kernel where
  ctx : Nat
  queue : Nat
  pk : Nat
  user : W64
  irq : Bool
  prio : Nat
  minBays : Nat
  maxBays : Nat
  lr : LaunchRec
  /-- Level latched at admission (R143). -/
  level : Nat
  /-- Declared points and overlays of the image (R106, R107). -/
  points : List Nat
  overlays : List Overlay
  st : KState
  /-- Suspend or a higher priority asks for its pre-emption (R172). -/
  preempt : Bool
  bays : List Nat
  groups : Tab Group
  walkers : List Walker
  /-- Lowest uncommitted ordinal and committed ordinals above it (R167). -/
  luo : Nat
  committed : List Nat
  /-- Item digests by ordinal, or core digests by gang index when timed (R306). -/
  digests : Tab W64
  /-- Phase cancellations counted (R134). -/
  cancels : W64
  aligned : Bool
  saved : List SavedCore
  /-- A suspend that is under way found it with bays, which its save area holds (R119). -/
  inSave : Bool
  /-- Next number for the order of entering WAITING. -/
  waits : Nat
  /-- What every core holds at the start (R145). -/
  start : Core
  deriving DecidableEq, Repr, Inhabited

/-! ## Contexts and queues -/

/-- Context states (R116). -/
inductive CState where
  | free | idle | active | suspended | killed
  deriving DecidableEq, Repr, Inhabited

/-- Queue states (R128). -/
inductive QState where
  | off | idle | ready | blocked | halted
  deriving DecidableEq, Repr, Inhabited

/-- A packet consumed and not completed, or finished with its record to be written (R125, R134). -/
structure Packet where
  /-- The model's own number for it, which no other packet bears. -/
  id : Nat
  seq : Nat
  kind : Nat
  irq : Bool
  user : W64
  body : List Byte
  /-- Accepted and finished: status and payloads of the record. -/
  fin : Option (Nat × W64 × W64)
  /-- The packet's own step has begun. -/
  begun : Bool
  /-- How it ends once its requests have been served. -/
  ends : Option (Nat × W64 × W64)
  /-- What the reads of a COPY have brought, and the pages that it is to write (R132, R353). -/
  land : List Brought
  pages : List Page
  /-- Its completion record is on its way (R134). -/
  recorded : Bool
  /-- Its queue has been reset since it was consumed: its number is not one of the queue's any more (R125, R127). -/
  old : Bool
  deriving DecidableEq, Repr, Inhabited

/-- A queue (R124-R134). -/
structure Queue where
  ring : Nat
  lg : Nat
  prio : Nat
  weight : Nat
  device : Bool
  vector : Nat
  cring : Nat
  clg : Nat
  entry : Nat
  qtail : Nat
  qcons : Nat
  qcomp : Nat
  cprod : Nat
  st : QState
  age : Nat
  /-- Packets taken in the current round-robin turn (R130). -/
  turn : Nat
  /-- Level set by MODE; 0xFF takes the context's default (R133). -/
  level : Nat
  /-- Its head LAUNCH has asked for pre-emption, and takes its minimum of bays (R143). -/
  claims : Bool
  /-- The read of the token that a WAIT at its head waits for (R132). -/
  poll : Poll
  packets : List Packet
  /-- Sequence numbers completed above QCOMP. -/
  comps : List Nat
  deriving DecidableEq, Repr, Inhabited

/-- A reduction window (R115). -/
structure Window where
  fmt : Nat
  x : BitVec 16
  size : Nat
  base : Nat
  deriving DecidableEq, Repr, Inhabited

/-- A context (R113-R121). -/
structure Ctx where
  st : CState
  root : Nat
  grant : W64
  portMask : BitVec 16
  stackMask : BitVec 16
  profMask : Byte
  level : Nat
  evBase : Nat
  evSize : Nat
  erBase : Nat
  erSize : Nat
  saveBase : Nat
  windows : List Window
  /-- Record numbers; the registers show their low 32 bits (R120, R121). -/
  evprod : W64
  evcons : W32
  erprod : W64
  ercons : W32
  evlost : W32
  erlost : W32
  queues : List Queue
  /-- Relocation map, identity where unlisted (R356). -/
  reloc : List (Nat × Nat)
  /-- Virtual pages whose window cells have been initialised (R351). -/
  winInit : List Nat
  deriving DecidableEq, Repr, Inhabited

/-! ## Planes, pages, links -/

/-- Plane states (R373). -/
inductive PlState where
  | up | quiesce | dead | off
  deriving DecidableEq, Repr, Inhabited

/-- A migration in progress (R357, R358). -/
structure Mig where
  ctx : Nat
  va : Nat
  lg : Nat
  oldPa : Nat
  newPa : Nat
  leafAt : Nat
  leaf : W64
  /-- Lines present at the new frame. -/
  have_ : List Nat
  retire : Bool
  /-- The hash profile of the old leaf (R304). -/
  oldProf : Nat
  deriving DecidableEq, Repr, Inhabited

/-- Link states, by their code (R395). -/
inductive LState where
  | down | training | up | replay | repair | degraded | quiesced
  deriving DecidableEq, Repr, Inhabited

/-- A command of a chain being written: its port, its barrier's core and address with the page that translated it, and the
sectors not delivered, each with its number and the requests that write it (R340, R407). -/
structure Delivery where
  id : Nat
  port : Nat
  ctx : Nat
  bar : Option (Nat × Nat)
  pages : List Page
  sectors : List (Nat × List Nat)
  /-- Its barrier has been on a core that was away, and counts before the core goes on (R328, R356). -/
  parked : Bool
  deriving DecidableEq, Repr, Inhabited

/-- A command of a chain as it is staged: its destination, its barrier, its bytes (R407). -/
structure StagedCmd where
  dest : Nat
  bar : Option Nat
  bytes : List Byte
  deriving DecidableEq, Repr, Inhabited

/-- A chain of a far sender: its CRC so far, whether a command of it is refused, and its commands (R407). -/
structure Staged where
  src : Nat
  crc : W32
  bad : Bool
  cmds : List StagedCmd
  /-- Bytes of the port's 64 KiB staging that are reserved for it (R406). -/
  room : Nat
  deriving DecidableEq, Repr, Inhabited

/-- A response sent on a link to a far requester (R400, R407, R414). -/
inductive Resp where
  /-- The data of a read, or the old value of an atomic, with the poison flag. -/
  | data (bytes : List Byte) (poison : Bool)
  /-- A write is acknowledged. -/
  | done
  /-- The request is refused. -/
  | error
  /-- The verdict on a chain, with the far CRC finalised. -/
  | verdict (v : Verdict) (crc : W32)
  deriving DecidableEq, Repr, Inhabited

/-- The slice that a stack link has written in a checkpoint (R416): where its stream begins, its length, its bytes by their
place in the stream, and the lines of the stream that travelled poisoned. -/
structure Slice where
  dest : W64
  len : Nat
  bytes : Memory
  poison : List Nat
  deriving DecidableEq, Repr, Inhabited

/-- A UALink port (0-15) or stack link (16-31) (R395-R407). -/
structure Link where
  peer : BitVec 20
  v : Bool
  ctx : BitVec 12
  st : LState
  lanes : Nat
  replays : W32
  repairs : BitVec 16
  /-- State left by REPLAY or QUIESCED, and a deferred repair (R396, R397). -/
  back : LState
  deferred : Bool
  /-- Claiming kernel (R402). -/
  claim : Option Nat
  /-- Transmit skid: messages in order (R401). -/
  tx : List Msg
  /-- Receive skid (R401, R403). -/
  rx : List Msg
  /-- Chains staged here for far senders (R407). -/
  staging : List Staged
  /-- In QUIESCED, the number below which its requests were in flight and complete (R396). -/
  cut : Nat
  /-- The response that it sent last to a far requester (R400, R407, R414). -/
  resp : Option Resp
  /-- The slice that it wrote in the last checkpoint that it carried (R416, R417). -/
  slice : Option Slice
  deriving DecidableEq, Repr, Inhabited

/-- A link that carries requests and messages (R396). -/
def Link.flows (l : Link) : Bool := l.st == .up || l.st == .degraded

/-- An access-control entry (R360). -/
abbrev AclEntry := BitVec 256

/-- A CHECKPOINT in progress (R416, R417). -/
structure Ckpt where
  ctx : Nat
  queue : Nat
  pk : Nat
  links : BitVec 16
  parts : Byte
  dest : List W64
  held : List (Nat × List Byte)
  /-- Its context has been killed (R398). -/
  dead : Bool
  deriving DecidableEq, Repr, Inhabited

/-- A read of the host through BAR2 that is under way (R17): the offset, its requests that have not been served, and what they
have brought. -/
structure BarRead where
  off : Nat
  left : List Nat
  land : List Brought
  deriving DecidableEq, Repr, Inhabited

/-! ## The schedule -/

/-- What happens next when the schedule says so (notes' log entry 1). -/
inductive Turn where
  /-- A core takes its next bundle boundary. -/
  | core (n : Nat)
  /-- An event of the opcode table. -/
  | event (i : Instr)
  /-- One clk passes. -/
  | clk
  /-- The host writes its own memory. -/
  | hostWrite (addr : Nat) (bytes : List Byte)
  /-- A read is about to find an uncorrectable error in a scratchpad word of a core (R300; notes' log entry 19). -/
  | upset (core addr : Nat)
  /-- A read finds and corrects a single-bit error in a scratchpad word of a core (R300). -/
  | corrected (core : Nat)
  /-- An accumulator element of a core takes an uncorrectable error (R265). -/
  | upsetAcc (core n : Nat)
  /-- A line of DRAM is found poisoned (R359). -/
  | upsetLine (pa : Nat)
  /-- The host resizes BAR2 to 2^lg bytes (R16, R17). -/
  | bar2Resize (lg : Nat)
  /-- The data of a store that a phase holds at its home takes an uncorrectable error there (R324). -/
  | upsetHeld (id : Nat)
  /-- A bit changes in the chain that a port stages for a far core: its CRC comes out changed by `mask` (R420). -/
  | upsetStaging (port src : Nat) (mask : W32)
  deriving DecidableEq, Repr

/-! ## The module -/

/-- The whole machine. -/
structure State where
  /-- Boot controller (R20) and BOOTSTAT (R19). -/
  boot : Boot
  bootstat : BitVec 16
  /-- BOOTSTAT has read 1 since reset (R22). -/
  listed : Bool
  /-- APBASE [39:30] and log2 of BAR2's size (R17, R19). -/
  apbase : BitVec 10
  bar2log : Nat
  /-- DBDROP, and the attestation registers (R19, R23). -/
  dbdrop : W32
  attdone : BitVec 16
  attaddr : W64
  attnonce : Tab W64
  attbusy : Bool
  /-- MREG0-MREG7 (R21). -/
  mreg : Tab (BitVec 256)
  /-- Fenced cores (R20, R176), bays fenced whole by SELFTEST (R20), and retired frames (R359). -/
  fenced : List Nat
  fencedBays : List Nat
  retired : List (Nat × Nat)
  /-- Power: window average in W, ms over the envelope, gate held; the clock of every island in MHz: 1,024 core islands by
  core number, then 64 bay-fabric, 16 stack-base, 8 plane and 8 link-block islands (R11, R14). -/
  watts : Nat
  mhz : Tab Nat
  overMs : Nat
  pgate : Bool
  /-- CTXDESC, CTXSTAT (R113), QSEL (R127), PGI registers (R362), DEVID (R394). -/
  ctxdesc : W64
  ctxstat : W64
  qsel : W64
  pgiaddr : W64
  pgiarg : W64
  pgicmd : Option (Nat × Nat)
  devid : BitVec 20
  /-- MSI-X: table bytes of BAR4 and pending vectors (R16). -/
  msixTable : Memory
  msixPend : List Nat
  /-- Hash-profile masks at 48 stack + 6 profile + i (R303). -/
  profmask : Tab (BitVec 36)
  /-- Access-control entries at 256 stack + entry (R360). -/
  acl : Tab AclEntry
  /-- Layout-unit counters at 128 stack + 2 q + write (R304). -/
  lucnt : Tab (BitVec 48)
  /-- Minaret DRAM, its poisoned lines, host memory (R281, R359, R120). -/
  hbm : Memory
  hbmPoison : List Nat
  hostMem : Memory
  /-- Planes, PMAP, rehash (R367, R373, R375). -/
  planes : Tab PlState
  pmap : BitVec 24
  rehashes : BitVec 16
  rehash : Bool
  rehashed : List Nat
  /-- The detail code of the cause that took each plane down (R374). -/
  plDetail : Tab Nat
  /-- Requests and partial cells (R368-R372), and the stretches that the part reads for itself (R139, R140). -/
  reqs : List Req
  fetches : List Fetch
  partials : List Partial
  deliveries : List Delivery
  /-- Migrations (R357). -/
  migs : List Mig
  /-- Links: 0-15 UALink ports, 16-31 stack links (R395). -/
  links : Tab Link
  /-- Contexts (R113), kernels (R147), cores (R12). -/
  ctxs : Tab Ctx
  kernels : Tab Kernel
  cores : Tab Core
  ckpt : Option Ckpt
  /-- Reads of the host through BAR2, and what the last one returned: offset, bytes, poison (R17). -/
  barReads : List BarRead
  barResp : Option (Nat × List Byte × Bool)
  /-- Round-robin position of the module scheduler in each priority: context and queue (R130). -/
  lastQ : Tab (Nat × Nat)
  /-- The context that a suspend is saving (R116). -/
  ctxpend : Option Nat
  /-- 64 KiB stretches of the save area that it has written (R119). -/
  savePos : Nat
  /-- The model's own: the core whose boundary is next, the schedule, numbers for requests, kernels and transfers,
  the counter of free values, clk seen, free turns taken (notes' log entries 1 and 4). -/
  cur : Nat
  agenda : List Turn
  nextId : Nat
  nextK : Nat
  freeCtr : Nat
  clk : Nat
  beat : Nat
  deriving DecidableEq, Repr

/-! ## Reset -/

/-- An empty trap bank: the reset of R386. -/
def TrapBank.reset : TrapBank :=
  ⟨0, 0, false, 0, 0, 0, 0, 0, 0, 1, [], [], [], []⟩

/-- A core before any kernel: the values of R145 that are zero, predicates as R145 gives them. -/
def Core.reset : Core where
  life := .idle
  kernel := none
  group := 0
  cidx := 0
  x := []
  p := 1
  bpc := 0
  lpc := 0
  lcc := 0
  pipe := []
  units := []
  bundle := []
  bPend := []
  bPoison := []
  present := []
  image := 0
  ovls := []
  lit := []
  va := []
  vb := []
  shLive := []
  shShadow := []
  tile := []
  bf := []
  acc := []
  accPoison := []
  sb := []
  mops := []
  xfers := []
  handle := []
  att := 0
  sp := []
  spPoison := []
  vault := []
  vaultPoison := []
  tl := 0
  hc1 := 0
  hc2 := 0
  thvec := 0
  tsave := 0
  budg := 0
  bank1 := .reset
  bank2 := .reset
  pend := []
  lusel := 0
  tsel := 0
  chkcnt := 0
  suspect := false
  kcount := 0
  inject := []
  kchks := []
  seccnt := 0
  uecnt := 0
  walks := 0
  pulls := 0
  replays := 0
  gateclk := 0
  lbpclk := 0
  digest := 0
  lcrc := 0xFFFFFFFF
  chain := none
  chains := []
  cbad := false
  cref := false
  ccrc := 0
  outbox := []
  aligned := false
  ld := 0
  snap := none
  runLog := []
  inLog := []
  stall := none

/-- A context number that holds no context (R116). -/
def Ctx.reset : Ctx :=
  ⟨.free, 0, 0, 0, 0, 0, 0, 0, 0, 0, 0, 0, [], 0, 0, 0, 0, 0, 0, [], [], []⟩

/-- A link at reset (R395). -/
def Link.reset : Link :=
  ⟨0, false, 0, .down, 0, 0, 0, .down, false, none, [], [], [], 0, none, none⟩

/-- The nominal clock of a core island in MHz (R11); the other islands start at it too (the notes' log entry 5). -/
def nominalMhz : Nat := 1250

/-- Profile 1's masks at reset (R303). -/
def profile1 (i : Nat) : BitVec 36 :=
  [0x082082080, 0x104104100, 0x208208200, 0x410410400, 0x820820800, 0x041041000].getD i 0

/-- A hash-profile mask at reset: profile 0, and profiles 2-7 like it, have bit `7 + i`; profile 1 its own (R303). -/
def profileReset (profile i : Nat) : BitVec 36 :=
  if profile = 1 then profile1 i else BitVec.ofNat 36 (2 ^ (7 + i))

/-- The machine right after reset (R19, R20 and the reset columns of the register tables). -/
def State.reset : State where
  boot := .reset
  bootstat := 0
  listed := false
  apbase := 0
  bar2log := 36
  dbdrop := 0
  attdone := 0
  attaddr := 0
  attnonce := []
  attbusy := false
  mreg := []
  fenced := []
  fencedBays := []
  retired := []
  watts := 0
  mhz := []
  overMs := 0
  pgate := false
  ctxdesc := 0
  ctxstat := 0
  qsel := 0
  pgiaddr := 0
  pgiarg := 0
  pgicmd := none
  devid := 0
  msixTable := []
  msixPend := []
  profmask := []
  acl := []
  lucnt := []
  hbm := []
  hbmPoison := []
  hostMem := []
  planes := (upto 8).map (fun n => (n, .off))
  pmap := 0xFAC688
  rehashes := 0
  rehash := false
  rehashed := []
  plDetail := []
  reqs := []
  fetches := []
  partials := []
  deliveries := []
  migs := []
  links := []
  ctxs := []
  kernels := []
  cores := []
  ckpt := none
  barReads := []
  barResp := none
  lastQ := []
  ctxpend := none
  savePos := 0
  cur := 0
  agenda := []
  nextId := 8
  nextK := 1
  freeCtr := 0
  clk := 0
  beat := 0

/-! ## Stops -/

/-- Reasons for which a step faults. -/
inductive Fault where
  /-- Raised by the meaning of a slot instruction when the core it is given to is not running, of which the spec says
  nothing; safe: `step` issues bundles on running cores only. -/
  | notRunning
  deriving DecidableEq, Repr

/-- Reasons for which a step is refused. -/
inductive Refusal where
  /-- Raised by `exec` for an instruction that has no meaning yet; safe. -/
  | notModelled (mnemonic : String)
  deriving DecidableEq, Repr

end Sys2Proof.Machine
end

