-- ==== Sys2Proof/Machine/Ops.lean ====
section
/-! DEFINITION. The named operations over the state: cores, kernels, groups and contexts; registers; results in flight
and their landing; the scoreboard; log records and completions; killing a context; taking a trap and returning from one. -/

namespace Sys2Proof.Machine

/-! ## Access to cores, kernels, groups, contexts, links -/

def coreAt (s : State) (n : Nat) : Core := tabGet Core.reset s.cores n
def setCore (s : State) (n : Nat) (c : Core) : State := { s with cores := tabPut s.cores n c }
def mapCore (s : State) (n : Nat) (f : Core → Core) : State := setCore s n (f (coreAt s n))

/-- The core whose boundary is next. -/
def me (s : State) : Core := coreAt s s.cur
def mapMe (s : State) (f : Core → Core) : State := mapCore s s.cur f

def kernelAt (s : State) (k : Nat) : Kernel := tabGet default s.kernels k
def mapKernel (s : State) (k : Nat) (f : Kernel → Kernel) : State :=
  { s with kernels := tabPut s.kernels k (f (kernelAt s k)) }

/-- The kernel of a core; a core without one is taken as one of a timed kernel of level 0. -/
def kernelOf (s : State) (c : Core) : Kernel := kernelAt s (c.kernel.getD 0)

def groupAt (s : State) (k g : Nat) : Group := tabGet default (kernelAt s k).groups g
def mapGroup (s : State) (k g : Nat) (f : Group → Group) : State :=
  mapKernel s k (fun kn => { kn with groups := tabPut kn.groups g (f (tabGet default kn.groups g)) })

def groupOf (s : State) (c : Core) : Group := groupAt s (c.kernel.getD 0) c.group

def ctxAt (s : State) (n : Nat) : Ctx := tabGet Ctx.reset s.ctxs n
def setCtx (s : State) (n : Nat) (x : Ctx) : State := { s with ctxs := tabPut s.ctxs n x }
def mapCtx (s : State) (n : Nat) (f : Ctx → Ctx) : State := setCtx s n (f (ctxAt s n))

/-- The context of a core. -/
def ctxNo (s : State) (c : Core) : Nat := (kernelOf s c).ctx

def linkAt (s : State) (n : Nat) : Link := tabGet Link.reset s.links n
def mapLink (s : State) (n : Nat) (f : Link → Link) : State := { s with links := tabPut s.links n (f (linkAt s n)) }

/-- A context is live in IDLE, ACTIVE and SUSPENDED (R117). -/
def Ctx.live (x : Ctx) : Bool := x.st == .idle || x.st == .active || x.st == .suspended

/-- A kernel that holds its bays (R147). -/
def KState.holds : KState → Bool
  | .loading => true | .running => true | .finishing => true
  | _ => false

/-- A kernel that has neither retired nor been killed (R147). -/
def KState.alive : KState → Bool
  | .retired => false | .killed => false
  | _ => true

/-- The level of a core's kernel (R3). -/
def levelOf (s : State) (c : Core) : Nat := (kernelOf s c).level

/-- The phase state that a bundle of the core meets: instructions at TL1 and TL2 are outside every phase (R310, R325). -/
def phaseOf (s : State) (c : Core) : PhState := if c.tl = 0 then (groupOf s c).ph else .closed

/-- A phase that holds stores and logs loads (R299, R314). -/
def PhState.inside : PhState → Bool
  | .open_ => true | .sealed => true
  | _ => false

/-- The bay of a core (R12). -/
def bayOf (core : Nat) : Nat := core / 16

/-! ## Registers (R179, R180) -/

/-- x0 reads 0. -/
def Core.rx (c : Core) (n : Nat) : W64 := if n = 0 then 0 else tabGet 0 c.x n
/-- A write to x0 is discarded. -/
def Core.wx (c : Core) (n : Nat) (v : W64) : Core := if n = 0 then c else { c with x := tabSet 0 c.x n v }
/-- p0 reads true. -/
def Core.rp (c : Core) (n : Nat) : Bool := if n = 0 then true else c.p.getLsbD n
/-- No instruction writes p0 (R180). -/
def Core.wp (c : Core) (n : Nat) (v : Bool) : Core :=
  if n = 0 then c else
    { c with p := if v then c.p ||| BitVec.ofNat 8 (2 ^ n) else c.p &&& ~~~(BitVec.ofNat 8 (2 ^ n)) }
/-- A vector register of a cluster (R205). -/
def Core.rv (c : Core) (k : Cluster) (n : Nat) : VReg :=
  match k with | .a => tabGet 0 c.va n | .b => tabGet 0 c.vb n
def Core.wv (c : Core) (k : Cluster) (n : Nat) (v : VReg) : Core :=
  match k with | .a => { c with va := tabSet 0 c.va n v } | .b => { c with vb := tabSet 0 c.vb n v }

/-- Unsigned and signed readings of a scalar register (R179). -/
def Core.ux (c : Core) (n : Nat) : Nat := (c.rx n).toNat
def Core.ix (c : Core) (n : Nat) : Int := (c.rx n).toInt

def Core.tileAt (c : Core) (n : Nat) : BitVec 40 := tabGet 0 c.tile n
def Core.bfAt (c : Core) (n : Nat) : BitVec 4 := tabGet 0 c.bf n
def Core.accEl (c : Core) (a i : Nat) : AccEl := tabGet AccEl.zero c.acc (1024 * a + i)
def Core.handleAt (c : Core) (n : Nat) : HandleBits := tabGet 0 c.handle n

/-- The 64-bit word of all bank formats, CSR BFMT (R249). -/
def Core.bfWord (c : Core) : W64 := BitVec.ofNat 64 (sumN 16 (fun n => (c.bfAt n).toNat * 2 ^ (4 * n)))

/-! ## Scratchpad (R242, R300) -/

/-- Words of 32 bits that a run of bytes covers wholly. -/
def wholeWords : Nat → List (Option Byte) → List Nat
  | _, [] => []
  | a, b :: r =>
    let t := wholeWords (a + 1) r
    if a % 4 = 0 && b.isSome && decide (3 ≤ r.length) && (r.take 3).all Option.isSome then a / 4 :: t else t

/-- Bytes written; whole words lose their poison unless the write is a read-modify-write of parts (R199, R300). -/
def Core.spWrite (c : Core) (a : Nat) (bs : List (Option Byte)) (sub : Bool) : Core :=
  { c with
    sp := c.sp.writeM a bs
    spPoison := if sub then c.spPoison else (wholeWords a bs).foldl (fun p w => setDel w p) c.spPoison }

/-- Several runs, in order. -/
def Core.spWrites (c : Core) (rows : List (Nat × List (Option Byte))) (sub : Bool) : Core :=
  rows.foldl (fun c r => c.spWrite r.1 r.2 sub) c

/-- The first poisoned word, as a byte address, among those that `n` bytes from `a` on touch. -/
def Core.poisonIn (c : Core) (a n : Nat) : Option Nat :=
  (c.spPoison.find? (fun w => decide (a / 4 ≤ w) && decide (4 * w < a + n))).map (4 * ·)

/-- Words of a run of bytes poisoned. -/
def Core.spoil (c : Core) (a n : Nat) : Core :=
  { c with spPoison := setInsAll ((upto ((a + n + 3) / 4 - a / 4)).map (a / 4 + ·)) c.spPoison }

/-! ## Results in flight (R63, R64) -/

/-- A landing applied to its destination (R63, R64, R68). -/
def Core.land (c : Core) : Landing → Core
  | .x n v => c.wx n v
  | .p n v => c.wp n v
  | .v k n v => c.wv k n v
  | .mem rows sub => c.spWrites rows sub
  | .shadow n f v =>
    let old := (tabGet 0 c.shShadow n).toNat
    let w := if f = 4 then v.toNat else
      old - old / 2 ^ (16 * f) % 65536 * 2 ^ (16 * f) + v.toNat % 65536 * 2 ^ (16 * f)
    { c with shShadow := tabSet 0 c.shShadow n (BitVec.ofNat 64 w) }
  | .att v => { c with att := v }
  | .tile n v => { c with tile := tabSet 0 c.tile n v, sb := tabSet none c.sb n none }
  | .bf n f => { c with bf := tabSet 0 c.bf n f }

/-- The least remaining count among the flights. -/
def minRem : List Flight → Option Int
  | [] => none
  | f :: r => match minRem r with
    | some m => some (if f.rem ≤ m then f.rem else m)
    | none => some f.rem

/-- Removes the first flight with the given remaining count. -/
def takeFlight (m : Int) : List Flight → Option (Flight × List Flight)
  | [] => none
  | f :: r => if f.rem = m then some (f, r) else (takeFlight m r).map (fun p => (p.1, f :: p.2))

/-- The result due next: the one of the earliest cycle, and within a cycle the one issued first; of one bundle, the one
of the lowest header bit (R64). -/
def Core.nextDue (c : Core) : Option (Flight × List Flight) :=
  match minRem c.pipe with
  | some m => if m ≤ 0 then takeFlight m c.pipe else none
  | none => none

/-- Every result that is due lands, in order; at most `n` of them. -/
def Core.landDue : Nat → Core → Core
  | 0, c => c
  | n + 1, c => match c.nextDue with
    | some (f, r) => Core.landDue n ({ c with pipe := r }.land f.dst)
    | none => c

/-- Logical cycles elapse: results come nearer, intervals run down (R63, R65). -/
def Core.elapse (c : Core) (n : Nat) : Core :=
  { c with
    pipe := c.pipe.map (fun f => { f with rem := f.rem - n })
    units := (c.units.map (fun u => (u.1, u.2 - n))).filter (fun u => u.2 != 0)
    xfers := c.xfers.map (fun x => { x with cap := x.cap.map (· - n) }) }

/-- A result sent into its pipeline by the bundle that issues now. -/
def fly (inside : Bool) (lat : Nat) (d : Landing) (s : State) : State :=
  mapMe s (fun c => { c with pipe := c.pipe ++ [⟨lat, inside, d⟩] })

/-- A unit whose interval has not elapsed (R65). -/
def Core.busy (c : Core) (u : VUnit) : Bool := c.units.any (fun p => p.1 == u && p.2 != 0)

/-! ## The scoreboard (R69) -/

def Obj.key : Obj → Nat
  | .tile n => n
  | .acc n => 64 + n

def Core.sbAt (c : Core) (o : Obj) : Option Sb := tabGet none c.sb o.key
def Core.sbSet (c : Core) (o : Obj) (v : Option Sb) : Core := { c with sb := tabSet none c.sb o.key v }

/-- A reader issues. -/
def Core.sbRead (c : Core) (o : Obj) : Core :=
  match c.sbAt o with
  | some (.read n) => c.sbSet o (some (.read (n + 1)))
  | some .write => c
  | none => c.sbSet o (some (.read 1))

/-- A reader has finished reading. -/
def Core.sbReadDone (c : Core) (o : Obj) : Core :=
  match c.sbAt o with
  | some (.read n) => c.sbSet o (if n ≤ 1 then none else some (.read (n - 1)))
  | _ => c

/-- A writer issues; a writer's last byte has landed. -/
def Core.sbWrite (c : Core) (o : Obj) : Core := c.sbSet o (some .write)
def Core.sbFree (c : Core) (o : Obj) : Core := c.sbSet o none

/-- The marks of an engine instruction that issues. -/
def Core.sbMark (c : Core) (reads writes : List Obj) : Core :=
  writes.foldl Core.sbWrite (reads.foldl Core.sbRead c)

/-- An object that a reader, or a writer, must wait for (R69, R70). -/
def Core.waitRead (c : Core) (o : Obj) : Bool := c.sbAt o == some .write
def Core.waitWrite (c : Core) (o : Obj) : Bool := (c.sbAt o).isSome

/-! ## Shape registers (R84, R85) -/

/-- The exchange of the live and shadow copies. -/
def Core.swap (c : Core) (n : Nat) : Core :=
  { c with
    shLive := tabSet 0 c.shLive n (tabGet 0 c.shShadow n)
    shShadow := tabSet 0 c.shShadow n (tabGet 0 c.shLive n) }

/-- The value that an instruction uses: the live copy after its swap. -/
def Core.shape (c : Core) (n : Nat) (sw : Bool) : W64 :=
  if sw then tabGet 0 c.shShadow n else tabGet 0 c.shLive n

/-- Dimension `d` of a shape value. -/
def dim (v : W64) (d : Nat) : Nat := v.toNat / 2 ^ (16 * d) % 65536

/-! ## Log records, interrupts, completions (R16, R120, R121, R134) -/

/-- The 32 bytes of a record (R121). -/
def recordBytes (kind code core : Nat) (num a b : W64) : List Byte :=
  leBytes 2 kind ++ leBytes 2 code ++ leBytes 2 core ++ leBytes 2 0 ++ leBytes 8 num.toNat ++ leBytes 8 a.toNat ++
    leBytes 8 b.toNat

/-- An event record posted to a context, or lost (R120). DEDUCED (the notes' log entry 91): records, interrupts and what else the part
writes of its own accord are no requests of an engine or a port (R364) and are written at once. -/
def postEvent (s : State) (n kind code core : Nat) (a b : W64) : State :=
  let x := ctxAt s n
  if (x.evprod.truncate 32 - x.evcons).toNat = x.evSize then setCtx s n { x with evlost := x.evlost + 1 }
  else
    setCtx { s with hostMem := s.hostMem.writeN (x.evBase + 32 * (x.evprod.toNat % x.evSize))
                                 (recordBytes kind code core x.evprod a b) } n
      { x with evprod := x.evprod + 1 }

/-- An error record written to a context's error log, or lost (R120). -/
def postError (s : State) (n kind code core : Nat) (a b : W64) : State :=
  let x := ctxAt s n
  if (x.erprod.truncate 32 - x.ercons).toNat = x.erSize then setCtx s n { x with erlost := x.erlost + 1 }
  else
    setCtx { s with hostMem := s.hostMem.writeN (x.erBase + 32 * (x.erprod.toNat % x.erSize))
                                 (recordBytes kind code core x.erprod a b) } n
      { x with erprod := x.erprod + 1 }

/-- An event record posted to every live context that a predicate picks. -/
def postAll (s : State) (pick : Ctx → Bool) (kind : Nat) (a b : W64) : State :=
  s.ctxs.foldl (fun t p => if p.2.live && pick p.2 then postEvent t p.1 kind 0 0xFFFF a b else t) s

/-- No core, in a record's core field (R121); all ones, as a payload (R425). -/
def noCore : Nat := 0xFFFF
def allOnes64 : W64 := 0xFFFFFFFFFFFFFFFF

/-- An MSI-X vector is raised: its message is written, or it pends while masked (R16). -/
def raiseMsix (s : State) (v : Nat) : State :=
  if bit1 (s.msixTable.readLE (16 * v + 12) 4) 0 then { s with msixPend := setIns v s.msixPend }
  else { s with hostMem := s.hostMem.writeN (s.msixTable.readLE (16 * v) 8) (s.msixTable.readN (16 * v + 8) 4) }

def queueAt (s : State) (n q : Nat) : Queue := (ctxAt s n).queues.getD q default

/-- One element of a list changed. -/
def setNth {α : Type} (n : Nat) (f : α → α) : List α → List α
  | [] => []
  | a :: r => match n with
    | 0 => f a :: r
    | k + 1 => a :: setNth k f r

def mapQueue (s : State) (n q : Nat) (f : Queue → Queue) : State :=
  mapCtx s n (fun x => { x with queues := setNth q f x.queues })

/-- A consumed packet has finished: its completion record can be written, after those of the packets that have finished
before (R134). -/
def finishPacket (s : State) (n q pk status : Nat) (a b : W64) : State :=
  let now (p : Packet) : Bool := p.id == pk && p.fin.isNone
  mapQueue s n q (fun u =>
    let done := (u.packets.filter now).map (fun p => { p with fin := some (status, a, b) })
    { u with packets := u.packets.filter (fun p => !now p) ++ done })

/-! ## Killing (R116, R117, R147, R390, R425) -/

/-- The claims of a kernel end: the receive skids are discarded (R402). -/
def dropClaims (s : State) (k : Nat) : State :=
  { s with links := tabMap (fun _ l => if l.claim == some k then { l with claim := none, rx := [] } else l) s.links }

/-- A request that only brings bytes to its core. -/
def ReqOp.isLoad : ReqOp → Bool
  | .read _ => true | .fetch => true
  | _ => false

/-- The core that sent a request. -/
def Req.core? (r : Req) : Option Nat :=
  match r.src with
  | .core n => some n
  | _ => none

/-- A load whose core has gone: it runs on to its home, where it is counted as its core's, and lands nowhere (R151, R308). -/
def Req.orphan (r : Req) : Req := if r.op.isLoad then { r with xfer := none, op := .fetch } else r

/-- A request that a phase of a kernel holds, or a token of one (R315). -/
def Req.inPhaseOf (k : Nat) (pick : Nat → Bool) (r : Req) : Bool :=
  (r.ph.map (fun p => p.1 == k && pick p.2)).getD false || (match r.op with
    | .token k' g _ => k' == k && pick g
    | _ => false)

/-- Fetch stops on every core of a kernel, and the cores are free; requests and acts held with its phases are discarded, with
their tokens, and loads on their way to those cores land nowhere. -/
def freeCores (s : State) (k : Nat) : State :=
  { s with
    cores := tabMap (fun _ c => if c.kernel == some k then
      { c with life := .idle, kernel := none, stall := none, snap := none, pend := [] } else c) s.cores
    reqs := (s.reqs.filter (fun r => !r.inPhaseOf k (fun _ => true))).map (fun r =>
      if (r.core?.map (fun n => (coreAt s n).kernel == some k)).getD false then r.orphan else r) }

/-- What the part reads for itself for some owner is given up. -/
def dropFetches (s : State) (own : FetchFor → Bool) : State := { s with fetches := s.fetches.filter (fun f => !own f.own) }

/-- A kernel is killed and its packet finishes KILLED (R147). -/
def killKernel (s : State) (k : Nat) (cause b : W64) : State :=
  let kn := kernelAt s k
  let s := dropFetches s (· == .image k)
  let s := mapKernel s k (fun kn => { kn with
    st := .killed, bays := [], saved := [], groups := tabMap (fun _ g => { g with held := [] }) kn.groups })
  let s := finishPacket (dropClaims (freeCores s k) k) kn.ctx kn.queue kn.pk 1 cause b
  -- a context whose last kernel ends is IDLE (R116)
  if (ctxAt s kn.ctx).st == .active && s.kernels.all (fun p => p.2.ctx != kn.ctx || !p.2.st.alive) then
    mapCtx s kn.ctx (fun x => { x with st := .idle })
  else s

/-- Of the consumed packets of a context that have not finished, a LAUNCH completes KILLED, after those that have finished before, and
the others complete no more: a kill writes completions for kernels only (R116, R128, R134, R425). -/
def killPackets (s : State) (n : Nat) (cause : W64) : State :=
  mapCtx s n (fun x => { x with queues := x.queues.map (fun q => { q with
    claims := false
    packets := q.packets.filter (fun p => p.fin.isSome) ++
      (q.packets.filter (fun p => p.fin.isNone && p.kind == 1)).map (fun p => { p with fin := some (1, cause, allOnes64) }) }) })

/-- A checkpoint of a context that has been killed or destroyed is to end (R398). -/
def ckptDead (s : State) (n : Nat) : State := { s with ckpt := s.ckpt.map (fun c => { c with dead := c.dead || c.ctx == n }) }

/-- A context is killed: `b` is payload B of its record and of kernel `k`'s completion; every other kernel completes
with all ones (R390, R425). -/
def killCtx (s : State) (n : Nat) (cause : W64) (code core : Nat) (k : Option Nat) (b : W64) : State :=
  let s := mapCtx s n (fun x => { x with st := .killed })
  let s := ckptDead { s with fetches := s.fetches.filter (fun f => f.ctx != n) } n
  let s := postError s n 0x0103 code core cause b
  let s := s.kernels.foldl (fun t p =>
    if p.2.ctx = n && p.2.st.alive then killKernel t p.1 cause (if k = some p.1 then b else allOnes64) else t) s
  killPackets s n cause

/-- A kernel is killed alone (causes 0x0101 and 0x0102 of R425). -/
def killOne (s : State) (k : Nat) (cause : W64) : State :=
  killKernel (postError s (kernelAt s k).ctx 0x0103 0 noCore cause allOnes64) k cause allOnes64

/-! ## Taking a trap and returning from one (R385, R389) -/

/-- What a trap level's entry does to a core that is at TL0 or TL1 (R385). -/
def Core.enter (c : Core) (cause : Nat) (deta detb : W64) (epc : Nat) (lpc : BitVec 12) (soft : Bool) : Core :=
  let b : TrapBank := {
    cause := cause, from_ := c.tl, re := !soft, epc := epc, lpc := lpc, deta := deta, detb := detb
    x30 := c.rx 30, x31 := c.rx 31, pred := c.p
    live := c.shLive, shadow := c.shShadow, latch := c.pipe, units := c.units }
  let c := { c with pipe := [], units := [], bpc := c.thvec, stall := none }
  let c := (c.wx 31 (BitVec.ofNat 64 ((c.tsave + 512 * c.tl) % 2 ^ 60))).wx 30 (BitVec.ofNat 64 cause)
  if c.tl = 0 then { c with bank1 := b, tl := 1, hc1 := 0, budg := 0 }
  else { c with bank2 := b, tl := 2, hc2 := 0 }

/-- A trap of cause `cause` on core `n` (R385); at TL2 the context is killed (R390). Results that land at the cycle of the
entry land before it: those of a TRAP's own bundle among them (R63, R388). -/
def trapOn (s : State) (n cause : Nat) (deta detb : W64) (epc : Nat) (lpc : BitVec 12) (soft : Bool) : State :=
  let c := coreAt s n
  let c := c.landDue c.pipe.length
  if 2 ≤ c.tl then
    killCtx s (ctxNo s c) (BitVec.ofNat 64 cause) ((if soft then 0 else 1024) + 512 + cause) n c.kernel
      (BitVec.ofNat 64 epc)
  else setCore s n (c.enter cause deta detb epc lpc soft)

/-- A precise fault of the bundle about to issue on the current core: TEPC names it, TLPC is the unmoved LPC (R96). -/
def fault (s : State) (cause : Nat) (deta detb : W64) : State :=
  trapOn s s.cur cause deta detb (me s).bpc (me s).lpc false

/-- TRET's return from level `n` to the level below (R389). -/
def Core.leave (c : Core) : Core :=
  let b := if c.tl = 1 then c.bank1 else c.bank2
  let c := (c.wx 30 b.x30).wx 31 b.x31
  { c with
    shLive := b.live, shShadow := b.shadow, p := b.pred, lpc := b.lpc, bpc := b.epc, tl := c.tl - 1
    pipe := b.latch, units := b.units, stall := none
    budg := if c.tl = 1 then 0 else c.budg }

/-- The current core is back at TL0 with no cause pending: its group waits for it no longer (R323, R324). -/
def comeBack (s : State) : State :=
  let c := me s
  match c.kernel, (groupOf s c).step with
  | some k, .waiting l =>
    if c.tl = 0 && c.pend.isEmpty then
      let rest := l.filter (fun n => n != s.cur)
      mapGroup s k c.group (fun g => { g with step := if rest.isEmpty then .none else .waiting rest })
    else s
  | _, _ => s

/-! ## Phases -/

/-- The number of a home in the votes: stacks 0-15, host memory 16, ports 32-47, stack links 48-63, registers 64, skids 80-95, vaults
from 1,024, scratchpads from 2,048. -/
def Home.code : Home → Nat
  | .stack n => n
  | .host => 16
  | .port n => 32 + n
  | .link n => 48 + n
  | .mmio => 64
  | .skid n => 80 + n
  | .vault c => 1024 + c
  | .scratch c => 2048 + c

/-- Of the homes that hold something of a phase, one has not voted to commit. -/
def voteOpen (s : State) (k g : Nat) (voted : List Nat) : Bool :=
  s.reqs.any (fun r => r.ph == some (k, g) && r.st == .held && !voted.contains r.place.home.code)

/-- A cause of R319 is found on a core whose group's phase is OPEN, SEALED or PREPARE before the decision, which is when every home
has voted: the cancellation is held (R311, R319). The first cause found stands. -/
def cancelPhase (s : State) (k g : Nat) (count : Bool) (flt : Option (Nat × Nat × Nat)) : State :=
  let gr := groupAt s k g
  let may := match gr.step with
    | .none => true
    | .voting voted => voteOpen s k g voted
    | .waiting _ => true
    | _ => false
  if (gr.ph.inside || gr.ph == .prepare) && may then
    mapGroup s k g (fun gr => { gr with step := .cancel count flt })
  else s

/-- The same, for a core's own group. -/
def cancelOf (s : State) (n : Nat) : State :=
  let c := coreAt s n
  match c.kernel with
  | some k => cancelPhase s k c.group true none
  | none => s

end Sys2Proof.Machine
end

