-- ==== Sys2Proof/Machine/Regs.lean ====
section
/-! DEFINITION. What the global registers of BAR0 read (01_module R17, R19, R22-R26; 05_context R113, R120; 06_queue R127;
14_tensor R303; 18_page R360, R362; 19_plane R378; 22_link R394, R395). Registers are aligned words of eight bytes. -/

namespace Sys2Proof.Machine

/-- The state code of a context (R120). -/
def CState.code : CState → Nat
  | .free => 0 | .idle => 1 | .active => 2 | .suspended => 3 | .killed => 4

/-- The state codes of a link (R395). -/
def LState.code : LState → Nat
  | .down => 0 | .training => 1 | .up => 2 | .replay => 3 | .repair => 4 | .degraded => 5 | .quiesced => 6

/-- A set of small numbers as a bit mask. -/
def bitSet (l : List Nat) : Nat := sumN 64 (fun i => if l.contains i then 2 ^ i else 0)

/-- Planes in a state, as a mask (R378). -/
def planesIn (s : State) (st : PlState) : Nat := bitSet ((upto 8).filter (fun p => tabGet .up s.planes p == st))

/-- A mask of a hash profile (R303). -/
def profMaskAt (s : State) (stack profile i : Nat) : BitVec 36 :=
  (tabFind s.profmask (48 * stack + 6 * profile + i)).getD (profileReset profile i)

/-- A word of a context's register block (R120). -/
def ctxReg (x : Ctx) (o : Nat) : Nat :=
  match o with
  | 0x00 => x.st.code
  | 0x08 => x.evprod.toNat % 2 ^ 32
  | 0x10 => x.evcons.toNat
  | 0x18 => x.erprod.toNat % 2 ^ 32
  | 0x20 => x.ercons.toNat
  | 0x28 => x.evlost.toNat
  | 0x30 => x.erlost.toNat
  | _ => 0

/-- A word of a link's register block; that of a stack link has no LPCFG (R395). -/
def linkReg (l : Link) (stack : Bool) (o : Nat) : Nat :=
  match o with
  | 0x00 => if stack then 0 else l.peer.toNat * 2 ^ 32 + b2n l.v * 2 ^ 12 + l.ctx.toNat
  | 0x10 => l.replays.toNat * 2 ^ 32 + l.repairs.toNat * 2 ^ 16 + l.lanes % 16 * 2 ^ 7 + l.st.code
  | _ => 0

/-- The queue that QSEL selects (R127). -/
def selected (s : State) : Queue := queueAt s (fld s.qsel.toNat 11 0) (fld s.qsel.toNat 21 12)

/-- The words of the boot, aperture and attestation registers (R19). -/
def bootReg (s : State) (o : Nat) : Nat :=
  if 0x100 ≤ o && o < 0x200 then (tabGet 0 s.mreg ((o - 0x100) / 32)).toNat / 2 ^ (8 * (o % 32)) % 2 ^ 64
  else if 0x40 ≤ o && o < 0x60 then (tabGet 0 s.attnonce ((o - 0x40) / 8)).toNat
  else match o with
    | 0x00 => s.bootstat.toNat
    | 0x08 => s.apbase.toNat * 2 ^ 30
    | 0x10 => s.dbdrop.toNat
    | 0x20 => s.attdone.toNat
    | 0x28 => s.attaddr.toNat
    | _ => 0

/-! ## The capability list (R24-R26) -/

/-- The planes that are off (R25). -/
def offPlanes (s : State) : List Nat := (upto 8).filter (fun p => tabGet .up s.planes p == .off)

/-- The identifiers of the part's list in their order, of which nothing is stated but that there is an entry where the list
starts (R24, R25). DESIGN CHOICE (the notes' log entry 69): the part fixes which entries there are and how often; were it to fix
none, the list would hold the identity and the errata alone. The errata are always listed: A1's are (R10). -/
def capIds : List Nat :=
  let ids := if Config.capabilityOrder.isEmpty then [1] else Config.capabilityOrder
  if ids.contains 7 then ids else ids ++ [7]

/-- Body words that the spec does not describe, fewer than `lim`: LEN, which counts a body's words, has eight bits (R24). -/
def capFree (id lim : Nat) : List W64 := (upto (Config.capabilityLength id % lim)).map (Config.capabilityWord id)

/-- The geometry entry's record of failed units: the fenced cores in sixteen words, the fenced bays in one, the planes that
are off in one (R20, R25, R176; their places in the body are the model's, the notes' log entry 54). -/
def geometryWords (s : State) : List W64 :=
  (upto 16).map (fun i => BitVec.ofNat 64 (bitSet ((upto 64).filter (fun j => s.fenced.contains (64 * i + j))))) ++
    [BitVec.ofNat 64 (bitSet s.fencedBays), BitVec.ofNat 64 (bitSet (offPlanes s))]

/-- The memory entry's record of retired frames: base address, and log2 of the size in the low bits (R359; log entry 54). -/
def retiredWords (s : State) : List W64 := (s.retired.take 64).map (fun r => BitVec.ofNat 64 (r.1 / 64 * 64 + r.2 % 64))

/-- The number of errata in the list, which their words and the count's leave room for in LEN's eight bits, and their words: STEP is 1,
for A1 (R10, R24, R26). DESIGN CHOICE (the notes' log entry 80): bits [63:16] of the count's word, to which R26 gives no value, are
whatever the part fixes. -/
def errataCount : Nat := Config.errataCount % 255
def erratumWord (i : Nat) : W64 :=
  BitVec.ofNat 64 ((Config.erratumId i).toNat * 2 ^ 32 + 1 * 2 ^ 28 + Config.erratumStatus i % 3 * 2 ^ 26 +
    (Config.erratumLabel i).toNat)
def errataWords : List W64 :=
  BitVec.ofNat 64 (Config.errataReserved.toNat * 2 ^ 16 + errataCount) :: (upto errataCount).map erratumWord

/-- The body of a capability entry (R25, R26). -/
def capBody (s : State) (id : Nat) : List W64 :=
  match id with
  | 2 => capFree 2 238 ++ geometryWords s
  | 4 => capFree 4 192 ++ retiredWords s
  | 7 => errataWords
  | _ => capFree id 256

/-- The header of an entry (R24). -/
def capHeader (id len next : Nat) : W64 :=
  BitVec.ofNat 64 (next % 2 ^ 16 * 2 ^ 32 + len % 2 ^ 8 * 2 ^ 24 + (Config.capabilityVersion id).toNat * 2 ^ 16 + id % 2 ^ 16)

/-- The words of the list from an entry that starts at offset `off` on: header, body, and free words up to the next one; NEXT of the
last is 0 (R24). DESIGN CHOICE (the notes' log entry 69): there are fewer than 64 such words, and NEXT leads forward only. -/
def capWords (s : State) : Nat → List Nat → List W64
  | _, [] => []
  | off, id :: r =>
    let body := capBody s id
    let gap := capFree (id + 2 ^ 16) 64
    let next := off + 8 * (1 + body.length + gap.length)
    capHeader id body.length (if r.isEmpty then 0 else next) :: body ++ gap ++ capWords s next r

/-- The word at an offset of the list: 0 until BOOTSTAT has read 1 (R22). -/
def capRead (s : State) (o : Nat) : W64 :=
  if s.listed then (capWords s 0 capIds).getD (o / 8) (Config.freeValue s.freeCtr) else 0

/-! ## The MSI-X table and the registers -/

/-- A word of BAR4: the MSI-X table, and from 0x8000 the pending-bit array (R16, R17). -/
def msixRead (s : State) (o : Nat) : W64 :=
  if o < 0x8000 then BitVec.ofNat 64 (s.msixTable.readLE (o / 8 * 8) 8)
  else if o < 0x8100 then
    BitVec.ofNat 64 (bitSet ((upto 64).filter (fun j => s.msixPend.contains (64 * ((o - 0x8000) / 8) + j))))
  else Config.freeValue s.freeCtr

/-- A register of BAR0 that is only written: ATTGO, CTXCMD, QCTL, PLCMD and every LPCMD. What it reads as is a free value,
for the spec gives none (the notes' log entries 7 and 37). -/
def writeOnly (o : Nat) : Bool :=
  o == 0x18 || o == 0x2000 || o == 0x2040 || o == 0x2068 || (decide (0x3000 ≤ o) && decide (o < 0x3800) && o % 64 == 8)

/-- The value of the register word at an offset of BAR0, and of BAR4 from 2^32 on. Offsets to which the spec gives no
register read as free values (the notes' log entry 7). -/
def regRead (s : State) (o : Nat) : W64 :=
  let n (v : Nat) : W64 := BitVec.ofNat 64 v
  if 0x100000000 ≤ o then msixRead s (o - 0x100000000)
  else if writeOnly o then Config.freeValue s.freeCtr
  else if o < 0x1000 then n (bootReg s o)
  else if o < 0x2000 then capRead s (o - 0x1000)
  else if 0x3000 ≤ o && o < 0x3400 then n (linkReg (linkAt s ((o - 0x3000) / 64)) false (o % 64))
  else if 0x3400 ≤ o && o < 0x3800 then n (linkReg (linkAt s (16 + (o - 0x3400) / 64)) true (o % 64))
  else if 0x30000 ≤ o && o < 0x32000 && o % 64 < 48 then
    n (profMaskAt s ((o - 0x30000) / 0x200) (o % 0x200 / 0x40) (o % 0x40 / 8)).toNat
  else if 0x40000 ≤ o && o < 0x60000 then
    n ((tabGet 0 s.acl ((o - 0x40000) / 32)).toNat / 2 ^ (8 * (o % 32)) % 2 ^ 64)
  else if 0x80000 ≤ o && o < 0x100000 then n (ctxReg (ctxAt s ((o - 0x80000) / 128)) (o % 128))
  else if 0x100000 ≤ o && o < 0x1000000 then 0
  else match o with
    | 0x2008 => s.ctxdesc
    | 0x2010 => s.ctxstat
    | 0x2020 => s.qsel
    | 0x2028 => n (selected s).qcons
    | 0x2030 => n (selected s).qcomp
    | 0x2038 => n (selected s).qtail
    | 0x2048 => n (b2n s.pgicmd.isSome * 2 ^ 63)
    | 0x2050 => s.pgiaddr
    | 0x2058 => s.pgiarg
    | 0x2060 => n (s.rehashes.toNat * 2 ^ 48 + s.pmap.toNat * 2 ^ 24 + planesIn s .quiesce * 2 ^ 16 +
        planesIn s .off * 2 ^ 8 + planesIn s .up)
    | 0x2070 => n s.devid.toNat
    | _ => Config.freeValue s.freeCtr

end Sys2Proof.Machine
end

