-- ==== Sys2Proof/Machine/Mem.lean ====
section
/-! DEFINITION. Memory beyond the core: the page walk and its faults, the places of a page, fabric addresses and
planes, the layout unit, reads and writes at homes, and the part's own accesses through a context's pages
(14_tensor R281, R302-R304; 18_page R346-R361; 19_plane R364-R367). -/

namespace Sys2Proof.Machine

/-! ## Bytes of DRAM (R358) -/

/-- The runs of a stretch of addresses, cut at multiples of `cut`. -/
def runsBy (cut : Nat) : Nat → Nat → Nat → List (Nat × Nat)
  | 0, _, _ => []
  | k + 1, va, n =>
    if n = 0 then [] else
      let m := min n (cut - va % cut)
      (va % 2 ^ 60, m) :: runsBy cut k (va + m) (n - m)

def runs (cut va n : Nat) : List (Nat × Nat) := runsBy cut (n / cut + 2) va n

/-- The migration that fills the frame of a physical address. -/
def migOf (s : State) (pa : Nat) : Option Mig :=
  s.migs.find? (fun m => decide (m.newPa ≤ pa) && decide (pa < m.newPa + 2 ^ m.lg))

/-- Where the bytes of a line of DRAM stand: those of a line not yet pulled in the old frame (R358). -/
def dramAt (s : State) (pa : Nat) : Nat :=
  match migOf s pa with
  | none => pa
  | some m => if m.have_.contains ((pa - m.newPa) / 64) then pa else m.oldPa + (pa - m.newPa)

/-- Bytes of DRAM within one line. -/
def dramRead (s : State) (pa n : Nat) : List Byte := s.hbm.readN (dramAt s pa) n

/-- The bytes of a run of lines. -/
def dramRun (s : State) (pa n : Nat) : List Byte :=
  if s.migs.isEmpty then s.hbm.readN pa n else ((runs 64 pa n).map (fun r => dramRead s r.1 r.2)).flatten

/-! ## The walk (R346-R350) -/

/-- What an access needs of a leaf (R350). -/
inductive Acc where
  | read | write | atom | cread | red | barrier
  /-- FADD (R294, R399): refused at a stack link. -/
  | fadd
  deriving DecidableEq, Repr

/-- Physical addresses below 2^40 name Minaret DRAM, the others host memory (the notes' log entry 9); a table in a frame that
is being filled is read by the rules of R358. -/
def physRead (s : State) (pa n : Nat) : Nat :=
  if pa < 2 ^ 40 then leNat (dramRun s pa n) else s.hostMem.readLE pa n

/-- A poisoned line of DRAM; the poison of a line not yet pulled is that of the old frame's (R358). -/
def poisonedLine (s : State) (pa : Nat) : Bool := s.hbmPoison.contains (dramAt s pa / 64)

/-- A physical address in a frame that has been retired (R359). -/
def retiredAt (s : State) (pa : Nat) : Bool := s.retired.any (fun r => decide (r.1 ≤ pa) && decide (pa < r.1 + 2 ^ r.2))

/-- A read of a table entry meets poison or a fault of its own (R350, R359). -/
def walkFails (s : State) (pa : Nat) : Bool := decide (pa < 2 ^ 40) && (poisonedLine s pa || retiredAt s pa)

def leafTT (e : Nat) : Nat := fld e 4 2

/-- Conditions of reason 2 on a leaf of a page of 2^lg bytes (R347, R348, R350, R393). -/
def leafBad (profMask : Byte) (lg e : Nat) : Bool :=
  let frame := e / 2 ^ 16 * 2 ^ 16
  let prof := fld e 10 8
  fld e 15 13 != 0 || (leafTT e != 7 && frame % 2 ^ lg != 0) ||
  match leafTT e with
  | 0 => fld e 63 40 != 0 || !profMask.getLsbD prof
  | 1 => prof != 0 || lg == 30 || fld e 63 31 != 0
  | 2 => prof != 0 || lg != 16 || fld e 63 30 != 0
  | 3 => prof != 0
  | 4 => prof != 0 || fld e 39 36 == 15
  | 5 => prof != 0 || fld e 63 44 != 0
  | 6 => prof != 0 || lg != 16 || fld e 63 25 != 0
  | _ => prof != 0

/-- The levels of the walk from the root: lowest index bit, index bits, and whether a leaf may stand there (R346). -/
def walkLevels : List (Nat × Nat × Bool) :=
  [(57, 3, false), (48, 9, false), (39, 9, false), (30, 9, true), (21, 9, true), (16, 5, true)]

/-- The walk from a table on: the page's log2 size, its leaf and the leaf's address, or the reason of R350. -/
def walkFrom (s : State) (pm : Byte) (va : Nat) : List (Nat × Nat × Bool) → Nat → Except Nat (Nat × Nat × Nat)
  | [], _ => .error 2
  | (lo, n, leafOk) :: r, table =>
    let at_ := table + 8 * (va / 2 ^ lo % 2 ^ n)
    let e := physRead s at_ 8
    if walkFails s at_ then .error 7
    else if !bit1 e 0 then .error 1
    else if bit1 e 1 then
      if !leafOk || leafBad pm lo e then .error 2
      else .ok (lo, e, at_)
    else if r.isEmpty || fld e 11 2 != 0 then .error 2
    else walkFrom s pm va r (e / 4096 * 4096)

/-- The walk of an address in a context. -/
def walk (s : State) (n va : Nat) : Except Nat (Nat × Nat × Nat) :=
  let x := ctxAt s n
  walkFrom s x.profMask va walkLevels x.root

/-- The core that holds the state designated by a number (R356). -/
def resolve (x : Ctx) (n : Nat) : Nat := ((x.reloc.find? (fun p => p.1 == n)).map Prod.snd).getD n

/-- A bay held by a running or pre-empted kernel of a context (R356). -/
def bayHeld (s : State) (n bay : Nat) : Bool :=
  s.kernels.any (fun p => p.2.ctx == n && (p.2.st == .running || p.2.st == .preempted) && p.2.bays.contains bay)

/-- The rights an access needs (R350, reason 4). -/
def rightsOk (e : Nat) : Acc → Bool
  | .read => bit1 e 5
  | .write => bit1 e 6
  | .atom => bit1 e 5 && bit1 e 6 && bit1 e 7
  | .cread => bit1 e 5 && bit1 e 7
  | .red => bit1 e 6 && bit1 e 7
  | .fadd => bit1 e 6 && bit1 e 7
  | .barrier => bit1 e 7

/-- A target that refuses the access (R350, reason 5; R399, R414). -/
def targetRefuses (x : Ctx) (e : Nat) (a : Acc) : Bool :=
  let atomic := a == .atom || a == .cread || a == .red || a == .fadd
  match leafTT e with
  | 2 => false
  | 3 => atomic || a == .barrier
  | 6 => atomic || a == .barrier
  | 4 => a == .barrier || a == .cread || !x.portMask.getLsbD (fld e 43 40)
  | 5 => a == .barrier || a == .cread || a == .fadd || !x.stackMask.getLsbD (fld e 43 40)
  | _ => a == .barrier

/-- Core number of a VAULT or SCRATCH frame (R348). -/
def frameCore (e : Nat) : Nat := if leafTT e = 1 then fld e 30 21 else fld e 29 20

/-- The translation of an address for an access: its page, or the lowest reason of R350. -/
def xlate (s : State) (n va : Nat) (a : Acc) : Except Nat Page :=
  match walk s n va with
  | .error r => .error r
  | .ok (lg, e, _) =>
    let x := ctxAt s n
    let core := resolve x (frameCore e)
    if leafTT e = 7 then .error 3
    else if !rightsOk e a then .error 4
    else if targetRefuses x e a then .error 5
    else if (leafTT e = 1 || leafTT e = 2) && !bayHeld s n (bayOf core) then .error 6
    else .ok ⟨va / 2 ^ lg * 2 ^ lg, lg, BitVec.ofNat 64 e, core⟩

/-- Where an address of a page stands (R348). -/
def Page.place (p : Page) (va : Nat) : Place :=
  let e := p.leaf.toNat
  let a := e / 2 ^ 16 * 2 ^ 16 / 2 ^ p.lg * 2 ^ p.lg + va % 2 ^ p.lg
  match leafTT e with
  | 0 => ⟨.stack (a % 2 ^ 40 / 2 ^ 36), a % 2 ^ 40, fld e 10 8⟩
  | 1 => ⟨.vault p.core, a % 2 ^ 21, 0⟩
  | 2 => ⟨.scratch p.core, a % 2 ^ 20, 0⟩
  | 3 => ⟨.host, a, 0⟩
  | 4 => ⟨.port (fld e 43 40), a % 2 ^ 40, fld e 63 44⟩
  | 5 => ⟨.link (fld e 43 40), a % 2 ^ 40, 0⟩
  | _ => ⟨.mmio, a % 2 ^ 25, 0⟩

/-- Translation of the pages of several addresses: the pages in ascending order, or the lowest faulting address with its
lowest reason (R350). -/
def xlateAll (s : State) (n : Nat) (a : Acc) : List Nat → Except (Nat × Nat) (List Page)
  | [] => .ok []
  | va :: r =>
    match xlate s n va a with
    | .error e => .error (va, e)
    | .ok p => (xlateAll s n a r).map (p :: ·)

/-- The page among those given that holds an address. -/
def pageOf (ps : List Page) (va : Nat) : Page :=
  (ps.find? (fun p => p.va == va / 2 ^ p.lg * 2 ^ p.lg)).getD default

/-! ## Fabric addresses and planes (R364-R367) -/

/-- The fabric address of a place. -/
def Place.fa (p : Place) : Nat :=
  match p.home with
  | .stack _ => p.addr % 2 ^ 40
  | .vault c => 2 ^ 40 + c * 2 ^ 21 + p.addr
  | .scratch c => 2 * 2 ^ 40 + c * 2 ^ 20 + p.addr
  | .host => 3 * 2 ^ 40 + p.addr % 2 ^ 40
  | .port _ => 4 * 2 ^ 40 + p.addr % 2 ^ 40
  | .link _ => 5 * 2 ^ 40 + p.addr % 2 ^ 40
  | .mmio => 6 * 2 ^ 40 + p.addr
  | .skid _ => 4 * 2 ^ 40 + p.addr % 2 ^ 40

/-- The line of a request (R364). -/
def Place.line (p : Place) : Nat := p.fa / 64

/-- Two requests whose order R368 keeps for one source: to one home and with one L, which has neither the upper bits of a host address
nor the device of a PEER page (R364). DEDUCED (the notes' log entry 92): R368 orders them at the home, so that requests with one L to two ports
are not ordered. -/
def sameL (p q : Place) : Bool := p.home == q.home && p.line == q.line

/-- The same 64 bytes of one home: the hash profile of a page of DRAM names none of them (R364). -/
def sameLine (p q : Place) : Bool :=
  p.home == q.home && p.addr / 64 == q.addr / 64 && (p.dev == q.dev || (match p.home with
    | .stack _ => true
    | _ => false))

/-- Two names of one place. -/
def samePlace (p q : Place) : Bool := sameLine p q && p.addr == q.addr

/-- The bucket masks (R366). -/
def phm (i : Nat) : Nat := [0x1249249249, 0x2492492492, 0x0924924924].getD i 0

def parity (n v : Nat) : Nat := popc n v % 2

/-- The bucket of a line (R366). -/
def bucket (l : Nat) : Nat :=
  parity 38 (Nat.land l (phm 0)) + 2 * parity 38 (Nat.land l (phm 1)) + 4 * parity 38 (Nat.land l (phm 2))

/-- The plane PMAP names for a bucket (R367). -/
def pmapAt (pmap : BitVec 24) (b : Nat) : Nat := pmap.toNat / 2 ^ (3 * b) % 8

def planeOf (s : State) (p : Place) : Nat := pmapAt s.pmap (bucket p.line)

/-- The bay of a home inside a bay. -/
def Home.bay? : Home → Option Nat
  | .vault c => some (bayOf c) | .scratch c => some (bayOf c)
  | _ => none

/-- The core of a home inside a core. -/
def Home.core? : Home → Option Nat
  | .vault c => some c | .scratch c => some c
  | _ => none

/-- A request of a core that stays on the bay fabric (R365). -/
def bayFabric (src : Src) (p : Place) : Bool :=
  match src with
  | .core n => p.home.bay? == some (bayOf n)
  | _ => false

/-- The plane that takes a request, or none for the bay fabric. -/
def routeOf (s : State) (src : Src) (p : Place) : Option Nat :=
  if bayFabric src p then none else some (planeOf s p)

def planeSt (s : State) (n : Nat) : PlState := tabGet .up s.planes n

/-- The plane that a request is on. -/
def ReqSt.onPlane : ReqSt → Option Nat
  | .plane n => n
  | .merged n => some n
  | _ => none

/-- The home of a request is the saved state of a pre-empted kernel's core (R337, R356). -/
def awayHome (s : State) (ctx : Nat) (p : Place) : Bool :=
  match p.home.bay? with
  | some b => s.kernels.any (fun k => k.2.ctx == ctx && k.2.st == .preempted && k.2.bays.contains b)
  | none => false

/-- The link that a place lies behind. -/
def linkOf (p : Place) : Option Nat :=
  match p.home with
  | .port n => some n
  | .link n => some (16 + n)
  | _ => none

/-- A link that carries nothing new keeps a request at its source; in QUIESCED those in flight, by their number, complete
(R396). -/
def linkHeld (s : State) (p : Place) (id : Nat) : Bool :=
  match linkOf p with
  | some n => !(linkAt s n).flows && !((linkAt s n).st == .quiesced && decide (id < (linkAt s n).cut))
  | none => false

/-- Where a request stands once its source has sent it: on a plane or the bay fabric; at its source while its home is
away, its plane is not UP, its link carries nothing, or a rehash holds its port (R356, R375, R396). -/
def sentSt (s : State) (src : Src) (ctx : Nat) (p : Place) (id : Nat) : ReqSt :=
  let held := s.rehash && (match src with
    | .port _ => true | .link _ => true | .host => true
    | _ => false)
  let r := routeOf s src p
  if awayHome s ctx p || linkHeld s p id || held || (r.map (fun n => planeSt s n != .up)).getD false then .source else .plane r

/-! ## The layout unit (R302-R304) -/

/-- Where a stack-local address stands in its stack (R302). -/
structure DramAddr where
  pc : Nat
  channel : Nat
  row : Nat
  bank : Nat
  column : Nat
  deriving DecidableEq, Repr

/-- The mapping of the layout unit: six parities name the pseudo-channel and the channel, the other bits the offset in it
(R302). The model keys DRAM by the address itself, to which the mapping is one to one. -/
def dramMap (mask : Nat → Nat) (a : Nat) : DramAddr :=
  let b (i : Nat) : Nat := parity 36 (Nat.land a (mask i))
  let off := a / 2 ^ 13 * 2 ^ 7 + a % 2 ^ 7
  { pc := b 0, channel := sumN 5 (fun i => b (i + 1) * 2 ^ i), row := fld off 29 15, bank := fld off 14 11, column := fld off 10 0 }

/-- The pseudo-channel index q of a physical address under a profile (R301, R302). -/
def pseudoChannel (s : State) (pa profile : Nat) : Nat :=
  let d := dramMap (fun i => (profMaskAt s (pa / 2 ^ 36) profile i).toNat) (pa % 2 ^ 36)
  2 * d.channel + d.pc

/-- One line read or write counted (R304). -/
def countLine (s : State) (p : Place) (write : Bool) : State :=
  match p.home with
  | .stack n =>
    let k := 128 * n + 2 * pseudoChannel s p.addr p.dev + b2n write
    { s with lucnt := tabSet 0 s.lucnt k (tabGet 0 s.lucnt k + 1) }
  | _ => s

/-- The entries that a walk reads, from a table on (R346). -/
def walkReads (s : State) (va : Nat) : List (Nat × Nat × Bool) → Nat → List Nat
  | [], _ => []
  | (lo, n, _) :: r, table =>
    let at_ := table + 8 * (va / 2 ^ lo % 2 ^ n)
    let e := physRead s at_ 8
    at_ :: (if bit1 e 0 && !bit1 e 1 && fld e 11 2 == 0 && !walkFails s at_ then
      walkReads s va r (e / 4096 * 4096) else [])

/-! ## Bytes at a home -/

/-- Bytes that the spec leaves to a far device: free values (the notes' log entry 7). -/
def freeBytes : Nat → Nat → List Byte
  | 0, _ => []
  | n + 1, k => (Config.freeValue k).truncate 8 :: freeBytes n (k + 1)

/-- A place in a far device. -/
def isFar (p : Place) : Bool :=
  match p.home with
  | .port _ => true | .link _ => true
  | _ => false

/-- Bytes of the global registers, word by word (R348). -/
def regBytes (s : State) (a n : Nat) : List Byte :=
  ((((upto (n / 8 + 2)).map (fun i => leBytes 8 (regRead s (a / 8 * 8 + 8 * i)).toNat)).flatten).drop (a % 8)).take n

/-- The bytes as they stand at a place; a retired frame gives none, and of what lands for them nothing is stated (R359). -/
def placeRead (s : State) (p : Place) (n : Nat) : List Byte :=
  match p.home with
  | .stack _ => if retiredAt s p.addr then freeBytes n s.freeCtr else dramRun s p.addr n
  | .vault c => (coreAt s c).vault.readN p.addr n
  | .scratch c => (coreAt s c).sp.readN p.addr n
  | .host => s.hostMem.readN p.addr n
  | .mmio => regBytes s p.addr n
  | _ => freeBytes n s.freeCtr

/-- Whether a run of bytes within a line holds poison, or lands poisoned since its frame has been retired (R300, R355). -/
def placePoison (s : State) (p : Place) (n : Nat) : Bool :=
  match p.home with
  | .stack _ => poisonedLine s p.addr || retiredAt s p.addr
  | .vault c => (coreAt s c).vaultPoison.contains (p.addr / 64)
  | .scratch c => ((coreAt s c).poisonIn p.addr n).isSome
  | _ => false

/-- A whole line is written. -/
def fullLine (p : Place) (bs : List (Option Byte)) : Bool :=
  p.addr % 64 == 0 && bs.length == 64 && bs.all Option.isSome

/-- A line of a core's vault written. -/
def Core.vaultWrite (k : Core) (a : Nat) (bs : List (Option Byte)) (whole : Bool) (poison : List Nat) : Core :=
  let l := a / 64
  { k with
    vault := k.vault.writeM a bs
    vaultPoison := if !poison.isEmpty then setIns l k.vaultPoison else if whole then setDel l k.vaultPoison else k.vaultPoison }

/-- A line of a core's scratchpad written by another party. -/
def Core.scratchWrite (k : Core) (a : Nat) (bs : List (Option Byte)) (poison : List Nat) : Core :=
  poison.foldl (fun (k : Core) o => k.spoil (a + o) 1) (k.spWrite a bs false)

/-- Bytes within one line written at a place, those at the offsets of `poison` poisoned; a whole line loses the poison
it had (R300, R359). -/
def placeWriteP (s : State) (p : Place) (bs : List (Option Byte)) (poison : List Nat) : State :=
  match p.home with
  | .stack _ =>
    let l := p.addr / 64
    { s with
      hbm := s.hbm.writeM p.addr bs
      hbmPoison := if !poison.isEmpty then setIns l s.hbmPoison else if fullLine p bs then setDel l s.hbmPoison else s.hbmPoison }
  | .vault c => mapCore s c (fun k => k.vaultWrite p.addr bs (fullLine p bs) poison)
  | .scratch c => mapCore s c (fun k => k.scratchWrite p.addr bs poison)
  | .host => { s with hostMem := s.hostMem.writeM p.addr bs }
  | _ => s

def placeWrite (s : State) (p : Place) (bs : List (Option Byte)) (poison : Bool) : State :=
  placeWriteP s p bs (if poison then upto bs.length else [])

/-! ## Poison found at an access (R151, R359) -/

/-- Whose access it is: context, core (or none) and virtual address; none for the host's own and the part's background
accesses. -/
abbrev Who := Option (Nat × Nat × Nat)

/-- The leaves of a table: virtual address, log2 size, leaf, address of the leaf. -/
def leavesFrom (s : State) (pm : Byte) : List (Nat × Nat × Bool) → Nat → Nat → List (Nat × Nat × Nat × Nat)
  | [], _, _ => []
  | (lo, n, leafOk) :: r, table, va =>
    ((upto (2 ^ n)).map (fun i =>
      let at_ := table + 8 * i
      let e := physRead s at_ 8
      if !bit1 e 0 then []
      else if bit1 e 1 then (if !leafOk || leafBad pm lo e then [] else [(va + i * 2 ^ lo, lo, e, at_)])
      else if r.isEmpty || fld e 11 2 != 0 then []
      else leavesFrom s pm r (e / 4096 * 4096) (va + i * 2 ^ lo))).flatten

/-- The leaves of a context that map the frame of a physical address. -/
def mappings (s : State) (n pa : Nat) : List (Nat × Nat × Nat × Nat) :=
  let x := ctxAt s n
  (leavesFrom s x.profMask walkLevels x.root 0).filter (fun l =>
    leafTT l.2.2.1 == 0 && l.2.2.1 % 2 ^ 40 / 2 ^ l.2.1 == pa / 2 ^ l.2.1)

/-- A page that is being filled has a line at its new frame. -/
def setHave (s : State) (m : Mig) (l : Nat) : State :=
  { s with migs := s.migs.map (fun k => if k.newPa = m.newPa then { k with have_ := setIns l k.have_ } else k) }

/-- A line's place in the old frame of a page that is being filled, under the old page's profile, and in the new one. -/
def Mig.oldLine (m : Mig) (l : Nat) : Place := ⟨.stack ((m.oldPa + 64 * l) / 2 ^ 36), m.oldPa + 64 * l, m.oldProf⟩
def Mig.newLine (m : Mig) (l : Nat) : Place := ⟨.stack ((m.newPa + 64 * l) / 2 ^ 36), m.newPa + 64 * l, fld m.leaf.toNat 10 8⟩

/-- A line is copied from the old frame, which counts as a read there; a poisoned line lands poisoned (R304, R358). -/
def copyLine (s : State) (m : Mig) (l : Nat) : State :=
  let p := m.oldLine l
  setHave (placeWrite (countLine s p false) (m.newLine l) ((placeRead s p 64).map some) (placePoison s p 64)) m l

/-- An entry of a page table written by the part, which counts as a write; a line that its frame does not have yet is copied there
first (R304, R358). -/
def entryWrite (s : State) (pa v : Nat) : State :=
  if pa < 2 ^ 40 then
    let p : Place := ⟨.stack (pa / 2 ^ 36), pa, 0⟩
    let s := match migOf s pa with
      | none => s
      | some m => let l := (pa - m.newPa) / 64; if m.have_.contains l then s else copyLine s m l
    placeWrite (countLine s p true) p ((leBytes 8 v).map some) false
  else { s with hostMem := s.hostMem.writeN pa (leBytes 8 v) }

/-- POISON, bit 11, set in a leaf. Poison of the entry's own line is not looked for here (the notes' log entry 27). -/
def setPoison (s : State) (at_ e : Nat) : State := if bit1 e 11 then s else entryWrite s at_ (e + 2048)

/-- A late fault is written to the error log of the context whose operation met it; of the part's own and the host's accesses
to that of every live context that maps the frame (R151). -/
def lateFaults (s : State) (pa : Nat) (who : Who) : State :=
  match who with
  | some (n, core, va) => postError s n 0x0101 0 core (BitVec.ofNat 64 va) 0
  | none => s.ctxs.foldl (fun t p =>
      if p.2.live then
        match mappings s p.1 pa with
        | l :: _ => postError t p.1 0x0101 0 noCore (BitVec.ofNat 64 (l.1 + pa % 2 ^ l.2.1 / 64 * 64)) 0
        | [] => t
      else t) s

/-- A line of DRAM is found poisoned: POISON is set in every leaf of a live context that maps its frame, and the error record
is written (R151, R359). -/
def poisonFound (s : State) (pa : Nat) (who : Who) : State :=
  lateFaults (s.ctxs.foldl (fun t p =>
    if p.2.live then (mappings s p.1 pa).foldl (fun t l => setPoison t l.2.2.2 l.2.2.1) t else t) s) pa who

/-- The part finds the line of an access poisoned, if it is. -/
def noticed (s : State) (p : Place) (who : Who) : State :=
  match p.home with
  | .stack _ => if poisonedLine s p.addr then poisonFound s p.addr who else s
  | _ => s

/-- The place of an entry of a page table. -/
def entryPlace (a : Nat) : Place := if a < 2 ^ 40 then ⟨.stack (a / 2 ^ 36), a, 0⟩ else ⟨.host, a, 0⟩

/-- An entry of a page table written by the part, which finds the line poisoned if it is: it is no write of the whole line (R359). -/
def physWrite (s : State) (pa v : Nat) : State := noticed (entryWrite s pa v) (entryPlace pa) none

/-! ## Migration (R357, R358, R361) -/

/-- A line is pulled from the old frame; a poisoned one is found so (R358, R359). -/
def pullLine (s : State) (m : Mig) (l : Nat) (who : Who) : State := copyLine (noticed s (m.oldLine l) who) m l

/-- The part completes a fill: MIG clears in the leaf, unless software has written the entry meanwhile (POISON, which the part
sets, apart), a record is posted, and PGMIG.R retires the old frame (R358, R359). -/
def migFinish (s : State) (m : Mig) : State :=
  if m.have_.length = 2 ^ (m.lg - 6) then
    let e := physRead s m.leafAt 8
    let v := e - fld e 11 11 * 2048
    let s := if v = m.leaf.toNat + 4096 then physWrite s m.leafAt (e - 4096) else s
    let s := { s with migs := s.migs.filter (fun k => k.newPa != m.newPa) }
    let s := if m.retire then { s with retired := s.retired ++ [(m.oldPa, m.lg)] } else s
    postEvent s m.ctx 5 0 noCore (BitVec.ofNat 64 m.va) 0
  else s

/-- A request reaches a line of a frame that is being filled: it is pulled first unless the whole line is written; the
core whose request pulls it counts it (R358, R363). -/
def touch (s : State) (p : Place) (whole : Bool) (who : Who) : State :=
  match p.home with
  | .stack _ =>
    match migOf s p.addr with
    | none => s
    | some m =>
      let l := (p.addr - m.newPa) / 64
      if m.have_.contains l then s
      else
        let s := if whole then setHave s m l else
          let s := pullLine s m l who
          match who with
          | some (_, n, _) => if n < 1024 then mapCore s n (fun c => { c with pulls := c.pulls + 1 }) else s
          | none => s
        match migOf s p.addr with
        | some m => migFinish s m
        | none => s
  | _ => s

/-- A read reaches its line: it is pulled if need be, counted, and found poisoned if it is (R304, R358, R359). -/
def readAt (s : State) (p : Place) (who : Who) : State := noticed (countLine (touch s p false who) p false) p who

/-- A frame that has been retired (R359). -/
def isRetired (s : State) (p : Place) : Bool :=
  match p.home with
  | .stack _ => retiredAt s p.addr
  | _ => false

/-! ## Reduction windows (R115, R295, R351) -/

/-- The enabled window that holds an address, with the cell's offset in it. -/
def windowAt (x : Ctx) (va : Nat) : Option Window :=
  x.windows.find? (fun w => w.fmt != 0 && decide (w.base ≤ va) && decide (va < w.base + 32 * w.size))

/-- The initial bytes of a window's cell (R115). -/
def cellInit (w : Window) : List Byte := leBytes 32 (mkCell 0 w.fmt 0 w.x.toNat 0)

/-- What a line of cells of enabled windows holds at first; nothing outside them. -/
def lineInit (x : Ctx) (va : Nat) : List (Option Byte) :=
  [va, va + 32].flatMap (fun a => match windowAt x a with
    | some w => (cellInit w).map some
    | none => List.replicate 32 none)

/-- A core of a pre-empted kernel of a context changed where it is saved. -/
def mapSaved (s : State) (ctx core : Nat) (f : Core → Core) : State :=
  { s with kernels := tabMap (fun _ k =>
      if k.ctx = ctx && k.st == .preempted && k.bays.contains (bayOf core) then
        { k with saved := k.saved.map (fun v => if v.1 = core then (v.1, f v.2) else v) }
      else k) s.kernels }

/-- Bytes within one line written for a context at a place, which may be that of a core that is away (R356). -/
def placeWriteFor (s : State) (ctx : Nat) (p : Place) (bs : List (Option Byte)) : State :=
  if awayHome s ctx p then
    match p.home with
    | .vault c => mapSaved s ctx c (fun k => k.vaultWrite p.addr bs (fullLine p bs) [])
    | .scratch c => mapSaved s ctx c (fun k => k.scratchWrite p.addr bs [])
    | _ => s
  else placeWriteP s p bs []

end Sys2Proof.Machine
end

