-- ==== Sys2Proof/Machine/Request.lean ====
section
/-! DEFINITION. Requests leaving their sources (19_plane R365, R368, R370, R372), and the part's own accesses through a context's
pages (18_page R346-R361). -/

namespace Sys2Proof.Machine

/-! ## Requests (R368, R372) -/

/-- An addend goes through the reduction unit of its plane, unless a phase holds it (R297, R370). -/
def ReqOp.merges (op : ReqOp) (ph : Option (Nat × Nat)) : Bool :=
  match op, ph with
  | .cell .., none => true
  | _, _ => false

/-- The message that a partial goes to its home in. -/
def Partial.req (p : Partial) (id : Nat) (st : ReqSt) (dev : BitVec 20) : Req :=
  { id := id, src := .unit p.plane, ctx := p.ctx, xfer := none, place := p.place, va := 0, op := .part p.fmt p.x p.val p.ids, st := st
    ph := none, lg := 0, via := none, dev := dev, lost := false, after := [], kn := none, parked := false }

/-- A partial leaves its unit for its home. -/
def sendPartial (s : State) (p : Partial) : State :=
  { s with
    partials := s.partials.filter (fun q => !(q.plane == p.plane && q.place == p.place))
    reqs := s.reqs ++ [p.req s.nextId (.plane (some p.plane)) s.devid], nextId := s.nextId + 1 }

/-- A token of a phase (R315). -/
def ReqOp.isToken : ReqOp → Bool
  | .token .. => true
  | _ => false

/-- A request to a line that is no addend closes the line's partials when it enters the plane; a token of a phase, which is for no
line, closes those of its cores (R370). -/
def enterPlane (s : State) (p : Place) (op : ReqOp) (ph : Option (Nat × Nat)) : State :=
  if op.merges ph || op.isToken then s else (s.partials.filter (fun q => sameL q.place p)).foldl sendPartial s

/-- The kernel of a core that sends. -/
def senderKernel (s : State) (src : Src) : Option Nat :=
  match src with
  | .core n => (coreAt s n).kernel
  | _ => none

/-- A request leaves its source, by a translation of a page of 2^lg bytes (0: by none), and follows some others: the reads of the walk
that gave the translation, or partials that it closes (R351, R370). -/
def sendReqAfter (s : State) (src : Src) (ctx : Nat) (xfer : Option Nat) (p : Place) (va : Nat) (op : ReqOp)
    (ph : Option (Nat × Nat)) (lg : Nat) (after : List Nat) : State :=
  let s := enterPlane s p op ph
  let r : Req := {
    id := s.nextId, src := src, ctx := ctx, xfer := xfer, place := p, va := va, op := op, st := sentSt s src ctx p s.nextId, ph := ph
    lg := lg, via := none, dev := s.devid, lost := false, after := after, kn := senderKernel s src, parked := false }
  { s with reqs := s.reqs ++ [r], nextId := s.nextId + 1 }

/-- A request that follows no other. -/
def sendReqBy (s : State) (src : Src) (ctx : Nat) (xfer : Option Nat) (p : Place) (va : Nat) (op : ReqOp)
    (ph : Option (Nat × Nat)) (lg : Nat) : State := sendReqAfter s src ctx xfer p va op ph lg []

/-- A request whose translation no phase keeps. -/
def sendReq (s : State) (src : Src) (ctx : Nat) (xfer : Option Nat) (p : Place) (va : Nat) (op : ReqOp)
    (ph : Option (Nat × Nat)) : State := sendReqBy s src ctx xfer p va op ph 0

/-- A request that has been neither served nor accepted. -/
def Req.waiting (r : Req) : Bool :=
  match r.st with
  | .source => true | .plane _ => true | .merged _ => true
  | _ => false

/-- None of some requests is on its way any more. -/
def allServed (s : State) (ids : List Nat) : Bool := !s.reqs.any (fun r => ids.contains r.id && r.waiting)

/-! ## First cells of windows (R115, R351) -/

/-- The part can write cells at a leaf: not in global registers, not where every access faults, and not on a core of a bay that the
context does not hold. DESIGN CHOICE (the notes' log entry 81): the page of such a leaf counts as one not mapped yet. -/
def cellsReach (s : State) (n : Nat) (p : Page) : Bool :=
  match leafTT p.leaf.toNat with
  | 1 => bayHeld s n (bayOf p.core)
  | 2 => bayHeld s n (bayOf p.core)
  | 6 => false
  | 7 => false
  | _ => true

/-- The cells of one line written with their initial value: at a far device by a request of the part. -/
def initLine (n : Nat) (p : Page) (s : State) (va : Nat) : State :=
  let q := p.place va
  let bs := lineInit (ctxAt s n) va
  if bs.all Option.isNone then s
  else if isFar q then sendReqBy s (.part n) n none q va (.write bs []) none p.lg
  else
    let who : Who := some (n, noCore, va)
    let t := touch s q (fullLine q bs) who
    placeWriteFor (countLine (if fullLine q bs then t else noticed t q who) q true) n q bs

/-- The cells of enabled windows in a 64 KiB stretch of a page. -/
def initChunk (n : Nat) (p : Page) (s : State) (chunk : Nat) : State :=
  (upto 1024).foldl (fun s i => initLine n p s (chunk + 64 * i)) s

/-- The first translation that yields a leaf covering window cells initialises them (R351). -/
def initPage (s : State) (n : Nat) (p : Page) : State :=
  let x := ctxAt s n
  let todo := ((upto (2 ^ (p.lg - 16))).map (fun i => p.va + 65536 * i)).filter (fun c =>
    !x.winInit.contains c &&
      x.windows.any (fun w => w.fmt != 0 && decide (w.base < c + 65536) && decide (c < w.base + 32 * w.size)))
  if todo.isEmpty || !cellsReach s n p then s
  else mapCtx (todo.foldl (initChunk n p) s) n (fun x => { x with winInit := setInsAll todo x.winInit })

/-- A walk of an address that yields a leaf over cells of a window not yet initialised writes them first (R351). -/
def warm (s : State) (n va : Nat) : State :=
  let x := ctxAt s n
  if x.windows.all (fun w => w.fmt == 0) then s
  else match walk s n va with
    | .ok (lg, e, _) => initPage s n ⟨va / 2 ^ lg * 2 ^ lg, lg, BitVec.ofNat 64 e, resolve x (frameCore e)⟩
    | .error _ => s

/-! ## Walks of the part's own (R351) -/

/-- Where the walks of a stretch begin: one for each page, and one for each 64 KiB that none maps. -/
def walkStarts (s : State) (x va n : Nat) : List Nat :=
  ((runs 65536 va n).foldl (fun (acc : List Nat × Nat) r =>
    if r.1 < acc.2 then acc
    else (acc.1 ++ [r.1], match walk s x r.1 with
      | .ok (lg, _, _) => r.1 / 2 ^ lg * 2 ^ lg + 2 ^ lg
      | .error _ => 0)) ([], 0)).1

/-- A walk begins: the read of each of its entries leaves for its home (R351, R365), and a first leaf over window cells initialises
them. DESIGN CHOICE (the notes' log entry 82): the translation is that of the walk's beginning, which R351 lets be used until a PGINV
covers the page; what it is for follows the reads. -/
def sendWalk (src : Src) (x : Nat) (xfer : Option Nat) (acc : State × List Nat) (va : Nat) : State × List Nat :=
  (walkReads acc.1 va walkLevels (ctxAt acc.1 x).root).foldl (fun a e =>
    let t := sendReq a.1 src x xfer (entryPlace e) va .fetch none
    (t, a.2 ++ [t.nextId - 1])) (warm acc.1 x va, acc.2)

/-- The walks of a stretch begin; the numbers of their reads. -/
def sendWalks (src : Src) (x : Nat) (xfer : Option Nat) (va n : Nat) (s : State) : State × List Nat :=
  (walkStarts s x va n).foldl (sendWalk src x xfer) (s, [])

/-! ## Stretches of translated pages -/

/-- A stretch of translated pages accessed by requests that follow some others, one a line: `op` gives the operation on the bytes of
the stretch from an offset on. The numbers of the requests. -/
def sendStretch (src : Src) (ctx : Nat) (xfer : Option Nat) (pages : List Page) (va n : Nat) (op : Nat → Nat → Nat → ReqOp)
    (after : List Nat) (s : State) : State × List Nat :=
  (runs 64 va n).foldl (fun acc r =>
    let p := pageOf pages r.1
    let t := sendReqAfter acc.1 src ctx xfer (p.place r.1) r.1 (op r.1 ((r.1 + 2 ^ 60 - va % 2 ^ 60) % 2 ^ 60) r.2) none p.lg after
    (t, acc.2 ++ [t.nextId - 1])) (s, [])

/-- Such requests write bytes, those at some offsets poisoned. -/
def sendBytes (src : Src) (ctx : Nat) (xfer : Option Nat) (pages : List Page) (va : Nat) (bs : List Byte) (bad after : List Nat)
    (s : State) : State × List Nat :=
  sendStretch src ctx xfer pages va bs.length (fun _ o n =>
    .write (((bs.drop o).take n).map some) (if bad.isEmpty then [] else (upto n).filter (fun i => bad.contains (o + i)))) after s

/-- Such requests read bytes; what they bring is numbered by its offset. -/
def sendReads (src : Src) (ctx : Nat) (xfer : Option Nat) (pages : List Page) (va n : Nat) (after : List Nat) (s : State) :
    State × List Nat :=
  sendStretch src ctx xfer pages va n (fun a o n => .read [⟨a % 64, n, .bytes o, o⟩]) after s

/-- A token is read by a request of its own (R132, R137). -/
def sendPoll (src : Src) (ctx : Nat) (p : Page) (va : Nat) (after : List Nat) (s : State) : State :=
  sendReqAfter s src ctx none (p.place va) va (.read [⟨va % 64, 8, .bytes 0, 0⟩]) none p.lg after

/-- The value that a poll has brought. -/
def Poll.value : Poll → Option Nat
  | .got v => some v
  | _ => .none

/-- A token at a place is to be read: at first; where the read has been lost; and again where the last one was below the threshold.
DESIGN CHOICE (the notes' log entry 73): it is read again once the bytes at its home have come to the threshold, or, where they stand
with a far device, after each read; the spec does not say how often. -/
def Poll.again (s : State) (t : Poll) (p : Place) (least : Nat) : Bool :=
  match t with
  | .idle => true
  | .asked id => !s.reqs.any (fun r => r.id == id && r.waiting)
  | .got v => decide (v < least) && (isFar p || decide (least ≤ leNat (placeRead s p 8)))

/-! ## The part's own accesses through a context's pages -/

/-- The pages of a stretch, rising, each once; those that do not translate are left out. -/
def pagesOver (s : State) (x va n : Nat) (a : Acc) : List Page :=
  (runs 65536 va n).foldl (fun l r =>
    if l.any (fun p => p.va == r.1 / 2 ^ p.lg * 2 ^ p.lg) then l
    else match xlate s x r.1 a with
      | .ok p => p :: l
      | .error _ => l) []

/-- The start of the first run of a stretch's bytes in pages of global registers that is not whole aligned words (R348, R350):
`l` are the stretches by page, `cur` the run that is open. -/
def raggedMmio (s : State) (x : Nat) (a : Acc) : List (Nat × Nat) → Option (Nat × Nat) → Option Nat
  | [], cur => cur.bind (fun c => if c.1 % 8 != 0 || c.2 % 8 != 0 then some c.1 else none)
  | r :: l, cur =>
    let mmio := match xlate s x r.1 a with
      | .ok p => leafTT p.leaf.toNat == 6
      | .error _ => false
    if mmio then raggedMmio s x a l (some ((cur.map Prod.fst).getD r.1, r.1 + r.2))
    else match cur with
      | some c => if c.1 % 8 != 0 || c.2 % 8 != 0 then some c.1 else raggedMmio s x a l none
      | none => raggedMmio s x a l none

/-- The lowest faulting address of a packet's access (R350). -/
def accessFault (s : State) (x va n : Nat) (a : Acc) : Option Nat :=
  let flt := (runs 65536 va n).findSome? (fun r => match xlate s x r.1 a with
    | .error _ => some r.1
    | .ok _ => none)
  match flt, raggedMmio s x a (runs 65536 va n) none with
  | some f, some g => some (min f g)
  | some f, none => some f
  | none, g => g

/-- What reads have brought, in its order. -/
def sortBrought : List Brought → List Brought := fun l =>
  l.foldl (fun acc b => acc.filter (fun a => decide (a.seq ≤ b.seq)) ++ [b] ++ acc.filter (fun a => decide (b.seq < a.seq))) []

/-- The stretch that has been asked for, if it has. -/
def fetchOf (s : State) (own : FetchFor) (x va n : Nat) : Option Fetch :=
  s.fetches.find? (fun f => f.own == own && f.ctx == x && f.va == va % 2 ^ 60 && f.n == n)

/-- The first poisoned byte of what it has brought, by its address. -/
def Fetch.poisoned (f : Fetch) : Option Nat := ((sortBrought f.land).find? Brought.poison).map (fun b => f.va + (match b.dst with
    | .bytes a => a
    | .conv .. => b.seq))

/-- The address at which it failed: that of its fault, or of the first poison that it met (R350, R359). -/
def Fetch.failed (f : Fetch) : Option Nat := f.fault.or f.poisoned

/-- The bytes of a stretch that has been read; none on a translation fault, a part of a register, poison, a retired frame or a
refusal (R350, R355, R399). -/
def fetchBytes (s : State) (own : FetchFor) (x va n : Nat) : Option (List Byte) :=
  match fetchOf s own x va n with
  | none => none
  | some f => if f.failed.isSome then none else some ((sortBrought f.land).flatMap Brought.bytes)

/-- Stretches, by address and length, have all been read. -/
def fetchesIn (s : State) (own : FetchFor) (x : Nat) (l : List (Nat × Nat)) : Bool :=
  l.all (fun r => ((fetchOf s own x r.1 r.2).map (fun f => allServed s f.ids)).getD false)

/-- The reads of a stretch leave: of its pages' entries, then of its lines (R139, R351, R365). -/
def startFetch (own : FetchFor) (x : Nat) (s : State) (r : Nat × Nat) : State :=
  let va := r.1 % 2 ^ 60
  let w := sendWalks (.part x) x none va r.2 s
  match accessFault w.1 x va r.2 .read with
  | some f => { w.1 with fetches := w.1.fetches ++ [⟨own, x, va, r.2, w.2, [], some f⟩] }
  | none =>
    let t := sendReads (.part x) x none (pagesOver w.1 x va r.2 .read) va r.2 w.2 w.1
    { t.1 with fetches := t.1.fetches ++ [⟨own, x, va, r.2, w.2 ++ t.2, [], none⟩] }

/-- Those of the stretches that have not been asked for. -/
def startFetches (own : FetchFor) (x : Nat) (l : List (Nat × Nat)) (s : State) : State :=
  l.foldl (fun s r => if (fetchOf s own x r.1 r.2).isSome then s else startFetch own x s r) s

/-- A walk alone: it reads nothing behind the page's entries, and keeps the fault of an access there. -/
def startWalk (own : FetchFor) (x va : Nat) (a : Acc) (s : State) : State :=
  let w := sendWalks (.part x) x none va 1 s
  { w.1 with fetches := w.1.fetches ++ [⟨own, x, va, 0, w.2, [], match xlate w.1 x va a with
    | .error _ => some va
    | .ok _ => none⟩] }

/-- A stretch that failed would be read now. A far device is asked each time. -/
def wouldRead (s : State) (x va n : Nat) : Bool :=
  (accessFault s x (va % 2 ^ 60) n .read).isNone && (runs 64 va n).all (fun r => match xlate s x r.1 .read with
    | .error _ => false
    | .ok p => !placePoison s (p.place r.1) r.2)

/-- Bytes that the part saves for a context: each line that translates is written by a request (R118, R119). -/
def sendSave (x va : Nat) (bs : List Byte) (s : State) : State :=
  let w := sendWalks (.part x) x none va bs.length s
  ((runs 64 va bs.length).foldl (fun (acc : State × List Byte) r =>
    (match xlate acc.1 x r.1 .write with
      | .error _ => acc.1
      | .ok p => sendReqAfter acc.1 (.part x) x none (p.place r.1) r.1 (.write ((acc.2.take r.2).map some) []) none p.lg w.2,
     acc.2.drop r.2)) (w.1, bs)).1

/-- A write of the part's own for a context is on its way. -/
def partWriting (s : State) (x : Nat) : Bool := s.reqs.any (fun r => r.src == .part x && r.waiting && !r.op.isLoad)

/-- No plane is UP, and none will be before the next reset (R373). -/
def noPlane (s : State) : Bool := !s.rehash && (upto 8).all (fun n => planeSt s n != .up)

/-- Bytes that the part writes of itself at a place within one line: at once at a home of the part or of the host, as a request to
a far device, to the global registers or to the saved state of a pre-empted core; a retired frame refuses them, and a record says
so (R355, R356). -/
def ownWrite (s : State) (x : Nat) (p : Place) (va lg : Nat) (bs : List (Option Byte)) : State :=
  if isFar p || p.home == .mmio || awayHome s x p then sendReqBy s (.part x) x none p va (.write bs []) none lg
  else if isRetired s p then postError s x 0x0101 0 noCore (BitVec.ofNat 64 va) 0
  else
    let who : Who := some (x, noCore, va)
    let t := touch s p (fullLine p bs) who
    placeWrite (countLine (if fullLine p bs then t else noticed t p who) p true) p bs false

end Sys2Proof.Machine
end

