-- ==== Sys2Proof/Machine/Issue.lean ====
section
/-! DEFINITION. How a bundle comes to issue: what each of its slots brings, the checks and stalls of R70-R72 and
R95-R97, the order of causes of R384, and what the issue of a bundle does to the core's clock, LPC and BPC. -/

namespace Sys2Proof.Machine

/-- What surrounds a slot: the phase state that it meets (R312-R315), the address after its bundle, its own word. -/
structure Env where
  ph : PhState
  nxt : Nat
  word : Nat
  deriving DecidableEq, Repr

/-- A fault decided with the second check (R97): its rank in R384, its cause and details, and what it leaves changed.
`cancel` marks poison consumed in a phase, which cancels the phase instead (R199, R228). -/
structure Late where
  key : Nat
  cancel : Bool
  cause : Nat
  deta : W64
  detb : W64
  fix : State → State

/-- What follows the issue of a bundle. -/
inductive After where
  | go
  /-- TRAP (R388). -/
  | trap (imm : Nat)
  /-- TRET (R389). -/
  | tret
  /-- END (R148). -/
  | endp
  /-- PHOPEN: the snapshot, with the base of its accumulator area and the accumulators it names (R313). -/
  | snap (area : Nat) (accs : List Nat)
  deriving DecidableEq, Repr

/-- What one slot brings to its bundle. -/
structure Sem where
  /-- A condition of ILLOP reason 5 (R95). -/
  illop : Bool := false
  /-- LINKERR with reason 1-3: port and reason (R411). -/
  linkerr : Option (Nat × Nat) := none
  /-- The vector unit it uses and for how long (R65). -/
  unit : Option (VUnit × Nat) := none
  /-- Scoreboard objects (R69), and whether its issue marks them. -/
  reads : List Obj := []
  writes : List Obj := []
  mark : Bool := true
  /-- A further stall condition holds (R70). -/
  stall : Bool := false
  /-- What it needs of a transmit skid (R413). -/
  skid : Option SkidWait := none
  /-- The rendezvous it waits at (R155). -/
  rdv : Option Rdv := none
  /-- Addresses whose pages are walked before it issues (R349). -/
  walks : List Nat := []
  /-- It would send a request on a plane (R375). -/
  sends : Bool := false
  /-- It is a PFENCE (R369). -/
  fence : Bool := false
  /-- The address of the token that a QWAIT reads, and its threshold (R137). -/
  poll : Option (Nat × Nat) := none
  /-- It waits until the results of its trap level have landed (R389). -/
  drain : Bool := false
  late : List Late := []
  eff : State → State := id
  redirect : Option Nat := none
  adv : Nat := 1
  /-- The barrier and token of a BWAIT (R337). -/
  bwait : Option (Nat × Nat) := none
  lpc : Option (BitVec 12) := none
  isM : Bool := false
  /-- It enters the running log of its phase (R318). -/
  logs : Bool := false
  after : After := .go

/-- A present slot of a bundle. -/
structure Item where
  slot : Slot
  word : Nat
  res : Except Nat Sem

/-- What an item does. DESIGN CHOICE (the notes' log entry 68): one that fails decode (reasons 1 to 4) brings nothing, so that it makes
no other slot offend with reason 7, as a TRET or as a scoreboard clash; the spec does not say which slot is recorded then. -/
def Item.sem (it : Item) : Sem :=
  match it.res with
  | .ok m => m
  | .error _ => {}

/-- Two slots of one bundle that meet on a scoreboard object (R71). -/
def clash (a b : Sem) : Bool :=
  a.writes.any (fun o => b.writes.contains o || b.reads.contains o) || b.writes.any (fun o => a.reads.contains o)

/-- The running log has no room for a load beside those of the bundle's lower header bits (R96, R318). -/
def logFull (c : Core) (items : List Item) (it : Item) : Bool :=
  decide (512 ≤ c.runLog.length + (items.filter (fun o => o.sem.logs && decide (o.slot.bit < it.slot.bit))).length)

/-- The lowest ILLOP reason that applies to a slot (R95, R96). DESIGN CHOICE (the notes' log entry 68): of two slots of which one
writes an object that the other reads or writes (R71), both offend with reason 7. -/
def reasonOf (c : Core) (items : List Item) (it : Item) : Option Nat :=
  match it.res with
  | .error r => some r
  | .ok m =>
    if m.illop || (m.logs && logFull c items it) then some 5
    else if (m.unit.map (fun u => c.busy u.1)).getD false then some 6
    else if items.any (fun o => o.slot != it.slot && clash m o.sem) then some 7
    else if decide (1 < items.length) && items.any (fun o => o.sem.after == .tret) then some 7
    else none

/-- The recorded offence: the slot of the lowest header bit with its lowest reason (R96). -/
def firstIllop (c : Core) (items : List Item) : List Item → Option (Nat × Item)
  | [] => none
  | it :: r => match reasonOf c items it with
    | some n => some (n, it)
    | none => firstIllop c items r

/-- The global-issue gate of every core is closed (R14, R375). -/
def gateClosed (s : State) : Bool := s.pgate || s.rehash

/-- The stall conditions of a bundle (R70). -/
def objsHeld (c : Core) (items : List Item) : Bool :=
  items.any (fun (it : Item) => it.sem.reads.any c.waitRead || it.sem.writes.any c.waitWrite)

def mustWalk (c : Core) (items : List Item) : Bool :=
  items.any (fun it => !it.sem.walks.isEmpty) && !(c.stall.map Stall.walked).getD false

def gateHeld (s : State) (items : List Item) : Bool := gateClosed s && items.any (fun (it : Item) => it.sem.sends)

/-- A PFENCE that is stalled when a rehash begins stays so until its end (R375, step 2). -/
def fenceHeld (s : State) (items : List Item) : Bool :=
  s.rehash && ((me s).stall.map Stall.fence).getD false && items.any (fun (it : Item) => it.sem.fence)

def stalled (s : State) (items : List Item) : Bool :=
  let c := me s
  objsHeld c items || items.any (fun (it : Item) => it.sem.stall || it.sem.drain) || mustWalk c items || gateHeld s items ||
    fenceHeld s items

/-- A bundle that is not stalled yet. -/
def freshStall : Stall :=
  { walked := false, walks := [], reads := [], poll := .idle, clk := 0, waits := [], rdv := none, go := false, got := false, lccNext := none
    bwait := none, early := false, staged := false, done := false, gate := false, skid := none, fence := false }

/-- The record of a stalled bundle. -/
def stallRecord (s : State) (items : List Item) : Stall :=
  let c := me s
  { c.stall.getD freshStall with
    walks := (items.map (fun it => it.sem.walks)).flatten
    waits := (items.map (fun it => it.sem.reads.filter c.waitRead ++ it.sem.writes.filter c.waitWrite)).flatten
    rdv := (items.filterMap (fun (it : Item) => it.sem.rdv)).head?
    bwait := (items.filterMap (fun (it : Item) => it.sem.bwait)).head?
    gate := items.any (fun (it : Item) => it.sem.sends)
    skid := (items.filterMap (fun (it : Item) => it.sem.skid)).head?
    fence := items.any (fun (it : Item) => it.sem.fence) }

/-- The cause taken among those of the second check: the one of the lowest rank (R384). -/
def firstLate : List Late → Option Late
  | [] => none
  | l :: r => match firstLate r with
    | some m => if m.key < l.key then some m else some l
    | none => some l

/-- Ranks of R384. -/
def rank (group sub : Nat) : Nat := group * 2 ^ 80 + sub

/-- ILLOP with a reason at a slot: the lowest slot goes first, and of one slot the lowest reason (R96, R384). -/
def illopAt (sl : Slot) (word reason : Nat) : Late :=
  ⟨rank 2 (16 * sl.bit + reason), false, 1, BitVec.ofNat 64 (reason + 16 * sl.bit), BitVec.ofNat 64 word, id⟩
/-- ILLOP that only the second check finds (R97). -/
def lateIllop (sl : Slot) (word : Nat) : Late := illopAt sl word 5
/-- LINKERR with reason 1, 2 or 3 (R384, R411). -/
def linkAtCheck (sl : Slot) (port reason : Nat) : Late :=
  ⟨rank 3 sl.bit, false, 0x0A, BitVec.ofNat 64 port, BitVec.ofNat 64 reason, id⟩
/-- XLATE at the lowest faulting address (R350). -/
def lateXlate (va reason : Nat) : Late :=
  ⟨rank 6 (va * 16 + reason), false, 3, BitVec.ofNat 64 va, BitVec.ofNat 64 reason, id⟩
/-- A precise machine check, or poison consumed in a phase (R383, R325). -/
def latePoison (inside : Bool) (source addr : Nat) (sl : Slot) : Late :=
  ⟨rank 4 sl.bit, inside, 7, BitVec.ofNat 64 source, BitVec.ofNat 64 addr, id⟩

/-- Logical cycles of the current level pass: LCC and the check count at TL0, the handler clock and BUDG above
(R61, R146, R381, R390). -/
def Core.tick (c : Core) (n : Nat) : Core :=
  let c := c.elapse n
  match c.tl with
  | 0 => { c with lcc := c.lcc + BitVec.ofNat 64 n, kcount := c.kcount + n }
  | 1 => { c with hc1 := c.hc1 + n, budg := c.budg + n }
  | _ => { c with hc2 := c.hc2 + n, budg := c.budg + n }

/-- The scoreboard marks of an instruction that issues (R69). -/
def marks (reads writes : List Obj) (s : State) : State :=
  if reads.isEmpty && writes.isEmpty then s else mapMe s (fun c => c.sbMark reads writes)

/-- The effects of the slots, in header order, each with its scoreboard marks. -/
def effects (items : List Item) (s : State) : State :=
  items.foldl (fun t it =>
    let m := it.sem
    m.eff (if m.mark then marks m.reads m.writes t else t)) s

/-- A bundle issues inside the phase of its group: those of PHOPEN and PHPUB do not (R312, R314, R315). -/
def bundleInside (s : State) (c : Core) (items : List Item) : Bool :=
  (phaseOf s c).inside && !items.any (fun (it : Item) => it.sem.rdv == some .phopen || it.sem.rdv == some .phpub)

/-- The check count has run out: an injected check is due in a bundle without an M slot at TL0 (R146), inside a phase
or not. -/
def checkDue (s : State) (c : Core) (items : List Item) : Option Bool :=
  let d := (kernelOf s c).lr.kdens
  if d != 0 && c.tl == 0 && decide (2 ^ (d + 6) ≤ c.kcount) && !items.any (fun (it : Item) => it.sem.isM) then
    some (bundleInside s c items) else none

/-- Time passes over the bundle: to the next cycle, or to the one that a rendezvous has set (R158, R164, R165). -/
def Core.pass (c : Core) (adv : Nat) : Core :=
  match c.stall.bind Stall.lccNext with
  | some v =>
    let c := c.elapse adv
    { c with kcount := c.kcount + (v - c.lcc).toNat, lcc := v }
  | none => c.tick adv

/-- What the issue does to the core besides the slots' own effects: units, LPC, BPC, clocks (R59, R61, R65, R87, R88). -/
def Core.advance (c : Core) (items : List Item) (nxt : Nat) (due : Option Bool) : Core :=
  let adv := items.foldl (fun n (it : Item) => max n it.sem.adv) 1
  let isM := items.any (fun (it : Item) => it.sem.isM)
  let c := { c with
    units := c.units ++ items.filterMap (fun (it : Item) => it.sem.unit)
    lpc := ((items.filterMap (fun (it : Item) => it.sem.lpc)).head?).getD (if isM then c.lpc + 1 else c.lpc)
    bpc := ((items.filterMap (fun (it : Item) => it.sem.redirect)).head?).getD nxt
    inject := c.inject ++ due.toList
    kcount := if due.isSome then 0 else c.kcount }
  { c.pass adv with stall := none }

/-- The 26 bytes of an accumulator element (R43). -/
def accBytes (a : AccEl) : List Byte := leBytes 26 a.toNat

/-- The phase snapshot, taken when the PHOPEN bundle has issued: results bound for x and p, with what remains of their
latency; LPC and BPC after the bundle; the named accumulators written to their area; the running log becomes the input
log; no result in flight belongs to the phase (R313, R318, R320). A saved element whose words hold an error is saved poisoned. -/
def Core.openSnap (c : Core) (area : Nat) (accs : List Nat) : Core :=
  let keep (f : Flight) : Bool := match f.dst with | .x .. => true | .p .. => true | _ => false
  let c := { c with
    snap := some ⟨c.x, c.p, c.pipe.filter keep, c.bpc, c.lpc, c.lcc - 1, accs, area, c.units⟩
    inLog := c.runLog, runLog := [], pipe := c.pipe.map (fun f => { f with ph := false }) }
  (accs.zip (upto accs.length)).foldl (fun c p =>
    let base := area + 26624 * p.2
    let c := c.spWrite base (((upto 1024).map (fun i => (accBytes (c.accEl p.1 i)).map some)).flatten) false
    (upto 1024).foldl (fun c i => if c.accPoison.contains (1024 * p.1 + i) then c.spoil (base + 26 * i) 26 else c) c) c

/-- A bundle issues; `todo` are the slots whose effects have not come about yet. DESIGN CHOICE (the notes' log entry 88): after the last
bundle of a full bundle store the next address is 0x2_0000, which TEPC then holds, although its register has bits [16:0]; the spec gives
no value for it. -/
def commit (items todo : List Item) (nxt : Nat) (s : State) : State :=
  let due := checkDue s (me s) items
  let s := effects todo s
  let s := mapMe s (fun c => c.advance items nxt due)
  -- a budget that has run out kills at the level that the bundle issued at (R390, R392)
  if (me s).tl != 0 && decide (65536 < (me s).budg) then s else
  items.foldl (fun t it =>
    match it.sem.after with
    | .go => t
    | .trap imm => trapOn t t.cur 9 (BitVec.ofNat 64 imm) 0 (me t).bpc (me t).lpc true
    | .tret => comeBack (mapMe t Core.leave)
    | .endp => mapMe t (fun c => { c with life := .ended })
    | .snap area accs => mapMe t (fun c => c.openSnap area accs)) s

/-- The slots of a bundle that still have to issue: those besides WNEXT issue before its rendezvous (R165). -/
def todoOf (c : Core) (items : List Item) : List Item :=
  if (c.stall.map Stall.early).getD false then items.filter (fun it => it.sem.rdv == some .wnext) else items

/-- What the first check looks at, and the second once more: ILLOP, then LINKERR with reason 1 to 3 (R97). -/
def checks (c : Core) (items : List Item) : List Late :=
  ((firstIllop c items items).map (fun p => illopAt p.2.slot p.2.word p.1)).toList ++
    items.filterMap (fun it => it.sem.linkerr.map (fun e => linkAtCheck it.slot e.1 e.2))

/-- The cause that the second check takes, if any: of both checks' conditions and of the faults decided with the second
alone, the first in R384's order. -/
def takenCause (c : Core) (items : List Item) : Option Late :=
  firstLate (checks c items ++ (items.map (fun it => it.sem.late)).flatten)

/-- The traps of the second check, or else what the issue does (R97, R384). -/
def secondCheck (items : List Item) (s : State) (issue : State → State) : State :=
  match takenCause (me s) items with
  | some l =>
    if l.cancel then cancelOf (mapMe s (fun c => { c with stall := none })) s.cur
    else fault (l.fix s) l.cause l.deta l.detb
  | none => issue s

/-- The token of a stalled QWAIT, when it is to be read: once its address has been walked, and not on a plane while the gate is closed
(R375). -/
def pollDue (s : State) (todo : List Item) : Option (Nat × Page) :=
  let c := me s
  match (todo.filterMap (fun (it : Item) => it.sem.poll)).head?, c.stall with
  | some (va, least), some t =>
    match xlate s (ctxNo s c) va .read with
    | .error _ => none
    | .ok p =>
      if t.walked && t.poll.again s (p.place va) least && !(gateClosed s && (routeOf s (.core s.cur) (p.place va)).isSome) then
        some (va, p) else none
  | _, _ => none

/-- The read leaves for the token's home. -/
def askPoll (todo : List Item) (s : State) : State :=
  match pollDue s todo with
  | some (va, p) =>
    let s := sendPoll (.core s.cur) (ctxNo s (me s)) p va [] s
    mapMe s (fun c => { c with stall := c.stall.map (fun t => { t with poll := .asked (s.nextId - 1) }) })
  | none => s

/-- A bundle waits: its record is made; a TRET lets the cycles of its level pass; a QWAIT reads its token; the other slots of a
WNEXT bundle issue before the rendezvous (R70, R137, R165, R389). -/
def wait (todo : List Item) (s : State) : State :=
  let s := if todo.any (fun it => it.sem.drain) then mapMe s (fun c => c.tick 1) else s
  let s := askPoll todo (mapMe s (fun c => { c with stall := some (stallRecord s todo) }))
  let others := todo.filter (fun it => it.sem.rdv != some .wnext)
  if others.length < todo.length && !stalled s others then
    secondCheck others s (fun s =>
      mapMe (effects others s) (fun c => { c with stall := c.stall.map (fun t => { t with early := true }) }))
  else s

/-- The items of a bundle with their rendezvous taken as reached: what else holds the bundle. -/
def pastRdv (items : List Item) : List Item :=
  items.map (fun it => if it.sem.rdv.isSome then { it with res := it.res.map (fun m => { m with stall := false }) } else it)

/-- A bundle that nothing but its group's rendezvous holds: it is ready once the others come (R155). WNEXT has its own way
(R165). -/
def rdvOnly (s : State) (todo : List Item) : Bool :=
  todo.any (fun it => it.sem.rdv.isSome && it.sem.rdv != some .wnext && it.sem.rdv != some .phpub) && !stalled s (pastRdv todo)

/-- A stalled bundle that would wait on without any change if it came to issue again. A waiting TRET lets its level's clock
run (R389). -/
def waitsOn (todo : List Item) (s : State) : Bool :=
  let c := me s
  let others := todo.filter (fun it => it.sem.rdv != some .wnext)
  stalled s todo && !todo.any (fun it => it.sem.drain) && decide (c.stall = some (stallRecord s todo)) &&
    (pollDue s todo).isNone &&
    ((c.stall.map Stall.early).getD false || decide (others.length = todo.length) || stalled s others)

/-- What the first check finds: it is made when the bundle first comes to issue, not again while it is stalled (R97). -/
def firstCheck (c : Core) (todo : List Item) : Option Late := if c.stall.isNone then firstLate (checks c todo) else none

/-- A bundle comes to issue, for the first time or again: it traps, stalls, or issues (R70, R97, R384). Where nothing stalls it both
checks are made at once. DEDUCED (the notes' log entry 15): a rendezvous instruction stalls its bundle also where its group has met with
it, and WNEXT the slots beside it, so that the first check of such a bundle takes its causes alone. -/
def attempt (items : List Item) (nxt : Nat) (s : State) : State :=
  let c := me s
  let todo := todoOf c items
  if stalled s todo then
    match firstCheck c todo with
    | some l => fault s l.cause l.deta l.detb
    | none => wait todo s
  else secondCheck todo s (commit items todo nxt)

/-- The bundle comes from a poisoned line of the bundle store: a precise machine check of source 5, which ILLOP and LINKERR with
reason 1 to 3 precede (R151, R383, R384). DESIGN CHOICE (the notes' log entry 26): R384 gives sources 1, 2 and 5 no order, and 5 goes
first. -/
def attemptPoisoned (items : List Item) (line : Nat) (s : State) : State :=
  let c := me s
  let todo := todoOf c items
  let found := checks c todo ++ (if stalled s todo then [] else (todo.map (fun it => it.sem.late)).flatten)
  match firstLate (⟨rank 4 0, false, 7, 5, BitVec.ofNat 64 (64 * line), id⟩ :: found) with
  | some l => fault (l.fix s) l.cause l.deta l.detb
  | none => s

/-- The transition of a bundle that holds one instruction (the meaning of a slot instruction given to `exec`). -/
def issueAlone (i : Instr) (sem : Env → State → Sem) (s : State) : Host.Outcome State Fault Refusal :=
  let c := me s
  if c.life != .running then .fault .notRunning
  else
    let sl := i.slot?.getD .x
    let e : Env := ⟨phaseOf s c, c.bpc + 1 + sl.bytes, encode i⟩
    .next (attempt [⟨sl, e.word, .ok (sem e s)⟩] e.nxt s)

end Sys2Proof.Machine
end

