-- ==== Sys2Proof/Machine/Operands.lean ====
section
/-! DEFINITION. The operand forms: scalar operands at 64 and 32 bits, branch targets, scratchpad addresses, vector
lanes, tile windows, elements of bank rows, shapes and tensor handles (09_scalar R183, R196, R197; 10_vector R206, R225;
12_tile R245-R251; 14_tensor R282-R284). -/

namespace Sys2Proof.Machine

/-! ## Scalar operands (R182, R183) -/

/-- A signed operand: the whole register, or its low word under `.w`. -/
def opI (w : Bool) (v : W64) : Int := if w then sextI v.toNat 32 else v.toInt
/-- An unsigned operand. -/
def opN (w : Bool) (v : W64) : Nat := if w then v.toNat % 2 ^ 32 else v.toNat
/-- Width of a form. -/
def opBits (w : Bool) : Nat := if w then 32 else 64
/-- A shift amount (R182). -/
def shAmt (w : Bool) (v : W64) : Nat := if w then v.toNat % 32 else v.toNat % 64
/-- A 64-bit word from an integer. -/
def w64 (v : Int) : W64 := BitVec.ofInt 64 v
def n64 (v : Nat) : W64 := BitVec.ofNat 64 v
/-- The result of a form: wrapped or saturated at its width, a 32-bit one sign-extended (R183). -/
def result (w s : Bool) (v : Int) : W64 :=
  if w then w64 (narrow s true 32 v).toInt else narrow s true 64 v

/-! ## Branch targets (R196) -/

/-- A branch target and whether it lies outside the bundle store. -/
def target (bpc : Nat) (disp : BitVec 21) : Int := (bpc : Int) + disp.toInt
def outside (t : Int) : Bool := decide (t < 0) || decide (0x20000 ≤ t)

/-! ## Scratchpad addresses (R197, R225) -/

/-- Effective address of a scalar access. -/
def effAddr (base : W64) (off : BitVec 14) (bytes : Nat) : Nat := (base + w64 (off.toInt * bytes)).toNat

/-- An effective address outside the scratchpad, or misaligned. -/
def badAddr (ea bytes : Nat) : Bool := decide (0x100000 ≤ ea) || ea % bytes != 0

/-- The sixteen row addresses of a vector access. -/
def vecRows (base : W64) (off : BitVec 16) (stride : Nat) : List Nat :=
  (upto 16).map (fun r => (base.toNat + ((off.toInt * 64) % 2 ^ 64).toNat + r * stride) % 2 ^ 64)

def badRow (a : Nat) : Bool := a % 64 != 0 || decide (0xFFFFF < a + 255)

/-! ## Vector lanes (R206) -/

/-- A result for every lane of width `w`, from the lanes of up to three operands. -/
def map1 (w : Nat) (f : BitVec w → BitVec w) (a : VReg) : VReg := ofLanes w (fun j => f (lane w j a))
def map2 (w : Nat) (f : BitVec w → BitVec w → BitVec w) (a b : VReg) : VReg :=
  ofLanes w (fun j => f (lane w j a) (lane w j b))

/-- The integer a lane holds, by the signedness of its type (R210). -/
def laneI (t : VTy) (w : Nat) (v : BitVec w) : Int := readI t.signed v

/-! ## Tile windows (R246, R247) -/

/-- A tile's window. -/
structure Win where
  bank : Nat
  off : Nat
  rows : Nat
  len : Nat
  pitch : Nat
  spread : Nat
  deriving DecidableEq, Repr

/-- The window a tile register describes. -/
def winOf (t : BitVec 40) : Win :=
  let v := t.toNat
  ⟨fld v 3 0, 64 * fld v 13 4, fld v 21 14 + 1, 64 * (fld v 27 22 + 1), 64 * fld v 36 28, fld v 39 37⟩

def Core.win (c : Core) (n : Nat) : Win := winOf (c.tileAt n)

/-- Bank, offset within the bank, and address of row `j`. -/
def Win.rowBank (t : Win) (j : Nat) : Nat := (t.bank + j % 2 ^ t.spread) % 16
def Win.rowOff (t : Win) (j : Nat) : Nat := t.off + t.pitch * (j / 2 ^ t.spread)
def Win.row (t : Win) (j : Nat) : Nat := 0x10000 * t.rowBank j + t.rowOff j

/-- The bytes of the whole window. -/
def Win.bytes (t : Win) : Nat := t.rows * t.len

/-- Bank format of a tile (that of row 0; all its banks agree, or the tile is refused). -/
def Core.fmtOf (c : Core) (t : Win) : BFmt := (bfmtOf (c.bfAt t.bank).toNat).getD .raw

/-- A tile that every engine instruction refuses (R247). -/
def Core.badTile (c : Core) (t : Win) : Bool :=
  decide (5 ≤ t.spread) ||
    (upto t.rows).any (fun j => decide (0x10000 < t.rowOff j + t.len) || c.bfAt (t.rowBank j) != c.bfAt t.bank)

/-- Banks of a tile's first `n` rows. -/
def Win.banks (t : Win) (n : Nat) : List Nat := setInsAll ((upto n).map t.rowBank) []

/-- Element capacity of a row (R247). -/
def rowCap (f : BFmt) (len : Nat) : Nat :=
  match f with
  | .raw => len | .pni => len | .b1 => 8 * len
  | _ => len / f.bytes

/-- The rows of a window as bytes at this moment. -/
def Core.rowBytes (c : Core) (t : Win) (j n : Nat) : List Byte := c.sp.readN (t.row j) n

/-! ## Elements of bank rows (R38, R243, R245) -/

/-- Bit `k` of a run of bytes, lowest bit first. -/
def bitAt (bs : List Byte) (k : Nat) : Bool := (bs.getD (k / 8) 0).getLsbD (k % 8)

/-- Element `e` of a row of `cap` elements in a format: its bits (R38, R243). -/
def elAt (f : BFmt) (cap : Nat) (bs : List Byte) (e : Nat) : Nat :=
  match f with
  | .pni => sumN 8 (fun j => b2n (bitAt bs (cap * j + e)) * 2 ^ (7 - j))
  | .b1 => b2n (bitAt bs e)
  | _ => leNat ((bs.drop (f.bytes * e)).take f.bytes)

/-- The value of a bit of a run of bytes replaced. -/
def setBit (bs : List Byte) (k : Nat) (v : Bool) : List Byte :=
  setNth (k / 8) (fun b => if v then b ||| BitVec.ofNat 8 (2 ^ (k % 8)) else b &&& ~~~(BitVec.ofNat 8 (2 ^ (k % 8)))) bs

/-- Bytes replaced from an offset on. -/
def putBytes (bs : List Byte) (o : Nat) (v : List Byte) : List Byte := bs.take o ++ v ++ bs.drop (o + v.length)

/-- A row with element `e` replaced. -/
def putEl (f : BFmt) (cap : Nat) (bs : List Byte) (e v : Nat) : List Byte :=
  match f with
  | .pni => (upto 8).foldl (fun bs j => setBit bs (cap * j + e) (bit1 v (7 - j))) bs
  | .b1 => setBit bs e (bit1 v 0)
  | _ => putBytes bs (f.bytes * e) (leBytes f.bytes v)

/-- What a stored element holds: a float or an integer (R245). -/
inductive ElVal where
  | flt (v : FVal)
  | int (v : Int)
  deriving DecidableEq, Repr

def elVal (f : BFmt) (v : Nat) : ElVal :=
  match f with
  | .i8 => .int (sextI v 8) | .pni => .int (sextI v 8)
  | .n8 => .int v
  | .i16 => .int (sextI v 16) | .i32 => .int (sextI v 32)
  | .b1 => .int (2 * (v : Int) - 1)
  | _ => .flt (FVal.ofBits (f.float?.getD .f32) v)

/-- Conversion of one element from a format to another (R245). -/
def convEl (src dst : BFmt) (v : Nat) : Nat :=
  if src = dst || src == .raw || dst == .raw then v
  else
    let toInt (sg : Bool) (n : Nat) : Nat := match elVal src v with
      | .flt x => (BitVec.ofInt n (x.toIntSat .rne sg n)).toNat
      | .int i => (BitVec.ofInt n (sat sg n i)).toNat
    match dst with
    | .i8 => toInt true 8 | .pni => toInt true 8
    | .n8 => toInt false 8
    | .i16 => toInt true 16 | .i32 => toInt true 32
    | .b1 => match elVal src v with
      | .flt x => b2n (!x.isNan && !x.isNeg)
      | .int i => b2n (decide (0 ≤ i))
    | _ =>
      let f := dst.float?.getD .f32
      match elVal src v with
      | .flt x => x.toBits f .rne
      | .int i => roundInt f .rne i 0

/-- Rows of bytes as a landing that writes only some of them: `none` leaves a byte. -/
def keepAll (n : Nat) : List (Option Byte) := List.replicate n none

/-- A whole-row landing. -/
def allBytes (bs : List Byte) : List (Option Byte) := bs.map some

/-! ## Tensor handles (R282) -/

/-- The fields of a handle. -/
structure Handle where
  base : Nat
  rank : Nat
  fmt : Nat
  flags : Nat
  res0 : Nat
  ext : List Nat
  str : List Int
  pad : Nat
  res1 : Nat
  deriving DecidableEq, Repr

def handleOf (h : HandleBits) : Handle :=
  let v := h.toNat
  let at_ (o n : Nat) : Nat := v / 2 ^ (8 * o) % 2 ^ (8 * n)
  { base := at_ 0 8, rank := at_ 8 1, fmt := at_ 9 1, flags := at_ 10 1, res0 := at_ 11 5
    ext := (upto 4).map (fun d => at_ (0x10 + 8 * d) 8)
    str := (upto 4).map (fun d => sextI (at_ (0x30 + 8 * d) 8) 64)
    pad := at_ 0x50 8, res1 := at_ 0x58 40 }

def Handle.bfmt (h : Handle) : BFmt := (bfmtOf h.fmt).getD .raw
/-- Element size. -/
def Handle.esize (h : Handle) : Nat := h.bfmt.bytes
def Handle.extAt (h : Handle) (d : Nat) : Nat := h.ext.getD d 0
def Handle.strAt (h : Handle) (d : Nat) : Int := h.str.getD d 0

/-- A handle that breaks a limit (R282). -/
def Handle.bad (h : Handle) : Bool :=
  let e := h.esize
  decide (2 ^ 60 ≤ h.base) || h.base % e != 0 || h.rank == 0 || decide (4 < h.rank) || decide (8 < h.fmt) ||
    h.flags != 1 || h.res0 != 0 || h.res1 != 0 || decide (256 ^ e ≤ h.pad) ||
    (upto 4).any (fun d => if d < h.rank then h.extAt d == 0 || h.strAt d % e != 0
      else h.extAt d != 0 || h.strAt d != 0)

/-- The address of an in-bounds element, or none (R284). -/
def Handle.addr (h : Handle) (n : List Int) : Option Nat :=
  if (upto h.rank).all (fun d => decide (0 ≤ n.getD d 0) && decide (n.getD d 0 < h.extAt d)) then
    some (((h.base : Int) + sumI h.rank (fun d => n.getD d 0 * h.strAt d)) % 2 ^ 60).toNat
  else none

end Sys2Proof.Machine
end

