-- ==== Sys2Proof/Machine/Csr.lean ====
section
/-! DEFINITION. The control and status registers that CSRR and CSRW reach (09_scalar R202, R203; 05_context R122;
08_group R153, R157; 12_tile R249; 14_tensor R301; 16_phase R310; 18_page R363; 19_plane R379; 20_trap R386;
22_link R394, R413). A number without a register reads `none`. -/

namespace Sys2Proof.Machine

/-- LCC as a program reads it (R157). -/
def lccRead (s : State) (c : Core) : W64 := if (kernelOf s c).lr.nest then c.lcc - c.ld else c.lcc

/-- CSR 0x044 (R153). -/
def groupCsr (s : State) (c : Core) : Nat := c.group % 1024 * 2 ^ 16 + (kernelOf s c).lr.gsize % 16 * 16 + c.cidx % 16

/-- CSR 0x045 (R310). -/
def phaseCsr (g : Group) : Nat :=
  g.canc % 4 * 2 ^ 32 + g.ncommit.toNat * 2 ^ 16 + g.ncommit.toNat % 2 * 4 +
    (match g.ph with | .closed => 0 | .open_ => 1 | .sealed => 2 | .prepare => 3)

/-- Planes UP, as a mask (R378, R379). -/
def livePlanes (s : State) : Nat := planesIn s .up

/-- Tags that a core's transfers and overlay copies hold (R286, R301). -/
def Core.tags (c : Core) : List Nat :=
  setInsAll (c.xfers.filterMap (fun x => x.tag)) (setInsAll (c.ovls.map (fun o => o.tag)) [])

/-- The trap bank registers (R386). -/
def bankCsr (b : TrapBank) : Nat → Option Nat
  | 0 => some (b2n b.re * 1024 + b.from_ % 4 * 256 + b.cause % 256)
  | 1 => some b.epc
  | 2 => some b.lpc.toNat
  | 3 => some b.deta.toNat
  | 4 => some b.detb.toNat
  | 5 => some b.x30.toNat
  | 6 => some b.x31.toNat
  | 7 => some (b.pred.toNat / 2 * 2 + 1)
  | _ => none

/-- The value of a CSR; `bpc` is the address of the bundle that reads it. -/
def csrRead (s : State) (n : Nat) : Option Nat :=
  let c := me s
  let k := kernelOf s c
  let x := ctxAt s k.ctx
  if 0x100 ≤ n && n < 0x110 then some (tabGet 0 c.shLive (n - 0x100)).toNat
  else if 0x110 ≤ n && n < 0x120 then some (tabGet 0 c.shShadow (n - 0x110)).toNat
  else if 0x064 ≤ n && n < 0x06C then bankCsr c.bank1 (n - 0x064)
  else if 0x06C ≤ n && n < 0x074 then bankCsr c.bank2 (n - 0x06C)
  else if 0x082 ≤ n && n < 0x085 then some (phm (n - 0x082))
  else match n with
    | 0x000 => some (lccRead s c).toNat
    | 0x001 => some c.bpc
    | 0x002 => some c.lpc.toNat
    | 0x003 => some s.cur
    | 0x040 => some k.ctx
    | 0x041 => some (x.level * 4 + k.level)
    | 0x042 => some x.grant.toNat
    | 0x043 => some (bitSet k.bays)
    | 0x044 => some (groupCsr s c)
    | 0x045 => some (phaseCsr (groupOf s c))
    | 0x060 => some c.tl
    | 0x061 => some c.thvec
    | 0x062 => some c.tsave
    | 0x063 => some c.budg
    | 0x080 => some s.pmap.toNat
    | 0x081 => some (s.rehashes.toNat * 2 ^ 48 + livePlanes s)
    | 0x085 => some (c.replays.toNat * 2 ^ 32 + c.gateclk.toNat)
    | 0x0A0 => some c.lusel.toNat
    | 0x0A1 =>
      let v := c.lusel.toNat
      some (tabGet 0 s.lucnt (128 * (v % 16) + 2 * (v / 16 % 64) + v / 1024)).toNat
    | 0x0A2 => some (c.uecnt.toNat * 2 ^ 32 + c.seccnt.toNat)
    | 0x0A3 => some c.tags.length
    | 0x0C0 => some s.devid.toNat
    | 0x0C1 => some c.lbpclk.toNat
    | 0x0E0 => some (c.pulls.toNat * 2 ^ 32 + c.walks.toNat)
    | 0x120 => some c.bfWord.toNat
    | 0x121 => some c.tsel.toNat
    | 0x122 => some (c.tileAt c.tsel.toNat).toNat
    | 0x123 => some (c.chkcnt.toNat * 2 ^ 32 + b2n c.suspect)
    | _ => none

/-- A write to a trap bank register: those that may be written, within their limits (R386). -/
def bankWrite (b : TrapBank) (o : Nat) (v : W64) : Option TrapBank :=
  match o with
  | 1 => if v.toNat < 0x20000 then some { b with epc := v.toNat } else none
  | 2 => some { b with lpc := v.truncate 12 }
  | 5 => some { b with x30 := v }
  | 6 => some { b with x31 := v }
  | 7 => some { b with pred := (v.truncate 8 &&& 0xFE) ||| 1 }
  | _ => none

/-- What CSRW does to the core, or none where it raises ILLOP with reason 5 (R202, R386). LPC is left to the bundle's
issue (R88). -/
def csrWrite (c : Core) (n : Nat) (v : W64) : Option Core :=
  if 0x064 ≤ n && n < 0x06C then (bankWrite c.bank1 (n - 0x064) v).map (fun b => { c with bank1 := b })
  else if 0x06C ≤ n && n < 0x074 then (bankWrite c.bank2 (n - 0x06C) v).map (fun b => { c with bank2 := b })
  else match n with
    | 0x002 => some c
    | 0x061 => if v.toNat / 2 ^ 17 = 0 && v.toNat % 64 = 0 then some { c with thvec := v.toNat } else none
    | 0x062 => if v.toNat / 2 ^ 60 = 0 && v.toNat % 512 = 0 then some { c with tsave := v.toNat } else none
    | 0x0A0 => some { c with lusel := v.truncate 11 }
    | 0x121 => some { c with tsel := v.truncate 6 }
    | _ => none

end Sys2Proof.Machine
end

