-- ==== Sys2Proof/Machine/Flags.lean ====
section
/-! DEFINITION. Conditions and masks: the comparisons of CMP and CMPI, the truth table of PLOG, branch conditions, the
comparisons and masks of VCMP (09_scalar R189-R193; 10_vector R216; 02_number R32). The LK9 has no flags: integer
operations set none (R183), and predicates are written by these instructions alone (R180). -/

namespace Sys2Proof.Machine

/-- Condition `cc` of CMP and CMPI at a width (R189); codes 6 and above are refused before. -/
def scalarCond (cc : Nat) (w : Bool) (a b : W64) : Bool :=
  match cc with
  | 0 => opN w a == opN w b
  | 1 => opN w a != opN w b
  | 2 => decide (opI w a < opI w b)
  | 3 => decide (opI w b ≤ opI w a)
  | 4 => decide (opN w a < opN w b)
  | _ => decide (opN w b ≤ opN w a)

/-- PLOG's truth table (R192). -/
def truthTable (t : BitVec 4) (a b : Bool) : Bool := t.getLsbD (2 * b2n a + b2n b)

/-- Whether BR is taken (R193). -/
def branchTaken (neg p : Bool) : Bool := p != neg

/-- Condition `cc` of VCMP on two lanes (R216, R32). -/
def laneCond (t : VTy) (w cc : Nat) (a b : BitVec w) : Bool :=
  match t.float? with
  | some f =>
    let x := FVal.ofBits f a.toNat
    let y := FVal.ofBits f b.toNat
    match cc with
    | 0 => fEq x y
    | 1 => !fEq x y
    | 2 => fLt x y
    | 3 => fLe y x
    | 4 => fLe x y
    | _ => fLt y x
  | none =>
    let x := laneI t w a
    let y := laneI t w b
    match cc with
    | 0 => x == y
    | 1 => x != y
    | 2 => decide (x < y)
    | 3 => decide (y ≤ x)
    | 4 => decide (x ≤ y)
    | _ => decide (y < x)

/-- The mask of a comparison, and whether any or every lane meets it (R216). -/
def cmpMask (t : VTy) (cc : Nat) (a b : VReg) : VReg :=
  map2 t.width (fun x y => if laneCond t t.width cc x y then BitVec.allOnes _ else 0) a b

def cmpAny (t : VTy) (cc : Nat) (a b : VReg) : Bool :=
  (upto t.lanes).any (fun j => laneCond t t.width cc (lane t.width j a) (lane t.width j b))

def cmpAll (t : VTy) (cc : Nat) (a b : VReg) : Bool :=
  (upto t.lanes).all (fun j => laneCond t t.width cc (lane t.width j a) (lane t.width j b))

end Sys2Proof.Machine
end

