-- ==== Sys2Proof/Machine/Scalar.lean ====
section
/-! DEFINITION. The S slot (09_scalar R179-R204; 12_tile R244, R248): what each instruction brings to its bundle, and
its meaning as the whole transition of a bundle that holds it alone. -/

namespace Sys2Proof.Machine

/-- An instruction whose one effect is a result in a scalar register after `lat` logical cycles (R63, R67). -/
def toX (lat : Nat) (e : Env) (d : XNo) (v : W64) : Sem := { eff := fly e.ph.inside lat (.x d.toNat v) }
/-- The same for a predicate; p0 as destination raises ILLOP with reason 5 (R180). -/
def toP (e : Env) (p : PNo) (v : Bool) : Sem := { illop := p == 0, eff := fly e.ph.inside 1 (.p p.toNat v) }

/-- The scalar operand of the core whose bundle issues. -/
def xv (s : State) (n : XNo) : W64 := (me s).rx n.toNat
def pv (s : State) (n : PNo) : Bool := (me s).rp n.toNat

/-- ADD (R182): the sum, wrapped or saturated. -/
def semAdd (d a b : XNo) (st w : Bool) (e : Env) (s : State) : Sem :=
  toX 1 e d (result w st (opI w (xv s a) + opI w (xv s b)))
/-- ADD (R182), alone in its bundle. -/
def execAdd (d a b : XNo) (st w : Bool) (s : State) : Host.Outcome State Fault Refusal :=
  issueAlone (.add d a b st w) (semAdd d a b st w) s

/-- SUB (R182): the difference, wrapped or saturated. -/
def semSub (d a b : XNo) (st w : Bool) (e : Env) (s : State) : Sem :=
  toX 1 e d (result w st (opI w (xv s a) - opI w (xv s b)))
/-- SUB (R182), alone in its bundle. -/
def execSub (d a b : XNo) (st w : Bool) (s : State) : Host.Outcome State Fault Refusal :=
  issueAlone (.sub d a b st w) (semSub d a b st w) s

/-- MUL (R182): the low bits of the product, or the saturated signed product; lands after 3. -/
def semMul (d a b : XNo) (st w : Bool) (e : Env) (s : State) : Sem :=
  toX 3 e d (result w st (opI w (xv s a) * opI w (xv s b)))
/-- MUL (R182), alone in its bundle. -/
def execMul (d a b : XNo) (st w : Bool) (s : State) : Host.Outcome State Fault Refusal :=
  issueAlone (.mul d a b st w) (semMul d a b st w) s

/-- MULH (R182): floor of the signed product over 2^64. -/
def semMulh (d a b : XNo) (e : Env) (s : State) : Sem :=
  toX 3 e d (w64 (((xv s a).toInt * (xv s b).toInt) / 2 ^ 64))
/-- MULH (R182), alone in its bundle. -/
def execMulh (d a b : XNo) (s : State) : Host.Outcome State Fault Refusal :=
  issueAlone (.mulh d a b) (semMulh d a b) s

/-- MULHU (R182): floor of the unsigned product over 2^64. -/
def semMulhu (d a b : XNo) (e : Env) (s : State) : Sem :=
  toX 3 e d (n64 ((xv s a).toNat * (xv s b).toNat / 2 ^ 64))
/-- MULHU (R182), alone in its bundle. -/
def execMulhu (d a b : XNo) (s : State) : Host.Outcome State Fault Refusal :=
  issueAlone (.mulhu d a b) (semMulhu d a b) s

/-- A divide: DIVZERO when the divisor is zero at its width, or a result that lands after 12 (R184, R185). -/
def divide (e : Env) (d : XNo) (w : Bool) (a b : W64) (v : Int) : Sem :=
  { toX 12 e d (result w false v) with
    late := if opN w b = 0 then [⟨rank 7 0, false, 2, a, n64 e.word, id⟩] else [] }

/-- DIV (R184): the signed quotient truncated toward zero; DIVZERO at a zero divisor (R185). -/
def semDiv (d a b : XNo) (w : Bool) (e : Env) (s : State) : Sem :=
  divide e d w (xv s a) (xv s b) ((opI w (xv s a)).tdiv (opI w (xv s b)))
/-- DIV (R184), alone in its bundle. -/
def execDiv (d a b : XNo) (w : Bool) (s : State) : Host.Outcome State Fault Refusal :=
  issueAlone (.div d a b w) (semDiv d a b w) s

/-- DIVU (R184): the unsigned quotient; DIVZERO at a zero divisor (R185). -/
def semDivu (d a b : XNo) (w : Bool) (e : Env) (s : State) : Sem :=
  divide e d w (xv s a) (xv s b) ((opN w (xv s a) / opN w (xv s b) : Nat) : Int)
/-- DIVU (R184), alone in its bundle. -/
def execDivu (d a b : XNo) (w : Bool) (s : State) : Host.Outcome State Fault Refusal :=
  issueAlone (.divu d a b w) (semDivu d a b w) s

/-- REM (R184): the remainder with the sign of the dividend; DIVZERO at a zero divisor (R185). -/
def semRem (d a b : XNo) (w : Bool) (e : Env) (s : State) : Sem :=
  divide e d w (xv s a) (xv s b) ((opI w (xv s a)).tmod (opI w (xv s b)))
/-- REM (R184), alone in its bundle. -/
def execRem (d a b : XNo) (w : Bool) (s : State) : Host.Outcome State Fault Refusal :=
  issueAlone (.rem d a b w) (semRem d a b w) s

/-- REMU (R184): the unsigned remainder; DIVZERO at a zero divisor (R185). -/
def semRemu (d a b : XNo) (w : Bool) (e : Env) (s : State) : Sem :=
  divide e d w (xv s a) (xv s b) ((opN w (xv s a) % opN w (xv s b) : Nat) : Int)
/-- REMU (R184), alone in its bundle. -/
def execRemu (d a b : XNo) (w : Bool) (s : State) : Host.Outcome State Fault Refusal :=
  issueAlone (.remu d a b w) (semRemu d a b w) s

/-- AND (R182): bit by bit. -/
def semAnd (d a b : XNo) (e : Env) (s : State) : Sem :=
  toX 1 e d (xv s a &&& xv s b)
/-- AND (R182), alone in its bundle. -/
def execAnd (d a b : XNo) (s : State) : Host.Outcome State Fault Refusal :=
  issueAlone (.and d a b) (semAnd d a b) s

/-- OR (R182): bit by bit. -/
def semOr (d a b : XNo) (e : Env) (s : State) : Sem :=
  toX 1 e d (xv s a ||| xv s b)
/-- OR (R182), alone in its bundle. -/
def execOr (d a b : XNo) (s : State) : Host.Outcome State Fault Refusal :=
  issueAlone (.or d a b) (semOr d a b) s

/-- XOR (R182): bit by bit. -/
def semXor (d a b : XNo) (e : Env) (s : State) : Sem :=
  toX 1 e d (xv s a ^^^ xv s b)
/-- XOR (R182), alone in its bundle. -/
def execXor (d a b : XNo) (s : State) : Host.Outcome State Fault Refusal :=
  issueAlone (.xor d a b) (semXor d a b) s

/-- SLL (R182, R183): the operand times 2^sh; under .s the signed operand, saturated. -/
def semSll (d a b : XNo) (st w : Bool) (e : Env) (s : State) : Sem :=
  toX 1 e d (result w st ((if st then opI w (xv s a) else (opN w (xv s a) : Int)) * 2 ^ shAmt w (xv s b)))
/-- SLL (R182, R183), alone in its bundle. -/
def execSll (d a b : XNo) (st w : Bool) (s : State) : Host.Outcome State Fault Refusal :=
  issueAlone (.sll d a b st w) (semSll d a b st w) s

/-- SRL (R182): the unsigned operand shifted right. -/
def semSrl (d a b : XNo) (w : Bool) (e : Env) (s : State) : Sem :=
  toX 1 e d (result w false ((opN w (xv s a) / 2 ^ shAmt w (xv s b) : Nat) : Int))
/-- SRL (R182), alone in its bundle. -/
def execSrl (d a b : XNo) (w : Bool) (s : State) : Host.Outcome State Fault Refusal :=
  issueAlone (.srl d a b w) (semSrl d a b w) s

/-- SRA (R182): the signed operand shifted right. -/
def semSra (d a b : XNo) (w : Bool) (e : Env) (s : State) : Sem :=
  toX 1 e d (result w false (opI w (xv s a) / 2 ^ shAmt w (xv s b)))
/-- SRA (R182), alone in its bundle. -/
def execSra (d a b : XNo) (w : Bool) (s : State) : Host.Outcome State Fault Refusal :=
  issueAlone (.sra d a b w) (semSra d a b w) s

/-- MIN (R182): the signed minimum. -/
def semMin (d a b : XNo) (e : Env) (s : State) : Sem :=
  toX 1 e d (if (xv s a).toInt ≤ (xv s b).toInt then xv s a else xv s b)
/-- MIN (R182), alone in its bundle. -/
def execMin (d a b : XNo) (s : State) : Host.Outcome State Fault Refusal :=
  issueAlone (.min d a b) (semMin d a b) s

/-- MAX (R182): the signed maximum. -/
def semMax (d a b : XNo) (e : Env) (s : State) : Sem :=
  toX 1 e d (if (xv s a).toInt ≤ (xv s b).toInt then xv s b else xv s a)
/-- MAX (R182), alone in its bundle. -/
def execMax (d a b : XNo) (s : State) : Host.Outcome State Fault Refusal :=
  issueAlone (.max d a b) (semMax d a b) s

/-- MINU (R182): the unsigned minimum. -/
def semMinu (d a b : XNo) (e : Env) (s : State) : Sem :=
  toX 1 e d (if (xv s a).toNat ≤ (xv s b).toNat then xv s a else xv s b)
/-- MINU (R182), alone in its bundle. -/
def execMinu (d a b : XNo) (s : State) : Host.Outcome State Fault Refusal :=
  issueAlone (.minu d a b) (semMinu d a b) s

/-- MAXU (R182): the unsigned maximum. -/
def semMaxu (d a b : XNo) (e : Env) (s : State) : Sem :=
  toX 1 e d (if (xv s a).toNat ≤ (xv s b).toNat then xv s b else xv s a)
/-- MAXU (R182), alone in its bundle. -/
def execMaxu (d a b : XNo) (s : State) : Host.Outcome State Fault Refusal :=
  issueAlone (.maxu d a b) (semMaxu d a b) s

/-- CLZ (R182): leading zero bits. -/
def semClz (d a : XNo) (w : Bool) (e : Env) (s : State) : Sem :=
  toX 1 e d (n64 (clz (opBits w) (opN w (xv s a))))
/-- CLZ (R182), alone in its bundle. -/
def execClz (d a : XNo) (w : Bool) (s : State) : Host.Outcome State Fault Refusal :=
  issueAlone (.clz d a w) (semClz d a w) s

/-- POPC (R182): one bits. -/
def semPopc (d a : XNo) (w : Bool) (e : Env) (s : State) : Sem :=
  toX 1 e d (n64 (popc (opBits w) (opN w (xv s a))))
/-- POPC (R182), alone in its bundle. -/
def execPopc (d a : XNo) (w : Bool) (s : State) : Host.Outcome State Fault Refusal :=
  issueAlone (.popc d a w) (semPopc d a w) s

/-- CMP (R189): a condition into a predicate; a code of 6 or above raises ILLOP with reason 5. -/
def semCmp (p : PNo) (a b : XNo) (w : Bool) (cc : BitVec 4) (e : Env) (s : State) : Sem :=
  { toP e p (scalarCond cc.toNat w (xv s a) (xv s b)) with illop := p == 0 || decide (6 ≤ cc.toNat) }
/-- CMP (R189), alone in its bundle. -/
def execCmp (p : PNo) (a b : XNo) (w : Bool) (cc : BitVec 4) (s : State) : Host.Outcome State Fault Refusal :=
  issueAlone (.cmp p a b w cc) (semCmp p a b w cc) s

/-- SEL (R191): one of two registers. -/
def semSel (d a b : XNo) (p : PNo) (e : Env) (s : State) : Sem :=
  toX 1 e d (if pv s p then xv s a else xv s b)
/-- SEL (R191), alone in its bundle. -/
def execSel (d a b : XNo) (p : PNo) (s : State) : Host.Outcome State Fault Refusal :=
  issueAlone (.sel d a b p) (semSel d a b p) s

/-- PLOG (R192): two predicates through a truth table. -/
def semPlog (d a b : PNo) (t : BitVec 4) (e : Env) (s : State) : Sem :=
  toP e d (truthTable t (pv s a) (pv s b))
/-- PLOG (R192), alone in its bundle. -/
def execPlog (d a b : PNo) (t : BitVec 4) (s : State) : Host.Outcome State Fault Refusal :=
  issueAlone (.plog d a b t) (semPlog d a b t) s

/-- ADDI (R186): the sum with the sign-extended immediate. -/
def semAddi (d a : XNo) (imm : BitVec 16) (e : Env) (s : State) : Sem :=
  toX 1 e d (xv s a + imm.signExtend 64)
/-- ADDI (R186), alone in its bundle. -/
def execAddi (d a : XNo) (imm : BitVec 16) (s : State) : Host.Outcome State Fault Refusal :=
  issueAlone (.addi d a imm) (semAddi d a imm) s

/-- ANDI (R186): AND with the sign-extended immediate. -/
def semAndi (d a : XNo) (imm : BitVec 16) (e : Env) (s : State) : Sem :=
  toX 1 e d (xv s a &&& imm.signExtend 64)
/-- ANDI (R186), alone in its bundle. -/
def execAndi (d a : XNo) (imm : BitVec 16) (s : State) : Host.Outcome State Fault Refusal :=
  issueAlone (.andi d a imm) (semAndi d a imm) s

/-- ORI (R186): OR with the zero-extended immediate. -/
def semOri (d a : XNo) (imm : BitVec 16) (e : Env) (s : State) : Sem :=
  toX 1 e d (xv s a ||| imm.zeroExtend 64)
/-- ORI (R186), alone in its bundle. -/
def execOri (d a : XNo) (imm : BitVec 16) (s : State) : Host.Outcome State Fault Refusal :=
  issueAlone (.ori d a imm) (semOri d a imm) s

/-- XORI (R186): XOR with the zero-extended immediate. -/
def semXori (d a : XNo) (imm : BitVec 16) (e : Env) (s : State) : Sem :=
  toX 1 e d (xv s a ^^^ imm.zeroExtend 64)
/-- XORI (R186), alone in its bundle. -/
def execXori (d a : XNo) (imm : BitVec 16) (s : State) : Host.Outcome State Fault Refusal :=
  issueAlone (.xori d a imm) (semXori d a imm) s

/-- SLLI (R186): as SLL at 64 bits. -/
def semSlli (d a : XNo) (sh : BitVec 6) (e : Env) (s : State) : Sem :=
  toX 1 e d (n64 ((xv s a).toNat * 2 ^ sh.toNat))
/-- SLLI (R186), alone in its bundle. -/
def execSlli (d a : XNo) (sh : BitVec 6) (s : State) : Host.Outcome State Fault Refusal :=
  issueAlone (.slli d a sh) (semSlli d a sh) s

/-- SRLI (R186): as SRL at 64 bits. -/
def semSrli (d a : XNo) (sh : BitVec 6) (e : Env) (s : State) : Sem :=
  toX 1 e d (n64 ((xv s a).toNat / 2 ^ sh.toNat))
/-- SRLI (R186), alone in its bundle. -/
def execSrli (d a : XNo) (sh : BitVec 6) (s : State) : Host.Outcome State Fault Refusal :=
  issueAlone (.srli d a sh) (semSrli d a sh) s

/-- SRAI (R186): as SRA at 64 bits. -/
def semSrai (d a : XNo) (sh : BitVec 6) (e : Env) (s : State) : Sem :=
  toX 1 e d (w64 ((xv s a).toInt / 2 ^ sh.toNat))
/-- SRAI (R186), alone in its bundle. -/
def execSrai (d a : XNo) (sh : BitVec 6) (s : State) : Host.Outcome State Fault Refusal :=
  issueAlone (.srai d a sh) (semSrai d a sh) s

/-- LI (R187): the sign-extended immediate. -/
def semLi (d : XNo) (imm : BitVec 16) (e : Env) (s : State) : Sem :=
  let _ := s
  toX 1 e d (imm.signExtend 64)
/-- LI (R187), alone in its bundle. -/
def execLi (d : XNo) (imm : BitVec 16) (s : State) : Host.Outcome State Fault Refusal :=
  issueAlone (.li d imm) (semLi d imm) s

/-- LIS (R187): the register times 2^16 plus the zero-extended immediate. -/
def semLis (d a : XNo) (imm : BitVec 16) (e : Env) (s : State) : Sem :=
  toX 1 e d (n64 ((xv s a).toNat * 2 ^ 16 + imm.toNat))
/-- LIS (R187), alone in its bundle. -/
def execLis (d a : XNo) (imm : BitVec 16) (s : State) : Host.Outcome State Fault Refusal :=
  issueAlone (.lis d a imm) (semLis d a imm) s

/-- CMPI (R190): a condition on a register and the sign-extended immediate; a code of 6 or 7 raises ILLOP with reason 5. -/
def semCmpi (p : PNo) (a : XNo) (cc : BitVec 3) (imm : BitVec 13) (e : Env) (s : State) : Sem :=
  { toP e p (scalarCond cc.toNat false (xv s a) (imm.signExtend 64)) with illop := p == 0 || decide (6 ≤ cc.toNat) }
/-- CMPI (R190), alone in its bundle. -/
def execCmpi (p : PNo) (a : XNo) (cc : BitVec 3) (imm : BitVec 13) (s : State) : Host.Outcome State Fault Refusal :=
  issueAlone (.cmpi p a cc imm) (semCmpi p a cc imm) s

/-- BFX (R188): a field extracted; one past bit 63 raises ILLOP with reason 5. -/
def semBfx (d a : XNo) (se : Bool) (len pos : BitVec 6) (e : Env) (s : State) : Sem :=
  let n := len.toNat + 1
  let f := (xv s a).toNat / 2 ^ pos.toNat % 2 ^ n
  { toX 1 e d (if se then w64 (sextI f n) else n64 f) with illop := decide (64 < pos.toNat + n) }
/-- BFX (R188), alone in its bundle. -/
def execBfx (d a : XNo) (se : Bool) (len pos : BitVec 6) (s : State) : Host.Outcome State Fault Refusal :=
  issueAlone (.bfx d a se len pos) (semBfx d a se len pos) s

/-- BFI (R188): a field inserted into the destination as it stands at issue; one past bit 63 raises ILLOP with reason 5. -/
def semBfi (d a : XNo) (len pos : BitVec 6) (e : Env) (s : State) : Sem :=
  let n := len.toNat + 1
  let v := (xv s d).toNat
  let f := v / 2 ^ pos.toNat % 2 ^ n
  { toX 1 e d (n64 (v - f * 2 ^ pos.toNat + (xv s a).toNat % 2 ^ n * 2 ^ pos.toNat)) with
    illop := decide (64 < pos.toNat + n) }
/-- BFI (R188), alone in its bundle. -/
def execBfi (d a : XNo) (len pos : BitVec 6) (s : State) : Host.Outcome State Fault Refusal :=
  issueAlone (.bfi d a len pos) (semBfi d a len pos) s

/-- A taken branch to a target; one outside the bundle store raises ILLOP with reason 5 (R196, R66). -/
def branchTo (t : Int) (m : Sem) : Sem := { m with illop := m.illop || outside t, redirect := some t.toNat }

/-- BR (R193): taken when the predicate differs from the sense bit. -/
def semBr (neg : Bool) (p : PNo) (disp : BitVec 21) (e : Env) (s : State) : Sem :=
  let _ := e
  if branchTaken neg (pv s p) then branchTo (target (me s).bpc disp) {} else {}
/-- BR (R193), alone in its bundle. -/
def execBr (neg : Bool) (p : PNo) (disp : BitVec 21) (s : State) : Host.Outcome State Fault Refusal :=
  issueAlone (.br neg p disp) (semBr neg p disp) s

/-- CALL (R194): always taken; the link register takes the address after the bundle. -/
def semCall (l : XNo) (disp : BitVec 21) (e : Env) (s : State) : Sem :=
  branchTo (target (me s).bpc disp) (toX 1 e l (n64 e.nxt))
/-- CALL (R194), alone in its bundle. -/
def execCall (l : XNo) (disp : BitVec 21) (s : State) : Host.Outcome State Fault Refusal :=
  issueAlone (.call l disp) (semCall l disp) s

/-- JR (R194): always taken to a register, read at issue; the link register takes the address after the bundle. -/
def semJr (d a : XNo) (e : Env) (s : State) : Sem :=
  branchTo ((xv s a).toNat : Int) (toX 1 e d (n64 e.nxt))
/-- JR (R194), alone in its bundle. -/
def execJr (d a : XNo) (s : State) : Host.Outcome State Fault Refusal :=
  issueAlone (.jr d a) (semJr d a) s

/-- LOOP (R195): counts a register down and is taken until it reaches zero; x0 raises ILLOP with reason 5. -/
def semLoop (c : XNo) (disp : BitVec 21) (e : Env) (s : State) : Sem :=
  let n := (xv s c).toNat
  if c = 0 then { illop := true }
  else if n = 0 then {}
  else
    let m := toX 1 e c (n64 (n - 1))
    if n = 1 then m else branchTo (target (me s).bpc disp) m
/-- LOOP (R195), alone in its bundle. -/
def execLoop (c : XNo) (disp : BitVec 21) (s : State) : Host.Outcome State Fault Refusal :=
  issueAlone (.loop c disp) (semLoop c disp) s

/-- A scalar load: its bytes as they stand at issue, landing after 4; poison traps or cancels the phase (R197-R199). -/
def loadSem (e : Env) (s : State) (d b : XNo) (size : BitVec 2) (off : BitVec 14) (signed : Bool) : Sem :=
  let c := me s
  let n := 2 ^ size.toNat
  let ea := effAddr (xv s b) off n
  let v := c.sp.readLE ea n
  { toX 4 e d (if signed then w64 (sextI v (8 * n)) else n64 v) with
    illop := badAddr ea n
    late := match c.poisonIn ea n with
      | some a => [latePoison e.ph.inside 1 a .s]
      | none => [] }

/-- LDS (R197, R198): a load with sign extension. -/
def semLds (d b : XNo) (size : BitVec 2) (off : BitVec 14) (e : Env) (s : State) : Sem :=
  loadSem e s d b size off true
/-- LDS (R197, R198), alone in its bundle. -/
def execLds (d b : XNo) (size : BitVec 2) (off : BitVec 14) (s : State) : Host.Outcome State Fault Refusal :=
  issueAlone (.lds d b size off) (semLds d b size off) s

/-- LDZ (R197, R198): a load with zero extension. -/
def semLdz (d b : XNo) (size : BitVec 2) (off : BitVec 14) (e : Env) (s : State) : Sem :=
  loadSem e s d b size off false
/-- LDZ (R197, R198), alone in its bundle. -/
def execLdz (d b : XNo) (size : BitVec 2) (off : BitVec 14) (s : State) : Host.Outcome State Fault Refusal :=
  issueAlone (.ldz d b size off) (semLdz d b size off) s

/-- ST (R197-R199): the low bytes of a register, landing after 2, or after 3 for 8 and 16 bits. -/
def semSt (d b : XNo) (size : BitVec 2) (off : BitVec 14) (e : Env) (s : State) : Sem :=
  let n := 2 ^ size.toNat
  let ea := effAddr (xv s b) off n
  { illop := badAddr ea n
    eff := fly e.ph.inside (if n < 4 then 3 else 2)
      (.mem [(ea, (leBytes n (xv s d).toNat).map some)] (decide (n < 4))) }
/-- ST (R197-R199), alone in its bundle. -/
def execSt (d b : XNo) (size : BitVec 2) (off : BitVec 14) (s : State) : Host.Outcome State Fault Refusal :=
  issueAlone (.st d b size off) (semSt d b size off) s

/-- SHW (R200): one or all fields of a shadow shape register; a field code of 5-7 raises ILLOP with reason 5. -/
def semShw (n : BitVec 4) (a : XNo) (f : BitVec 3) (e : Env) (s : State) : Sem :=
  { illop := decide (5 ≤ f.toNat), eff := fly e.ph.inside 1 (.shadow n.toNat f.toNat (xv s a)) }
/-- SHW (R200), alone in its bundle. -/
def execShw (n : BitVec 4) (a : XNo) (f : BitVec 3) (s : State) : Host.Outcome State Fault Refusal :=
  issueAlone (.shw n a f) (semShw n a f) s

/-- LITR (R201): a word of the literal store. -/
def semLitr (d a : XNo) (imm : BitVec 12) (e : Env) (s : State) : Sem :=
  toX 1 e d (tabGet 0 (me s).lit (((xv s a).toNat + imm.toNat) % 4096))
/-- LITR (R201), alone in its bundle. -/
def execLitr (d a : XNo) (imm : BitVec 12) (s : State) : Host.Outcome State Fault Refusal :=
  issueAlone (.litr d a imm) (semLitr d a imm) s

/-- The state as a bundle reads it: at TL0 its slots belong to one side of a phase operation in it (R312, R314, R315). -/
def seenPhase (e : Env) (s : State) : State :=
  let c := me s
  match c.kernel with
  | some k => if c.tl = 0 then mapGroup s k c.group (fun g => { g with ph := e.ph }) else s
  | none => s

/-- CSRR (R202): a CSR read at issue, landing after 2; a number without a register raises ILLOP with reason 5. -/
def semCsrr (d : XNo) (csr : BitVec 16) (e : Env) (s : State) : Sem :=
  match csrRead (seenPhase e s) csr.toNat with
  | some v => toX 2 e d (n64 v)
  | none => { illop := true }
/-- CSRR (R202), alone in its bundle. -/
def execCsrr (d : XNo) (csr : BitVec 16) (s : State) : Host.Outcome State Fault Refusal :=
  issueAlone (.csrr d csr) (semCsrr d csr) s

/-- CSRW (R202, R88): in force from the next logical cycle; a number that cannot be written, or a value outside its limits, raises ILLOP with reason 5. -/
def semCsrw (a : XNo) (csr : BitVec 16) (e : Env) (s : State) : Sem :=
  let _ := e
  match csrWrite (me s) csr.toNat (xv s a) with
  | some _ =>
    { eff := fun t => mapMe t (fun c => (csrWrite c csr.toNat (xv s a)).getD c)
      lpc := if csr = 2 then some ((xv s a).truncate 12) else none }
  | none => { illop := true }
/-- CSRW (R202, R88), alone in its bundle. -/
def execCsrw (a : XNo) (csr : BitVec 16) (s : State) : Host.Outcome State Fault Refusal :=
  issueAlone (.csrw a csr) (semCsrw a csr) s

/-- TDW (R248): a tile register, which counts as written from issue until it lands. -/
def semTdw (n : TNo) (a : XNo) (e : Env) (s : State) : Sem :=
  { writes := [.tile n.toNat], eff := fly e.ph.inside 1 (.tile n.toNat ((xv s a).truncate 40)) }
/-- TDW (R248), alone in its bundle. -/
def execTdw (n : TNo) (a : XNo) (s : State) : Host.Outcome State Fault Refusal :=
  issueAlone (.tdw n a) (semTdw n a) s

/-- An engine operation of the core has not finished with a bank (R244). -/
def Core.bankBusy (c : Core) (b : Nat) : Bool :=
  c.mops.any (fun o => (!o.readDone && o.rbanks.contains b) || o.wbanks.contains b) ||
    c.xfers.any (fun x => (!x.readDone && x.rbanks.contains b) || x.wbanks.contains b)

/-- BFW (R244): a bank format register; it waits for the engine operations on the bank, and a code of 11-15 raises ILLOP with reason 5. -/
def semBfw (n : BitVec 4) (a : XNo) (e : Env) (s : State) : Sem :=
  let v := (xv s a).truncate 4
  { illop := decide (11 ≤ v.toNat), stall := (me s).bankBusy n.toNat, eff := fly e.ph.inside 1 (.bf n.toNat v) }
/-- BFW (R244), alone in its bundle. -/
def execBfw (n : BitVec 4) (a : XNo) (s : State) : Host.Outcome State Fault Refusal :=
  issueAlone (.bfw n a) (semBfw n a) s

end Sys2Proof.Machine
end

