-- ==== Sys2Proof/Machine/System.lean ====
section
/-! DEFINITION. The X slot but for its phase, group and barrier instructions: idling, END, traps, SBWAIT, PFENCE, the
queue and page instructions, DIGRD and EVPOST (03_bundle R62, R74; 05_context R123; 06_queue R136, R137; 07_kernel R148;
14_tensor R307; 18_page R352-R357; 19_plane R369; 20_trap R388, R389). -/

namespace Sys2Proof.Machine

/-- NOP (R62): one logical cycle. -/
def semNop (e : Env) (s : State) : Sem :=
  let _ := e
  let _ := s
  {}
/-- NOP (R62), alone in its bundle. -/
def execNop (s : State) : Host.Outcome State Fault Refusal :=
  issueAlone .nop (semNop) s

/-- NOPN (R62): the next bundle issues n cycles later; n = 0 raises ILLOP with reason 5. -/
def semNopn (n : BitVec 16) (e : Env) (s : State) : Sem :=
  let _ := e
  let _ := s
  { illop := n == 0, adv := n.toNat }
/-- NOPN (R62), alone in its bundle. -/
def execNopn (n : BitVec 16) (s : State) : Host.Outcome State Fault Refusal :=
  issueAlone (.nopn n) (semNopn n) s

/-- END (R148): fetch stops; ILLOP with reason 5 above TL0 and in a phase. -/
def semEndp (e : Env) (s : State) : Sem :=
  let _ := e
  let c := me s
  { illop := c.tl != 0 || (groupOf s c).ph.inside, after := .endp }
/-- END (R148), alone in its bundle. -/
def execEndp (s : State) : Host.Outcome State Fault Refusal :=
  issueAlone .endp (semEndp) s

/-- TRAP (R388): the bundle issues and cause 0x09 is taken. -/
def semTrap (imm : BitVec 16) (e : Env) (s : State) : Sem :=
  let _ := e
  let _ := s
  { after := .trap imm.toNat }
/-- TRAP (R388), alone in its bundle. -/
def execTrap (imm : BitVec 16) (s : State) : Host.Outcome State Fault Refusal :=
  issueAlone (.trap imm) (semTrap imm) s

/-- TRET (R389): returns to the level below once every result of its own level has landed; ILLOP with reason 5 at TL0. -/
def semTret (e : Env) (s : State) : Sem :=
  let _ := e
  { illop := (me s).tl == 0, drain := !(me s).pipe.isEmpty, after := .tret }
/-- TRET (R389), alone in its bundle. -/
def execTret (s : State) : Host.Outcome State Fault Refusal :=
  issueAlone .tret (semTret) s

/-- SBWAIT counts as reading its object, or as writing it in the .f form, and changes nothing (R74). -/
def waitObj (f : Bool) (o : Obj) : Sem := if f then { writes := [o], mark := false } else { reads := [o], mark := false }

/-- SBWAIT on a tile register (R74). -/
def semSbwaitTile (f : Bool) (n : TNo) (e : Env) (s : State) : Sem :=
  let _ := e
  let _ := s
  waitObj f (.tile n.toNat)
/-- SBWAIT on a tile register (R74), alone in its bundle. -/
def execSbwaitTile (f : Bool) (n : TNo) (s : State) : Host.Outcome State Fault Refusal :=
  issueAlone (.sbwaitTile f n) (semSbwaitTile f n) s

/-- SBWAIT on an accumulator (R74). -/
def semSbwaitAcc (f : Bool) (n : ANo) (e : Env) (s : State) : Sem :=
  let _ := e
  let _ := s
  waitObj f (.acc n.toNat)
/-- SBWAIT on an accumulator (R74), alone in its bundle. -/
def execSbwaitAcc (f : Bool) (n : ANo) (s : State) : Host.Outcome State Fault Refusal :=
  issueAlone (.sbwaitAcc f n) (semSbwaitAcc f n) s

/-! ## What a phase holds, and fences -/

/-- The phase that holds what the current core issues, if one does: its kernel and group (R299, R325). -/
def holder (e : Env) (s : State) : Option (Nat × Nat) :=
  let c := me s
  if e.ph.inside then c.kernel.map (fun k => (k, c.group)) else none

/-- Something held with the open phase in the issuing core's order, or done at once (R123, R137, R305). -/
def holdOr (e : Env) (s : State) (a : HeldAct) (now : State → State) : State :=
  match holder e s with
  | some (k, g) => mapGroup s k g (fun gr => { gr with held := gr.held ++ [((me s).cidx, a)] })
  | none => now s

/-- A load transfer's read or a CREAD: complete once its home has served it (R369). -/
def ReqOp.onlyReads : ReqOp → Bool
  | .cread .. => true
  | op => op.isLoad

/-- A request that still keeps a PFENCE waiting (R369); one that a phase holds, until its source knows that it has been
accepted (R372). -/
def Req.open? (r : Req) : Bool :=
  match r.st with
  | .held => r.lost || r.via.isSome
  | .applied => !r.op.onlyReads
  | .echo => !r.op.onlyReads
  | _ => true

/-- Everything that the core sent has completed (R369). -/
def fenceDone (s : State) (n : Nat) : Bool :=
  !s.reqs.any (fun r => r.src == .core n && r.open?) &&
    !s.links.any (fun l => l.2.tx.any (fun m => m.sender == some n))

/-- PFENCE (R369): waits until every earlier request of the core has completed. -/
def semPfence (e : Env) (s : State) : Sem :=
  let _ := e
  { stall := !fenceDone s s.cur, fence := true }
/-- PFENCE (R369), alone in its bundle. -/
def execPfence (s : State) : Host.Outcome State Fault Refusal :=
  issueAlone .pfence (semPfence) s

/-! ## A phase's own stores (R299, R327, R329) -/

/-- Stores that a source holds at a line, issued before a request. -/
def ownHeld (s : State) (src : Src) (id : Nat) (p : Place) : List Req :=
  s.reqs.filter (fun q => q.st == .held && q.src == src && decide (q.id < id) && sameLine q.place p)

/-- A byte that held stores put over a line: its value if one writes it, and whether it is poisoned. -/
abbrev Over := Option Byte × Bool

/-- One store put over a line. -/
def overStore (l : List Over) (q : Req) : List Over :=
  match q.op with
  | .write bs bad =>
    let o := q.place.addr % 64
    (l.zip (upto 64)).map (fun p =>
      if o ≤ p.2 && decide (p.2 < o + bs.length) then
        let i := p.2 - o
        let b := bs.getD i none
        if b.isSome then (b, bad.contains i) else (p.1.1, p.1.2 || bad.contains i)
      else p.1)
  | _ => l

/-- What a source's held stores put over a line, for a request issued after them. -/
def overlay (s : State) (src : Src) (id : Nat) (p : Place) : List Over :=
  (ownHeld s src id p).foldl overStore (List.replicate 64 (none, false))

/-- The bytes within one line that a source sees at a place: those at the home, with the stores over them that it held before
(R299, R327). -/
def ownView (s : State) (src : Src) (id : Nat) (p : Place) (k : Nat) : List Byte :=
  ((placeRead s p k).zip ((overlay s src id p).drop (p.addr % 64))).map (fun b => b.2.1.getD b.1)

/-! ## Queues (R136, R137) -/

/-- Ring slot of a sequence number. -/
def ringSlot (q : Queue) (seq : Nat) : Nat := q.ring + 64 * (seq % 2 ^ q.lg)

/-- A packet for a queue of a context. -/
def Req.packetFor (ctx q : Nat) (r : Req) : Bool :=
  r.ctx == ctx && (match r.op with
    | .enq n _ => n == q
    | _ => false)

/-- Packets on their way to a queue that no phase holds. -/
def comingFor (s : State) (ctx q : Nat) : Nat :=
  (s.reqs.filter (fun r => r.packetFor ctx q && r.ph.isNone && (match r.st with
    | .source => true | .plane _ => true
    | _ => false))).length

/-- Slots that the ring of a queue has free (R126, R137). -/
def roomIn (q : Queue) : Nat := 2 ^ q.lg - (q.qtail + 2 ^ 48 - q.qcons) % 2 ^ 48

/-- Address and page of the slot at a queue's QTAIL, where its page allows the write. -/
def tailSlot (s : State) (ctx q : Nat) : Option (Nat × Page) :=
  let va := ringSlot (queueAt s ctx q) (queueAt s ctx q).qtail
  match xlate s ctx va .write with
  | .ok p => some (va, p)
  | .error _ => none

/-- A packet has entered a device-owned queue: QTAIL advances (R137); a queue of a SUSPENDED context keeps its state (R128). -/
def advanceTail (s : State) (ctx q : Nat) : State :=
  let kept := (ctxAt s ctx).st == .suspended
  mapQueue s ctx q (fun u => { u with
    qtail := (u.qtail + 1) % 2 ^ 48, st := if u.st == .idle && !kept then .ready else u.st })

/-- A packet enters a device-owned queue: SEQ becomes QTAIL, the ring takes it and QTAIL advances (R137). DESIGN CHOICE (the notes' log
entry 22): where the slot at QTAIL does not translate any more, nothing is written and QTAIL advances. -/
def enqueue (s : State) (ctx q : Nat) (packet : List Byte) : State :=
  let bs := leBytes 6 (queueAt s ctx q).qtail ++ packet.drop 6
  advanceTail (match tailSlot s ctx q with
    | some (va, p) => ownWrite (warm s ctx va) ctx (p.place va) va p.lg (bs.map some)
    | none => s) ctx q

/-- The update of a token: one atomic of 64 bits at its home, an add or a set (R132, R137). -/
def tokenOp (v : W64) (set : Bool) : ReqOp := .red (if set then 8 else 0) 1 v

/-- A request of the current core for one address, which belongs to no transfer: it leaves by the translation of its bundle,
and an open phase holds it at its home (R137, R349). -/
def sendOne (e : Env) (ctx va : Nat) (a : Acc) (op : ReqOp) (t : State) : State :=
  match xlate t ctx va a with
  | .ok p => sendReqBy t (.core t.cur) ctx none (p.place va) va op (holder e t) p.lg
  | .error _ => t

/-- A translation fault of one address, taken with the second check (R349, R350). -/
def faultAt (s : State) (va : Nat) (a : Acc) : List Late :=
  match xlate s (ctxNo s (me s)) va a with
  | .error r => [lateXlate va r]
  | .ok _ => []

/-- A plane carries a core's request to a translated address. -/
def viaPlane (s : State) (va : Nat) (a : Acc) : Bool :=
  match xlate s (ctxNo s (me s)) va a with
  | .error _ => false
  | .ok p => (routeOf s (.core s.cur) (p.place va)).isSome

/-- ENQ (R136, R137): a packet of the scratchpad leaves for a device-owned queue; the bundle stalls while packets fill the ring or are on
their way to fill it; held in an open phase. DESIGN CHOICE (the notes' log entry 89): an address from 0x10_0000 on, outside the
scratchpad, raises ILLOP with reason 5 like a misaligned one, the only one that the rule names. -/
def semEnq (a : XNo) (q : BitVec 10) (e : Env) (s : State) : Sem :=
  let c := me s
  let n := ctxNo s c
  let x := ctxAt s n
  let u := queueAt s n q.toNat
  let at_ := (xv s a).toNat
  let packet := c.sp.readN at_ 64
  let va := ringSlot u u.qtail
  { illop := decide (x.queues.length ≤ q.toNat) || !u.device || at_ % 64 != 0 || decide (0x100000 ≤ at_) || e.ph == .sealed
    stall := decide (roomIn u ≤ comingFor s n q.toNat)
    walks := [va], sends := viaPlane s va .write, late := faultAt s va .write
    eff := sendOne e n va .write (.enq q.toNat packet) }
/-- ENQ (R136, R137), alone in its bundle. -/
def execEnq (a : XNo) (q : BitVec 10) (s : State) : Host.Outcome State Fault Refusal :=
  issueAlone (.enq a q) (semEnq a q) s

/-- QSIG (R136, R137): a token is added to or set at its home; held in an open phase. -/
def semQsig (a b : XNo) (o : Bool) (e : Env) (s : State) : Sem :=
  let n := ctxNo s (me s)
  let va := (xv s a).toNat
  let v := xv s b
  { illop := va % 8 != 0 || e.ph == .sealed
    walks := [va], sends := viaPlane s va .write, late := faultAt s va .write
    eff := sendOne e n va .write (tokenOp v o) }
/-- QSIG (R136, R137), alone in its bundle. -/
def execQsig (a b : XNo) (o : Bool) (s : State) : Host.Outcome State Fault Refusal :=
  issueAlone (.qsig a b o) (semQsig a b o) s

/-- The last read of the token that a stalled QWAIT waits for has brought a value at or above its threshold. -/
def Core.pollMet (c : Core) (least : Nat) : Bool :=
  (((c.stall.map Stall.poll).bind Poll.value).map (fun v => decide (least ≤ v))).getD false

/-- QWAIT (R136, R137): reads a token at its home until it is at or above a threshold; ILLOP with reason 5 in a timed kernel. -/
def semQwait (a b : XNo) (e : Env) (s : State) : Sem :=
  let _ := e
  let c := me s
  let va := (xv s a).toNat
  let least := (xv s b).toNat
  let waits := match xlate s (ctxNo s c) va .read with
    | .ok _ => !c.pollMet least
    | .error _ => false
  { illop := va % 8 != 0 || !(kernelOf s c).lr.nest
    stall := waits && (c.stall.map Stall.walked).getD false, poll := some (va, least)
    walks := [va], sends := viaPlane s va .read, late := faultAt s va .read }
/-- QWAIT (R136, R137), alone in its bundle. -/
def execQwait (a b : XNo) (s : State) : Host.Outcome State Fault Refusal :=
  issueAlone (.qwait a b) (semQwait a b) s

/-! ## Pages (R352-R357) -/

/-- Whether a page meets a range of addresses; a length of 0 is the whole space (R353). -/
def meets (p : Page) (va len : Nat) : Bool :=
  len == 0 || (decide (p.va < va + len) && decide (va < p.va + 2 ^ p.lg))

/-- A request whose translation, captured at its issue, lies in a page that meets the range (R353). -/
def Req.stale (va len : Nat) (r : Req) : Bool :=
  r.lg != 0 && meets ⟨r.va / 2 ^ r.lg * 2 ^ r.lg, r.lg, 0, 0⟩ va len

/-- A chain command of a context that has not been accepted by the far port, and was translated in the range (R353). -/
def Msg.captured (ctx va len : Nat) (m : Msg) : Bool := m.ctx == ctx && m.pages.any (fun p => meets p va len)

/-- Such a command on its way to the skid. -/
def Req.msgCaptured (ctx va len : Nat) (r : Req) : Bool :=
  r.waiting && (match r.op with
    | .msg m => m.captured ctx va len
    | _ => false)

/-- A transfer that captured a translation of the range and has not read its bytes, a request by one that has not been accepted,
or a packet, a chain's command or a command of an LCOPY that is to use one yet (R353). -/
def captured (s : State) (ctx va len : Nat) : Bool :=
  s.cores.any (fun c => ctxNo s c.2 == ctx && c.2.kernel.isSome &&
    c.2.xfers.any (fun x => !x.left.isEmpty && x.pages.any (fun p => meets p va len))) ||
  s.reqs.any (fun r => r.ctx == ctx && r.waiting && r.stale va len) ||
  (ctxAt s ctx).queues.any (fun q => q.packets.any (fun k => k.pages.any (fun p => meets p va len))) ||
  s.deliveries.any (fun d => d.ctx == ctx && d.pages.any (fun p => meets p va len)) ||
  s.reqs.any (Req.msgCaptured ctx va len) || s.links.any (fun l => l.2.tx.any (Msg.captured ctx va len))

/-- Held stores that used an invalidated translation take a home fault (R353, R355). -/
def staleHeld (s : State) (ctx va len : Nat) : State :=
  s.reqs.foldl (fun t r =>
    match r.ph, r.src with
    | some (k, g), .core n =>
      if r.ctx = ctx && r.st == .held && r.stale va len then
        cancelPhase t k g true (some (n, r.va, 1))
      else t
    | _, _ => t) s

/-- What PGINV leaves (R353): nothing is cached in this model, so held stores alone are touched. -/
def invalidate (s : State) (ctx va len : Nat) : State := staleHeld s ctx va len

/-- PGINV (R352, R353): waits for the transfers that captured a translation of the range; held stores that used one take a home fault. -/
def semPginv (a b : XNo) (e : Env) (s : State) : Sem :=
  let _ := e
  let n := ctxNo s (me s)
  let va := (xv s a).toNat
  let len := (xv s b).toNat
  { illop := decide (2 ^ 60 ≤ va), stall := captured s n va len, eff := fun t => invalidate t n va len }
/-- PGINV (R352, R353), alone in its bundle. -/
def execPginv (a b : XNo) (s : State) : Host.Outcome State Fault Refusal :=
  issueAlone (.pginv a b) (semPginv a b) s

/-- What PGPROBE finds as a read that needs no rights: the leaf with its size, or twice the reason of R350 (R354). -/
def probeWord (s : State) (n va : Nat) : Nat :=
  match walk s n va with
  | .error r => 2 * r
  | .ok (lg, l, _) =>
    let x := ctxAt s n
    if leafTT l = 7 then 6
    else if targetRefuses x l .read then 10
    else if (leafTT l = 1 || leafTT l = 2) && !bayHeld s n (bayOf (resolve x (frameCore l))) then 12
    else l - fld l 15 13 * 2 ^ 13 + (if lg = 16 then 0 else if lg = 21 then 1 else 2) * 2 ^ 13

/-- PGPROBE (R352, R354): the leaf of an address, or the reason for which there is none, landing after 2. -/
def semPgprobe (a d : XNo) (e : Env) (s : State) : Sem :=
  let va := (xv s a).toNat
  let v := probeWord s (ctxNo s (me s)) va
  { toX 2 e d (n64 v) with illop := decide (2 ^ 60 ≤ va), walks := [va] }
/-- PGPROBE (R352, R354), alone in its bundle. -/
def execPgprobe (a d : XNo) (s : State) : Host.Outcome State Fault Refusal :=
  issueAlone (.pgprobe a d) (semPgprobe a d) s

/-- PGMIG's conditions of ILLOP reason 5 on its operands alone; no page is smaller than 64 KiB (R357). -/
def migIllop (s : State) (n va leaf : Nat) : Bool :=
  !bit1 leaf 0 || !bit1 leaf 1 || leafTT leaf != 0 || bit1 leaf 11 || bit1 leaf 12 || fld leaf 15 13 != 0 ||
    fld leaf 63 40 != 0 || !(ctxAt s n).profMask.getLsbD (fld leaf 10 8) || va % 65536 != 0

/-- Its condition that the walk decides: the address is not the first of its page (R97, R357). -/
def migInside (s : State) (n va : Nat) : Bool :=
  match walk s n va with
  | .ok (lg, _, _) => va % 2 ^ lg != 0
  | .error _ => false

/-- The reason of XLATE that PGMIG takes, if any: that of the walk, or 8 (R357). -/
def migFault (s : State) (n va leaf : Nat) : Option Nat :=
  match walk s n va with
  | .error r => some r
  | .ok (lg, l, _) => if leafTT l != 0 || leaf / 2 ^ 16 * 2 ^ 16 % 2 ^ lg != 0 then some 8 else none

/-- A request on its way to a frame of DRAM (R361). -/
def Req.bound (old lg : Nat) (r : Req) : Bool :=
  match r.st, r.place.home with
  | .plane _, .stack _ => decide (old ≤ r.place.addr) && decide (r.place.addr < old + 2 ^ lg)
  | .source, .stack _ => decide (old ≤ r.place.addr) && decide (r.place.addr < old + 2 ^ lg)
  | .merged _, .stack _ => decide (old ≤ r.place.addr) && decide (r.place.addr < old + 2 ^ lg)
  | _, _ => false

/-- A store that a phase holds for a page, where the prepare tokens of the phase are out: it stays where the home votes on it and
applies it (R311, R315). -/
def Req.voting (s : State) (ctx va lg : Nat) (r : Req) : Bool :=
  r.st == .held && r.ctx == ctx && decide (r.va / 2 ^ lg = va / 2 ^ lg) && (match r.ph with
    | some (k, g) => (match (groupAt s k g).step with
      | .voting _ => true
      | .committing => true
      | _ => false)
    | none => false)

/-- The page has MIG set, or the new frame's stack has no free slot, or a transfer still uses the old frame, or a phase that commits
holds stores for it (R315, R357). -/
def migWaits (s : State) (n va leaf : Nat) : Bool :=
  match walk s n va with
  | .error _ => false
  | .ok (lg, l, _) =>
    if bit1 l 12 then true
    else if l = leaf then false
    else decide (16 ≤ (s.migs.filter (fun m => m.newPa / 2 ^ 36 == fld leaf 39 36)).length) ||
      captured s n (va / 2 ^ lg * 2 ^ lg) (2 ^ lg) || s.reqs.any (Req.bound (fld l 39 16 * 2 ^ 16) lg) ||
      s.reqs.any (Req.voting s n va lg)

/-- The old frame in an access-control entry of the context becomes the new one (R357, R360). -/
def aclMove (s : State) (n oldPa newPa : Nat) : State :=
  { s with acl := tabMap (fun _ a =>
      let v := a.toNat
      if bit1 v 0 && fld v 43 32 == n && fld v 103 80 * 2 ^ 16 == oldPa then
        BitVec.ofNat 256 (v - fld v 103 80 * 2 ^ 80 + newPa / 2 ^ 16 * 2 ^ 80) else a) s.acl }

/-- A store that a phase of the context holds for the page goes to the new frame (R357). -/
def Req.moved (ctx va old new lg leaf : Nat) (r : Req) : Req :=
  match r.place.home with
  | .stack _ =>
    if r.st == .held && r.ctx == ctx && r.va / 2 ^ lg == va / 2 ^ lg && decide (old ≤ r.place.addr) && decide (r.place.addr < old + 2 ^ lg) then
      let a := r.place.addr - old + new
      { r with place := ⟨.stack (a / 2 ^ 36), a, fld leaf 10 8⟩ }
    else r
  | _ => r

/-- The switch of PGMIG, in one step (R357). -/
def migSwitch (s : State) (n va leaf : Nat) (ret : Bool) : State :=
  match walk s n va with
  | .error _ => s
  | .ok (lg, l, at_) =>
    if l = leaf then s
    else
      let old := fld l 39 16 * 2 ^ 16
      let new := fld leaf 39 16 * 2 ^ 16
      let s := physWrite s at_ (leaf + 4096)
      let s := aclMove s n old new
      let s : State := { s with reqs := s.reqs.map (Req.moved n va old new lg leaf) }
      { s with migs := s.migs ++ [⟨n, va / 2 ^ lg * 2 ^ lg, lg, old, new, at_, BitVec.ofNat 64 leaf, [], ret, fld l 10 8⟩] }

/-- PGMIG and PGMIG.R (R352, R357): moves a page to a new frame; waits while the page is being filled. -/
def semPgmig (a b : XNo) (ret : Bool) (e : Env) (s : State) : Sem :=
  let n := ctxNo s (me s)
  let va := (xv s a).toNat
  let leaf := (xv s b).toNat
  { illop := decide (2 ^ 60 ≤ va) || migIllop s n va leaf
    walks := [va], stall := migWaits s n va leaf
    late := (if migInside s n va then [lateIllop .x e.word] else []) ++ (match migFault s n va leaf with
      | some r => [lateXlate va r]
      | none => [])
    eff := fun t => migSwitch t n va leaf ret }
/-- PGMIG and PGMIG.R (R352, R357), alone in its bundle. -/
def execPgmig (a b : XNo) (ret : Bool) (s : State) : Host.Outcome State Fault Refusal :=
  issueAlone (.pgmig a b ret) (semPgmig a b ret) s

/-- DIGRD (R307): the running digest, landing after 2. -/
def semDigrd (d : XNo) (e : Env) (s : State) : Sem :=
  toX 2 e d (me s).digest
/-- DIGRD (R307), alone in its bundle. -/
def execDigrd (d : XNo) (s : State) : Host.Outcome State Fault Refusal :=
  issueAlone (.digrd d) (semDigrd d) s

/-- EVPOST (R123): an event record; held in an open phase; a code of 0x8000 or above raises ILLOP with reason 5. -/
def semEvpost (a b : XNo) (code : BitVec 16) (e : Env) (s : State) : Sem :=
  let n := ctxNo s (me s)
  let va := xv s a
  let vb := xv s b
  { illop := decide (0x8000 ≤ code.toNat) || e.ph == .sealed
    eff := fun t => holdOr e t (.evpost code.toNat va vb) (fun t => postEvent t n 6 code.toNat t.cur va vb) }
/-- EVPOST (R123), alone in its bundle. -/
def execEvpost (a b : XNo) (code : BitVec 16) (s : State) : Host.Outcome State Fault Refusal :=
  issueAlone (.evpost a b code) (semEvpost a b code) s

end Sys2Proof.Machine
end

