-- ==== Sys2Proof/Machine/Barrier.lean ====
section
/-! DEFINITION. Barriers (17_barrier R332-R345): the 128-bit object in a scratchpad, its updates, and the X-slot
instructions that make them. -/

namespace Sys2Proof.Machine

/-- The fields of a barrier (R332). -/
structure Bar where
  ph : Nat
  arr : Nat
  exp : Nat
  spare : Nat
  err : Bool
  neg : Bool
  ovf : Bool
  res1 : Nat
  sect : Int
  res2 : Nat
  deriving DecidableEq, Repr

def barOf (v : Nat) : Bar :=
  ⟨fld v 3 0, fld v 23 4, fld v 43 24, fld v 44 44, bit1 v 45, bit1 v 46, bit1 v 47, fld v 63 48,
    sextI (fld v 95 64) 32, fld v 127 96⟩

def Bar.word (b : Bar) : Nat :=
  b.ph % 16 + b.arr % 2 ^ 20 * 2 ^ 4 + b.exp % 2 ^ 20 * 2 ^ 24 + b.spare % 2 * 2 ^ 44 + b2n b.err * 2 ^ 45 +
    b2n b.neg * 2 ^ 46 + b2n b.ovf * 2 ^ 47 + b.res1 % 2 ^ 16 * 2 ^ 48 + (BitVec.ofInt 32 b.sect).toNat * 2 ^ 64 +
    b.res2 % 2 ^ 32 * 2 ^ 96

def Core.barAt (c : Core) (a : Nat) : Bar := barOf (c.sp.readLE a 16)
def Core.barPut (c : Core) (a : Nat) (b : Bar) : Core := c.spWrite a ((leBytes 16 b.word).map some) false

/-- Completion when both counts are zero (R336). -/
def Bar.complete (b : Bar) : Bar :=
  if b.exp != 0 && b.arr == 0 && b.sect == 0 then { b with ph := (b.ph + 1) % 16, arr := b.exp } else b

/-- An arrival (R336, R339). -/
def Bar.arrive (b : Bar) : Bar :=
  if b.exp = 0 || b.arr = 0 then { b with err := true } else { b with arr := b.arr - 1 }.complete

/-- A delivery's sector (R339, R340). -/
def Bar.sector (b : Bar) : Bar :=
  if b.sect - 1 < -(2 ^ 31 : Nat) then { b with err := true }
  else { b with sect := b.sect - 1, neg := b.neg || decide (b.sect - 1 < 0) }.complete

/-- BEXP of sectors or arrivals, or none where it passes the field's range (R336, R338). -/
def Bar.expect (b : Bar) (arr : Bool) (n : Nat) : Option Bar :=
  if arr then (if 2 ^ 20 - 1 < b.arr + n then none else some { b with arr := b.arr + n }.complete)
  else (if ((2 ^ 31 - 1 : Nat) : Int) < b.sect + n then none else some { b with sect := b.sect + n }.complete)

/-- A stalled BWAIT on the barrier sees the phase change, whatever follows it (R337). -/
def Core.seePhase (c : Core) (a : Nat) (b : Bar) : Core :=
  { c with stall := c.stall.map (fun t => match t.bwait with
      | some (w, v) => if w = a && b.ph != v then { t with done := true } else t
      | none => t) }

/-- An update of a barrier of core `n` by another party or a delivery: dropped while it is poisoned (R333, R341). -/
def barUpdate (s : State) (n a : Nat) (f : Bar → Bar) : State :=
  mapCore s n (fun c =>
    if (c.poisonIn a 16).isSome then c
    else let b := f (c.barAt a); (c.barPut a b).seePhase a b)

/-- A store that was issued earlier and lands in the cycle after this one gives way to an own update in the bytes they
share (R64, R335, R342). -/
def shield (a : Nat) (f : Flight) : Flight :=
  match f.dst with
  | .mem rows sub =>
    if f.rem ≤ 1 then
      { f with dst := .mem (rows.map (fun r =>
          (r.1, r.2.zipWith (fun b i => if a ≤ r.1 + i && decide (r.1 + i < a + 16) then none else b) (upto r.2.length)))) sub }
    else f
  | _ => f

/-- The owner's update (R335). -/
def ownUpdate (a : Nat) (f : Bar → Bar) (s : State) : State :=
  mapMe s (fun c =>
    let b := f (c.barAt a)
    { (c.barPut a b) with pipe := c.pipe.map (shield a) })

/-- An address that no barrier can have (R334). -/
def badBar (a : Nat) : Bool := a % 16 != 0 || decide (0xFFFF0 < a)

/-- Poison of a barrier consumed by its owner (R333, R383). -/
def barPoison (e : Env) (s : State) (a : Nat) : List Late :=
  match (me s).poisonIn a 16 with
  | some w => [latePoison e.ph.inside 1 w .x]
  | none => []

/-- BINIT, BARR and BEXP in an open or sealed phase at level 1 or 2 (R334). -/
def barInPhase (s : State) : Bool := (groupOf s (me s)).ph.inside && levelOf s (me s) != 0

/-- BINIT (R334, R336): a fresh barrier. -/
def semBinit (a b : XNo) (e : Env) (s : State) : Sem :=
  let _ := e
  let at_ := (xv s a).toNat
  let v := (xv s b).toNat
  { illop := badBar at_ || v == 0 || decide (2 ^ 20 ≤ v) || barInPhase s
    eff := ownUpdate at_ (fun _ => ⟨0, v, v, 0, false, false, false, 0, 0, 0⟩) }
/-- BINIT (R334, R336), alone in its bundle. -/
def execBinit (a b : XNo) (s : State) : Host.Outcome State Fault Refusal :=
  issueAlone (.binit a b) (semBinit a b) s

/-- BARR (R334, R336): an own arrival; ILLOP with reason 5 in a timed kernel. -/
def semBarr (a : XNo) (e : Env) (s : State) : Sem :=
  let at_ := (xv s a).toNat
  { illop := badBar at_ || !(kernelOf s (me s)).lr.nest || barInPhase s
    late := barPoison e s at_, eff := ownUpdate at_ Bar.arrive }
/-- BARR (R334, R336), alone in its bundle. -/
def execBarr (a : XNo) (s : State) : Host.Outcome State Fault Refusal :=
  issueAlone (.barr a) (semBarr a) s

/-- BARR.G (R334, R335): an arrival sent to the barrier of a virtual address. -/
def semBarrG (a : XNo) (e : Env) (s : State) : Sem :=
  let _ := e
  let c := me s
  let n := ctxNo s c
  let va := (xv s a).toNat
  { illop := va % 16 != 0 || decide (2 ^ 60 ≤ va) || !(kernelOf s c).lr.nest || barInPhase s
    walks := [va], sends := viaPlane s va .barrier, late := faultAt s va .barrier
    eff := fun t => match xlate s n va .barrier with
      | .ok p => sendReqBy t (.core t.cur) n none (p.place va) va .arrive none p.lg
      | .error _ => t }
/-- BARR.G (R334, R335), alone in its bundle. -/
def execBarrG (a : XNo) (s : State) : Host.Outcome State Fault Refusal :=
  issueAlone (.barrG a) (semBarrG a) s

/-- OVF := 1, the only change that a BOVF makes: a store in flight still lands (R96, R338). -/
def setOvf (a : Nat) (s : State) : State := mapMe s (fun c => c.barPut a { c.barAt a with ovf := true })

/-- BEXP (R334, R336, R338): more sectors or arrivals expected; BOVF past the range of the field, with OVF set. -/
def semBexp (a b : XNo) (arr : Bool) (e : Env) (s : State) : Sem :=
  let at_ := (xv s a).toNat
  let n := (xv s b).toNat
  let past := ((me s).barAt at_).expect arr n == none
  { illop := badBar at_ || n == 0 || decide ((if arr then 2 ^ 20 else 2 ^ 31) ≤ n) || barInPhase s
    late := barPoison e s at_ ++ (if past then
      [⟨rank 7 7, false, 6, n64 at_, n64 (b2n arr), setOvf at_⟩] else [])
    eff := ownUpdate at_ (fun b => (b.expect arr n).getD b) }
/-- BEXP (R334, R336, R338), alone in its bundle. -/
def execBexp (a b : XNo) (arr : Bool) (s : State) : Host.Outcome State Fault Refusal :=
  issueAlone (.bexp a b arr) (semBexp a b arr) s

/-- BTEST (R334, R336): the low half of a barrier, or its pending sectors, landing after 2. -/
def semBtest (a d : XNo) (h : Bool) (e : Env) (s : State) : Sem :=
  let at_ := (xv s a).toNat
  let b := (me s).barAt at_
  { toX 2 e d (if h then w64 b.sect else n64 (b.word % 2 ^ 64)) with
    illop := badBar at_, late := barPoison e s at_ }
/-- BTEST (R334, R336), alone in its bundle. -/
def execBtest (a d : XNo) (h : Bool) (s : State) : Host.Outcome State Fault Refusal :=
  issueAlone (.btest a d h) (semBtest a d h) s

/-- BWAIT (R334, R337): waits until the phase differs from the token; ILLOP with reason 5 in a timed kernel. -/
def semBwait (a b : XNo) (e : Env) (s : State) : Sem :=
  let c := me s
  let at_ := (xv s a).toNat
  let v := (xv s b).toNat % 16
  let poison := barPoison e s at_
  { illop := badBar at_ || !(kernelOf s c).lr.nest
    stall := poison.isEmpty && (c.barAt at_).ph == v && !(c.stall.map Stall.done).getD false
    bwait := some (at_, v), late := poison }
/-- BWAIT (R334, R337), alone in its bundle. -/
def execBwait (a b : XNo) (s : State) : Host.Outcome State Fault Refusal :=
  issueAlone (.bwait a b) (semBwait a b) s

end Sys2Proof.Machine
end

