-- ==== Sys2Proof/Machine/Transc.lean ====
section
/-! DEFINITION. The function units' values: exact forms by interval arithmetic on integers, quick forms, and the
Shawm generator (11_function R232-R240). -/

namespace Sys2Proof

/-- `floor(pi * 2^2048)`. -/
def piFix : Nat :=
  0x3 * 2 ^ 2048 +
  0x243f6a8885a308d313198a2e03707344a4093822299f31d0082efa98ec4e6c89 * 2 ^ 1792 +
  0x452821e638d01377be5466cf34e90c6cc0ac29b7c97c50dd3f84d5b5b5470917 * 2 ^ 1536 +
  0x9216d5d98979fb1bd1310ba698dfb5ac2ffd72dbd01adfb7b8e1afed6a267e96 * 2 ^ 1280 +
  0xba7c9045f12c7f9924a19947b3916cf70801f2e2858efc16636920d871574e69 * 2 ^ 1024 +
  0xa458fea3f4933d7e0d95748f728eb658718bcd5882154aee7b54a41dc25a59b5 * 2 ^ 768 +
  0x9c30d5392af26013c5d1b023286085f0ca417918b8db38ef8e79dcb0603a180e * 2 ^ 512 +
  0x6c9e0e8bb01e8a3ed71577c1bd314b2778af2fda55605c60e65525f3aa55ab94 * 2 ^ 256 +
  0x5748986263e8144055ca396a2aab10b6b4cc5c341141e8cea15486af7c72e993

/-- `floor(ln 2 * 2^1024)`. -/
def ln2Fix : Nat :=
  0xb17217f7d1cf79abc9e3b39803f2f6af40f343267298b62d8a0d175b8baafa2b * 2 ^ 768 +
  0xe7b876206debac98559552fb4afa1b10ed2eae35c138214427573b291169b825 * 2 ^ 512 +
  0x3e96ca16224ae8c51acbda11317c387eb9ea9bc3b136603b256fa0ec7657f74b * 2 ^ 256 +
  0x72ce87b19d6548caf5dfa6bd38303248655fa1872f20e3a2da2d97c50f3fd5c6

/-- `pi` at scale `2^-q`, rounded down, for `q <= 2048`. -/
def piAt (q : Nat) : Nat := piFix / 2 ^ (2048 - q)

/-- `ln 2` at scale `2^-q`, rounded down, for `q <= 1024`. -/
def ln2At (q : Nat) : Nat := ln2Fix / 2 ^ (1024 - q)

/-- `m * 2^e` at scale `2^-q`, rounded down. -/
def fixAt (m : Nat) (e : Int) (q : Nat) : Nat :=
  let s := e + q
  if 0 ≤ s then m * 2 ^ s.toNat else m / 2 ^ (-s).toNat

/-- An enclosure `[lo, hi] * 2^e` of a positive real value. -/
structure Encl where
  lo : Nat
  hi : Nat
  e : Int
  deriving DecidableEq, Repr

/-- Taylor terms of `exp` from `t = r^n/n!` on, all at scale `2^-q`. -/
def expTail (q r : Nat) : Nat → Nat → Nat → Nat
  | 0, _, _ => 0
  | k + 1, n, t =>
    let t' := t * r / 2 ^ q / n
    if t' = 0 then 0 else t' + expTail q r k (n + 1) t'

/-- `exp r` at scale `2^-q` for `0 <= r < 1`; every one of fewer than 300 terms is short by less than 2 units. -/
def expFix (q r : Nat) : Nat := 2 ^ q + expTail q r 300 1 (2 ^ q)

/-- Enclosure of `exp(k ln 2 + r)`, `r` known to 4096 units of scale `2^-q`. -/
def expEncl (q r : Nat) (k : Int) : Encl :=
  let v := expFix q r
  ⟨v - 16384, v + 16384, k - q⟩

/-- `e^x` for `x = ±m * 2^e` of magnitude below 2^11: `x = k ln 2 + r` (R234). -/
def expOf (neg : Bool) (m : Nat) (e : Int) (pr : Nat) : Encl :=
  let q := pr + 32
  let x : Int := sgn neg (fixAt m e q)
  let l : Int := ln2At q
  let k := x / l
  expEncl q (x - k * l).toNat k

/-- `2^x` for `x` of magnitude below 2^11 (R234). -/
def exp2Of (neg : Bool) (m : Nat) (e : Int) (pr : Nat) : Encl :=
  let q := pr + 32
  let x : Int := sgn neg (fixAt m e q)
  let k := x / ((2 ^ q : Nat) : Int)
  expEncl q ((x - k * ((2 ^ q : Nat) : Int)).toNat * ln2At q / 2 ^ q) k

/-- Terms `z^(2n+1)/(2n+1)` of `atanh`, at scale `2^-q`; `t` is `z^(2n-1)`. -/
def atanhTail (q z2 : Nat) : Nat → Nat → Nat → Nat
  | 0, _, _ => 0
  | k + 1, n, t => if t = 0 then 0 else t / n + atanhTail q z2 k (n + 2) (t * z2 / 2 ^ q)

/-- Natural logarithm of `m * 2^e > 0` at scale `2^-q`, with sign, within 4096 units: `m * 2^e = y * 2^k` with
`y` in `[3/4, 3/2)` (R234). -/
def lnFix (m : Nat) (e : Int) (q : Nat) : Int :=
  let b := Nat.log2 m
  let y0 := fixAt m (-(b : Int)) q
  let big := decide (3 * 2 ^ q ≤ 2 * y0)
  let k : Int := e + b + (if big then 1 else 0)
  let one := 2 ^ q
  let y2 := if big then y0 else 2 * y0           -- y at scale 2^-(q+1)
  let two := 2 * one
  let ge := decide (two ≤ y2)
  let d := if ge then y2 - two else two - y2
  let z := d * one / (y2 + two)
  let at_ := 2 * atanhTail q (z * z / one) 600 1 z
  k * (ln2At q : Int) + (if ge then (at_ : Int) else -(at_ : Int))

/-- Alternating series `r - r^3/3! + ...` from the term `t` on (sine when it starts at `r`, cosine at 1). -/
def altTail (q r2 : Nat) : Nat → Nat → Nat → Int
  | 0, _, t => t
  | k + 1, n, t =>
    if t = 0 then 0 else (t : Int) - altTail q r2 k (n + 2) (t * r2 / 2 ^ q / (n * (n + 1)))

/-- `sin r` and `cos r` at scale `2^-q` for `0 <= r < 2`. -/
def sinFix (q r : Nat) : Int := altTail q (r * r / 2 ^ q) 200 2 r
def cosFix (q r : Nat) : Int := altTail q (r * r / 2 ^ q) 200 1 (2 ^ q)

/-- Sign and enclosure of the magnitude of an approximation within `d` units; none while the sign is open. -/
def signEncl (v : Int) (d : Nat) (e : Int) : Option (Bool × Encl) :=
  if v.natAbs ≤ d then none else some (decide (v < 0), ⟨v.natAbs - d, v.natAbs + d, e⟩)

/-- Sine (`c = 0`) or cosine (`c = 1`) of `m * 2^e`: the quadrant shifts by `c` (R234). -/
def sinOf (c : Nat) (neg : Bool) (m : Nat) (e : Int) (pr : Nat) : Option (Bool × Encl) :=
  let top := (e + (Nat.log2 m : Int) + 1).toNat
  let q := pr + 64
  let qq := q + top + 8
  let hp := piAt (qq + 1) / 4                    -- pi/2 at scale 2^-qq
  let x := fixAt m e qq
  let k := x / hp
  let r := (x - k * hp) / 2 ^ (top + 8)
  let v := match (k + c) % 4 with
    | 0 => sinFix q r | 1 => cosFix q r | 2 => -sinFix q r | _ => -cosFix q r
  signEncl (if neg && c == 0 then -v else v) 4096 (-(q : Int))

/-- Newton steps of the integer square root, by fuel. -/
def isqrtLoop (n : Nat) : Nat → Nat → Nat
  | 0, a => a
  | k + 1, a =>
    let b := (a + n / a) / 2
    if a ≤ b then a else isqrtLoop n k b

/-- `floor(sqrt n)`. -/
def isqrt (n : Nat) : Nat := if n = 0 then 0 else isqrtLoop n (Nat.log2 n + 4) (2 ^ (Nat.log2 n / 2 + 1))

/-- `1 / sqrt(m * 2^e)` (R234). -/
def rsqrtOf (m : Nat) (e : Int) (pr : Nat) : Encl :=
  let m' := if e % 2 = 0 then m else 2 * m
  let e' := if e % 2 = 0 then e else e - 1
  let q := pr + Nat.log2 m' + 2
  let v := isqrt (2 ^ (2 * q) / m')
  ⟨v, v + 1, -(q : Int) - e' / 2⟩

/-- `1 / (m * 2^e)` (R234). -/
def recipOf (m : Nat) (e : Int) (pr : Nat) : Encl :=
  let q := pr + 2 * (Nat.log2 m + 2)
  let v := 2 ^ q / m
  ⟨v, v + 1, -(q : Int) - e⟩

/-- The ratio of two enclosures, at `2^-pr` of relative precision. -/
def Encl.div (a b : Encl) (pr : Nat) : Encl :=
  let s := pr + Nat.log2 b.hi
  ⟨a.lo * 2 ^ s / b.hi, a.hi * 2 ^ s / b.lo + 1, a.e - b.e - s⟩

/-- Adds an exact power-of-two multiple `n * 2^e'` to an enclosure whose exponent is at most `e'`. -/
def Encl.addC (a : Encl) (n : Int) : Encl :=
  let c := n * ((2 ^ (-a.e).toNat : Nat) : Int)
  ⟨(a.lo + c).toNat, (a.hi + c).toNat, a.e⟩

/-- Brings an enclosure to a given lower exponent. -/
def Encl.lower (a : Encl) (e : Int) : Encl :=
  if e ≤ a.e then ⟨a.lo * 2 ^ (a.e - e).toNat, a.hi * 2 ^ (a.e - e).toNat, e⟩ else a

/-- `tanh(m * 2^e) = (E - 1) / (E + 1)`, `E = e^(2x)`, for `2^-41 < x < 32` (R234). -/
def tanhOf (m : Nat) (e : Int) (pr : Nat) : Encl :=
  let ex := (expOf false m (e + 1) (pr + 96)).lower (-(pr : Int) - 128)
  (ex.addC (-1)).div (ex.addC 1) (pr + 32)

/-- `1 / (1 + e^-x)` as `E / (1 + E)`, `E = e^x`, for `|x| < 2^11` (R234). -/
def sigmOf (neg : Bool) (m : Nat) (e : Int) (pr : Nat) : Encl :=
  let ex := expOf neg m e (pr + 32)
  let ex := if 0 < ex.e then ex.lower 0 else ex
  ex.div (ex.addC 1) (pr + 8)

/-- Terms `(-1)^n x^(2n) / (n! (2n+1))`, `t = x^(2n)/n!` at scale `2^-q`. -/
def erfTail (q x2 : Nat) : Nat → Nat → Nat → Int
  | 0, _, _ => 0
  | k + 1, n, t =>
    if t = 0 then 0 else ((t / (2 * n + 1) : Nat) : Int) - erfTail q x2 k (n + 1) (t * x2 / 2 ^ q / (n + 1))

/-- `erf(m * 2^e) = 2/sqrt(pi) * x * S(x^2)` for `0 < x < 8` (R234). -/
def erfOf (m : Nat) (e : Int) (pr : Nat) : Encl :=
  let q := pr + 160
  let x := fixAt m e q
  let s := (erfTail q (x * x / 2 ^ q) 900 0 (2 ^ q)).toNat
  let w := 2 ^ 110                                 -- error allowed on S at scale 2^-q
  let d := isqrt (2 ^ (2 * q + 2) * 2 ^ q / piAt q) -- 2/sqrt(pi) at scale 2^-q
  ⟨m * ((s - w) * (d - 8)), m * ((s + w) * (d + 8)), e - 2 * q⟩

/-- Rounds both ends of an enclosure; equal words are the rounded value (R33, R234). -/
def Encl.round? (f : FFmt) (neg : Bool) (a : Encl) : Option Nat :=
  let l := roundBits f .rne neg a.lo a.e
  let h := roundBits f .rne neg a.hi a.e
  if l = h then some l else none

/-- Tries working precisions in turn. -/
def firstRound (g : Nat → Option Nat) : List Nat → Nat
  | [] => 0
  | p :: r => match g p with
    | some v => v
    | none => firstRound g r

/-- Working precisions. The last is far beyond what any float argument needs. -/
def precisions : List Nat := [96, 192, 384, 640]

/-- The rounded value of a magnitude just below `m * 2^e` (relative distance at most 2^-79). -/
def justBelow (f : FFmt) (neg : Bool) (m : Nat) (e : Int) : Nat :=
  roundBits f .rne neg (m * 2 ^ 200 - m * 2 ^ 120) (e - 200)

/-- Whether `m * 2^e` is a power of two, and its exponent. -/
def pow2? (m : Nat) (e : Int) : Option Int := if m = 2 ^ Nat.log2 m then some (e + Nat.log2 m) else none

/-- The integer `±m * 2^e`, if it is one. -/
def exactInt? (neg : Bool) (m : Nat) (e : Int) : Option Int :=
  if 0 ≤ e then some (sgn neg (m * 2 ^ e.toNat))
  else if m % 2 ^ (-e).toNat = 0 then some (sgn neg (m / 2 ^ (-e).toNat)) else none

/-- A function of a finite non-zero argument `±m * 2^e`, rounded once (R233, R234). -/
def fnFinite (f : FFmt) (fn : Fn) (neg : Bool) (m : Nat) (e : Int) : Nat :=
  let top : Int := e + (Nat.log2 m : Int)                     -- 2^top <= |x| < 2^(top+1)
  match fn with
  | .exp =>
    if 11 ≤ top then (if neg then 0 else f.infBits)
    else firstRound (fun p => (expOf neg m e p).round? f false) precisions
  | .exp2 =>
    if 11 ≤ top then (if neg then 0 else f.infBits)
    else match exactInt? neg m e with
      | some n => roundBits f .rne false 1 n
      | none => firstRound (fun p => (exp2Of neg m e p).round? f false) precisions
  | .log =>
    if neg then f.nan
    else match pow2? m e with
      | some 0 => 0
      | _ => firstRound (fun p =>
          (signEncl (lnFix m e (p + 96)) 65536 (-(p + 96 : Int))).bind (fun r => r.2.round? f r.1)) precisions
  | .log2 =>
    if neg then f.nan
    else match pow2? m e with
      | some n => roundInt f .rne n 0
      | none => firstRound (fun p =>
          let q := p + 96
          (signEncl (lnFix m e q * ((2 ^ q : Nat) : Int) / (ln2At q : Int)) (2 ^ 32) (-(q : Int))).bind
            (fun r => r.2.round? f r.1)) precisions
  | .sin =>
    if top < -40 then justBelow f neg m e
    else firstRound (fun p => (sinOf 0 neg m e p).bind (fun r => r.2.round? f r.1)) precisions
  | .cos =>
    if top < -40 then justBelow f false 1 0
    else firstRound (fun p => (sinOf 1 neg m e p).bind (fun r => r.2.round? f r.1)) precisions
  | .tanh =>
    if top < -40 then justBelow f neg m e
    else if 5 ≤ top then justBelow f neg 1 0
    else firstRound (fun p => (tanhOf m e p).round? f neg) precisions
  | .sigm =>
    if 11 ≤ top then (if neg then 0 else justBelow f false 1 0)
    else firstRound (fun p => (sigmOf neg m e p).round? f false) precisions
  | .rsqrt =>
    if neg then f.nan
    else match pow2? m e with
      | some n => if n % 2 = 0 then roundBits f .rne false 1 (-(n / 2))
        else firstRound (fun p => (rsqrtOf m e p).round? f false) precisions
      | none => firstRound (fun p => (rsqrtOf m e p).round? f false) precisions
  | .recip =>
    match pow2? m e with
    | some n => roundBits f .rne neg 1 (-n)
    | none => firstRound (fun p => (recipOf m e p).round? f neg) precisions
  | .erf =>
    if 3 ≤ top then justBelow f neg 1 0
    else firstRound (fun p => (erfOf m e p).round? f neg) precisions

/-- The words +1 and 1/2. -/
def oneBits (f : FFmt) : Nat := roundBits f .rne false 1 0
def halfBits (f : FFmt) : Nat := roundBits f .rne false 1 (-1)

/-- A function at a zero of sign `neg` (R233). -/
def fnZero (f : FFmt) (fn : Fn) (neg : Bool) : Nat :=
  let z := if neg then f.signBit else 0
  match fn with
  | .exp => oneBits f | .exp2 => oneBits f
  | .log => f.signBit + f.infBits | .log2 => f.signBit + f.infBits
  | .sin => z | .cos => oneBits f | .tanh => z | .sigm => halfBits f
  | .rsqrt => z + f.infBits | .recip => z + f.infBits | .erf => z

/-- A function at an infinity of sign `neg` (R233). -/
def fnInf (f : FFmt) (fn : Fn) (neg : Bool) : Nat :=
  let sb := if neg then f.signBit else 0
  match fn with
  | .exp => if neg then 0 else f.infBits
  | .exp2 => if neg then 0 else f.infBits
  | .log => if neg then f.nan else f.infBits
  | .log2 => if neg then f.nan else f.infBits
  | .sin => f.nan | .cos => f.nan
  | .tanh => sb + oneBits f
  | .sigm => if neg then 0 else oneBits f
  | .rsqrt => if neg then f.nan else 0
  | .recip => sb
  | .erf => sb + oneBits f

/-- The exact form of a function on a word of `f` (R233, R234). -/
def fnExact (f : FFmt) (fn : Fn) (w : Nat) : Nat :=
  match FVal.ofBits f w with
  | .nan => f.nan
  | .inf s => fnInf f fn s
  | .fin s m e => if m = 0 then fnZero f fn s else fnFinite f fn s m e

/-- The quick form on stepping A1: the exact bits for f32 and f64; the narrow types go through f32 (R236). -/
def fnQuick (f : FFmt) (fn : Fn) (w : Nat) : Nat :=
  match f with
  | .f64 => fnExact f fn w
  | .f32 => fnExact f fn w
  | _ =>
    let x := FVal.toBits .f32 .rne (FVal.ofBits f w)
    FVal.toBits f .rne (FVal.ofBits .f32 (fnExact .f32 fn x))

/-- A function in one of its forms (R232). -/
def fnEval (form : FnForm) (f : FFmt) (fn : Fn) (w : Nat) : Nat :=
  match form with
  | .q => fnQuick f fn w
  | .x => fnExact f fn w

/-! ## Shawm (R238) -/

/-- One round of Shawm. -/
def shawmRound (key : Nat) (x i : Nat) : Nat :=
  let ki := (key + i * 0x7F4A2C91E6D3B805) % 2 ^ 64
  let y := Nat.xor x ki * 0xC3A56E1D9B274F5B % 2 ^ 64
  Nat.xor y (y / 2 ^ 29)

/-- The Shawm function of a key and a counter (R238). -/
def shawm (key n : Nat) : Nat := [0, 1, 2, 3, 4, 5].foldl (shawmRound key) (n % 2 ^ 64)

end Sys2Proof
end

