-- ==== Sys2Proof/Machine/Vector.lean ====
section
/-! DEFINITION. The V slots (10_vector R205-R231): what each instruction brings to its bundle, and its meaning as the
whole transition of a bundle that holds it alone. `c` is the cluster of the slot. -/

namespace Sys2Proof.Machine

def vv (s : State) (c : Cluster) (n : VNo) : VReg := (me s).rv c n.toNat

/-- Lane `j` of width `w` as a number, and the register whose lanes are given as numbers. -/
def laneN (w : Nat) (v : VReg) (j : Nat) : Nat := (lane w j v).toNat
def ofLanesN (w : Nat) (f : Nat → Nat) : VReg := ofLanes w (fun j => BitVec.ofNat w (f j))

/-- What a V-slot instruction does under its predicate: it occupies its unit in every case, and lands nothing when the
predicate is false (R65, R208). -/
def underPred (s : State) (p : PNo) (u : VUnit) (ii : Nat) (m : Sem) : Sem :=
  if pv s p then { m with unit := some (u, ii) }
  else { illop := m.illop, unit := some (u, ii) }

/-- A result in a vector register of the slot's cluster. -/
def toV (lat : Nat) (e : Env) (c : Cluster) (d : VNo) (v : VReg) : Sem :=
  { eff := fly e.ph.inside lat (.v c d.toNat v) }

/-- An element-wise instruction: arithmetic unit, latency 6, interval 4 (R67). -/
def elementwise (e : Env) (s : State) (c : Cluster) (d : VNo) (p : PNo) (v : VReg) : Sem :=
  underPred s p (.arith c) 4 (toV 6 e c d v)

/-- A float lane, negated under the negate modifier (R208). -/
def fltLane (f : FFmt) (neg : Bool) (x : Nat) : FVal := if neg then (FVal.ofBits f x).neg else FVal.ofBits f x

/-- VADD, VSUB and VMUL of one lane: `op` 0, 1, 2 (R210). -/
def arithLane (t : VTy) (neg : Bool) (rnd : Rnd) (st : Bool) (op : Nat) (x y : Nat) : Nat :=
  match t.float? with
  | some f =>
    let a := fltLane f neg x
    let b := FVal.ofBits f y
    match op with
    | 0 => fAdd f rnd a b
    | 1 => fAdd f rnd a b.neg
    | _ => fMul f rnd a b
  | none =>
    let w := t.width
    let a := readI t.signed (BitVec.ofNat w x)
    let b := readI t.signed (BitVec.ofNat w y)
    (narrow st t.signed w (match op with | 0 => a + b | 1 => a - b | _ => a * b)).toNat

/-- A function of the lanes of two registers. -/
def lanes2 (t : VTy) (f : Nat → Nat → Nat) (a b : VReg) : VReg :=
  ofLanesN t.width (fun j => f (laneN t.width a j) (laneN t.width b j))
def lanes1 (t : VTy) (f : Nat → Nat) (a : VReg) : VReg := ofLanesN t.width (fun j => f (laneN t.width a j))

/-- VMIN and VMAX of one lane (R212, R32). -/
def minLane (t : VTy) (x y : Nat) : Nat :=
  match t.float? with
  | some f => fMin f x y
  | none => if laneI t t.width (BitVec.ofNat _ x) ≤ laneI t t.width (BitVec.ofNat _ y) then x else y
def maxLane (t : VTy) (x y : Nat) : Nat :=
  match t.float? with
  | some f => fMax f x y
  | none => if laneI t t.width (BitVec.ofNat _ x) ≤ laneI t t.width (BitVec.ofNat _ y) then y else x

/-- VABS of one lane: a float's sign bit clears; an integer wraps or saturates (R212). -/
def absLane (t : VTy) (st : Bool) (x : Nat) : Nat :=
  match t.float? with
  | some f => x % f.signBit
  | none => (narrow st true t.width (laneI t t.width (BitVec.ofNat _ x)).natAbs).toNat

/-- VADD (R210): the sum of every lane. -/
def semVadd (c : Cluster) (vd va vb : VNo) (p : PNo) (neg : Bool) (ty : VTy) (rnd : Rnd) (st : Bool) (e : Env) (s : State) : Sem :=
  elementwise e s c vd p (lanes2 ty (arithLane ty neg rnd st 0) (vv s c va) (vv s c vb))
/-- VADD (R210), alone in its bundle. -/
def execVadd (c : Cluster) (vd va vb : VNo) (p : PNo) (neg : Bool) (ty : VTy) (rnd : Rnd) (st : Bool) (s : State) : Host.Outcome State Fault Refusal :=
  issueAlone (.vadd c vd va vb p neg ty rnd st) (semVadd c vd va vb p neg ty rnd st) s

/-- VSUB (R210): the difference of every lane. -/
def semVsub (c : Cluster) (vd va vb : VNo) (p : PNo) (neg : Bool) (ty : VTy) (rnd : Rnd) (st : Bool) (e : Env) (s : State) : Sem :=
  elementwise e s c vd p (lanes2 ty (arithLane ty neg rnd st 1) (vv s c va) (vv s c vb))
/-- VSUB (R210), alone in its bundle. -/
def execVsub (c : Cluster) (vd va vb : VNo) (p : PNo) (neg : Bool) (ty : VTy) (rnd : Rnd) (st : Bool) (s : State) : Host.Outcome State Fault Refusal :=
  issueAlone (.vsub c vd va vb p neg ty rnd st) (semVsub c vd va vb p neg ty rnd st) s

/-- VMUL (R210): the product of every lane. -/
def semVmul (c : Cluster) (vd va vb : VNo) (p : PNo) (neg : Bool) (ty : VTy) (rnd : Rnd) (st : Bool) (e : Env) (s : State) : Sem :=
  elementwise e s c vd p (lanes2 ty (arithLane ty neg rnd st 2) (vv s c va) (vv s c vb))
/-- VMUL (R210), alone in its bundle. -/
def execVmul (c : Cluster) (vd va vb : VNo) (p : PNo) (neg : Bool) (ty : VTy) (rnd : Rnd) (st : Bool) (s : State) : Host.Outcome State Fault Refusal :=
  issueAlone (.vmul c vd va vb p neg ty rnd st) (semVmul c vd va vb p neg ty rnd st) s

/-- VFMA and VFMS: one rounding of the exact product and sum; arithmetic unit, latency 8, interval 4 (R211, R67). -/
def fused (e : Env) (s : State) (c : Cluster) (vd va vb vc : VNo) (p : PNo) (neg : Bool) (ty : VTy) (rnd : Rnd)
    (minus : Bool) : Sem :=
  let f := ty.float?.getD .f32
  let w := ty.width
  let a := vv s c va
  let b := vv s c vb
  let d := vv s c vc
  underPred s p (.arith c) 4 (toV 8 e c vd (ofLanesN w (fun j =>
    let z := FVal.ofBits f (laneN w d j)
    fFma f rnd (fltLane f neg (laneN w a j)) (FVal.ofBits f (laneN w b j)) (if minus then z.neg else z))))

/-- VFMA (R211): a times b plus c. -/
def semVfma (c : Cluster) (vd va vb vc : VNo) (p : PNo) (neg : Bool) (ty : VTy) (rnd : Rnd) (e : Env) (s : State) : Sem :=
  fused e s c vd va vb vc p neg ty rnd false
/-- VFMA (R211), alone in its bundle. -/
def execVfma (c : Cluster) (vd va vb vc : VNo) (p : PNo) (neg : Bool) (ty : VTy) (rnd : Rnd) (s : State) : Host.Outcome State Fault Refusal :=
  issueAlone (.vfma c vd va vb vc p neg ty rnd) (semVfma c vd va vb vc p neg ty rnd) s

/-- VFMS (R211): a times b minus c. -/
def semVfms (c : Cluster) (vd va vb vc : VNo) (p : PNo) (neg : Bool) (ty : VTy) (rnd : Rnd) (e : Env) (s : State) : Sem :=
  fused e s c vd va vb vc p neg ty rnd true
/-- VFMS (R211), alone in its bundle. -/
def execVfms (c : Cluster) (vd va vb vc : VNo) (p : PNo) (neg : Bool) (ty : VTy) (rnd : Rnd) (s : State) : Host.Outcome State Fault Refusal :=
  issueAlone (.vfms c vd va vb vc p neg ty rnd) (semVfms c vd va vb vc p neg ty rnd) s

/-- VMIN (R212): the minimum of every lane. -/
def semVmin (c : Cluster) (vd va vb : VNo) (p : PNo) (ty : VTy) (e : Env) (s : State) : Sem :=
  elementwise e s c vd p (lanes2 ty (minLane ty) (vv s c va) (vv s c vb))
/-- VMIN (R212), alone in its bundle. -/
def execVmin (c : Cluster) (vd va vb : VNo) (p : PNo) (ty : VTy) (s : State) : Host.Outcome State Fault Refusal :=
  issueAlone (.vmin c vd va vb p ty) (semVmin c vd va vb p ty) s

/-- VMAX (R212): the maximum of every lane. -/
def semVmax (c : Cluster) (vd va vb : VNo) (p : PNo) (ty : VTy) (e : Env) (s : State) : Sem :=
  elementwise e s c vd p (lanes2 ty (maxLane ty) (vv s c va) (vv s c vb))
/-- VMAX (R212), alone in its bundle. -/
def execVmax (c : Cluster) (vd va vb : VNo) (p : PNo) (ty : VTy) (s : State) : Host.Outcome State Fault Refusal :=
  issueAlone (.vmax c vd va vb p ty) (semVmax c vd va vb p ty) s

/-- VABS (R212): the absolute value of every lane. -/
def semVabs (c : Cluster) (vd va : VNo) (p : PNo) (ty : VTy) (st : Bool) (e : Env) (s : State) : Sem :=
  elementwise e s c vd p (lanes1 ty (absLane ty st) (vv s c va))
/-- VABS (R212), alone in its bundle. -/
def execVabs (c : Cluster) (vd va : VNo) (p : PNo) (ty : VTy) (st : Bool) (s : State) : Host.Outcome State Fault Refusal :=
  issueAlone (.vabs c vd va p ty st) (semVabs c vd va p ty st) s

/-- VCSGN (R212): the value of a with the sign bit of b. -/
def semVcsgn (c : Cluster) (vd va vb : VNo) (p : PNo) (ty : VTy) (e : Env) (s : State) : Sem :=
  let h := 2 ^ (ty.width - 1)
  elementwise e s c vd p (lanes2 ty (fun x y => x % h + y / h * h) (vv s c va) (vv s c vb))
/-- VCSGN (R212), alone in its bundle. -/
def execVcsgn (c : Cluster) (vd va vb : VNo) (p : PNo) (ty : VTy) (s : State) : Host.Outcome State Fault Refusal :=
  issueAlone (.vcsgn c vd va vb p ty) (semVcsgn c vd va vb p ty) s

/-- VMULH (R212): floor of the product over 2^w. -/
def semVmulh (c : Cluster) (vd va vb : VNo) (p : PNo) (ty : VTy) (e : Env) (s : State) : Sem :=
  let w := ty.width
  elementwise e s c vd p (lanes2 ty (fun x y =>
    (BitVec.ofInt w (laneI ty w (BitVec.ofNat w x) * laneI ty w (BitVec.ofNat w y) / 2 ^ w)).toNat) (vv s c va) (vv s c vb))
/-- VMULH (R212), alone in its bundle. -/
def execVmulh (c : Cluster) (vd va vb : VNo) (p : PNo) (ty : VTy) (s : State) : Host.Outcome State Fault Refusal :=
  issueAlone (.vmulh c vd va vb p ty) (semVmulh c vd va vb p ty) s

/-- VAND (R213): bit by bit. -/
def semVand (c : Cluster) (vd va vb : VNo) (p : PNo) (e : Env) (s : State) : Sem :=
  elementwise e s c vd p (vv s c va &&& vv s c vb)
/-- VAND (R213), alone in its bundle. -/
def execVand (c : Cluster) (vd va vb : VNo) (p : PNo) (s : State) : Host.Outcome State Fault Refusal :=
  issueAlone (.vand c vd va vb p) (semVand c vd va vb p) s

/-- VOR (R213): bit by bit. -/
def semVor (c : Cluster) (vd va vb : VNo) (p : PNo) (e : Env) (s : State) : Sem :=
  elementwise e s c vd p (vv s c va ||| vv s c vb)
/-- VOR (R213), alone in its bundle. -/
def execVor (c : Cluster) (vd va vb : VNo) (p : PNo) (s : State) : Host.Outcome State Fault Refusal :=
  issueAlone (.vor c vd va vb p) (semVor c vd va vb p) s

/-- VXOR (R213): bit by bit. -/
def semVxor (c : Cluster) (vd va vb : VNo) (p : PNo) (e : Env) (s : State) : Sem :=
  elementwise e s c vd p (vv s c va ^^^ vv s c vb)
/-- VXOR (R213), alone in its bundle. -/
def execVxor (c : Cluster) (vd va vb : VNo) (p : PNo) (s : State) : Host.Outcome State Fault Refusal :=
  issueAlone (.vxor c vd va vb p) (semVxor c vd va vb p) s

/-- VNOT (R213): the complement. -/
def semVnot (c : Cluster) (vd va : VNo) (p : PNo) (e : Env) (s : State) : Sem :=
  elementwise e s c vd p (~~~ vv s c va)
/-- VNOT (R213), alone in its bundle. -/
def execVnot (c : Cluster) (vd va : VNo) (p : PNo) (s : State) : Host.Outcome State Fault Refusal :=
  issueAlone (.vnot c vd va p) (semVnot c vd va p) s

/-- A shift of every lane: by the immediate, or by the low bits of the other operand's lane; an immediate of the width
or more raises ILLOP with reason 5 (R214). -/
def shiftSem (e : Env) (s : State) (c : Cluster) (vd va vb : VNo) (p : PNo) (ty : VTy) (i : Bool) (n : BitVec 6)
    (f : Nat → Nat → Nat) : Sem :=
  let w := ty.width
  { elementwise e s c vd p (lanes2 ty (fun x y => f x (if i then n.toNat else y % w)) (vv s c va) (vv s c vb)) with
    illop := i && decide (w ≤ n.toNat) }

/-- VSLL (R214): every lane times 2^sh. -/
def semVsll (c : Cluster) (vd va vb : VNo) (p : PNo) (ty : VTy) (i : Bool) (n : BitVec 6) (e : Env) (s : State) : Sem :=
  shiftSem e s c vd va vb p ty i n (fun x k => x * 2 ^ k)
/-- VSLL (R214), alone in its bundle. -/
def execVsll (c : Cluster) (vd va vb : VNo) (p : PNo) (ty : VTy) (i : Bool) (n : BitVec 6) (s : State) : Host.Outcome State Fault Refusal :=
  issueAlone (.vsll c vd va vb p ty i n) (semVsll c vd va vb p ty i n) s

/-- VSRL (R214): every lane, unsigned, shifted right. -/
def semVsrl (c : Cluster) (vd va vb : VNo) (p : PNo) (ty : VTy) (i : Bool) (n : BitVec 6) (e : Env) (s : State) : Sem :=
  shiftSem e s c vd va vb p ty i n (fun x k => x / 2 ^ k)
/-- VSRL (R214), alone in its bundle. -/
def execVsrl (c : Cluster) (vd va vb : VNo) (p : PNo) (ty : VTy) (i : Bool) (n : BitVec 6) (s : State) : Host.Outcome State Fault Refusal :=
  issueAlone (.vsrl c vd va vb p ty i n) (semVsrl c vd va vb p ty i n) s

/-- VSRA (R214): every lane, signed, shifted right. -/
def semVsra (c : Cluster) (vd va vb : VNo) (p : PNo) (ty : VTy) (i : Bool) (n : BitVec 6) (e : Env) (s : State) : Sem :=
  shiftSem e s c vd va vb p ty i n (fun x k => (BitVec.ofInt ty.width (sextI x ty.width / 2 ^ k)).toNat)
/-- VSRA (R214), alone in its bundle. -/
def execVsra (c : Cluster) (vd va vb : VNo) (p : PNo) (ty : VTy) (i : Bool) (n : BitVec 6) (s : State) : Host.Outcome State Fault Refusal :=
  issueAlone (.vsra c vd va vb p ty i n) (semVsra c vd va vb p ty i n) s

/-- VCMP (R216): a mask of the lanes that meet a condition, and whether any or all do; a code of 6 or above raises ILLOP with reason 5. -/
def semVcmp (c : Cluster) (vd va vb : VNo) (p : PNo) (ty : VTy) (cc : BitVec 4) (pd : PNo) (all : Bool) (e : Env) (s : State) : Sem :=
  let a := vv s c va
  let b := vv s c vb
  let k := cc.toNat
  let eff : State → State := fun t =>
    let t := fly e.ph.inside 6 (.v c vd.toNat (cmpMask ty k a b)) t
    if pd = 0 then t
    else fly e.ph.inside 6 (.p pd.toNat (if all then cmpAll ty k a b else cmpAny ty k a b)) t
  { underPred s p (.arith c) 4 { eff := eff } with illop := decide (6 ≤ k) }
/-- VCMP (R216), alone in its bundle. -/
def execVcmp (c : Cluster) (vd va vb : VNo) (p : PNo) (ty : VTy) (cc : BitVec 4) (pd : PNo) (all : Bool) (s : State) : Host.Outcome State Fault Refusal :=
  issueAlone (.vcmp c vd va vb p ty cc pd all) (semVcmp c vd va vb p ty cc pd all) s

/-- VSEL (R213): bits of a where c is set, of b elsewhere. -/
def semVsel (c : Cluster) (vd va vb vc : VNo) (p : PNo) (e : Env) (s : State) : Sem :=
  let m := vv s c vc
  elementwise e s c vd p ((vv s c va &&& m) ||| (vv s c vb &&& ~~~ m))
/-- VSEL (R213), alone in its bundle. -/
def execVsel (c : Cluster) (vd va vb vc : VNo) (p : PNo) (s : State) : Host.Outcome State Fault Refusal :=
  issueAlone (.vsel c vd va vb vc p) (semVsel c vd va vb vc p) s

/-- The source position of a destination position of VCVT, or none where the destination keeps its value (R217). -/
def cvtFrom (ws wd h j : Nat) : Option Nat :=
  if ws = wd then some j
  else if wd < ws then
    if ws = 64 then (if j % 64 / 32 = h then some (32 * (j / 64) + j % 32) else none)
    else
      let ps := 32 / ws
      let pd := 32 / wd
      if j % pd / ps = h then some (ps * (j / pd) + j % pd % ps) else none
  else if wd = 64 then some (64 * (j / 32) + 32 * h + j % 32)
  else
    let ps := 32 / ws
    let pd := 32 / wd
    some (ps * (j / pd) + h * pd + j % pd)

/-- One value converted (R218). -/
def cvtLane (src dst : VTy) (rnd : Rnd) (st : Bool) (x : Nat) : Nat :=
  match src.float?, dst.float? with
  | some f, some g => (FVal.ofBits f x).toBits g rnd
  | none, some g => roundInt g rnd (laneI src src.width (BitVec.ofNat _ x)) 0
  | some f, none => (BitVec.ofInt dst.width ((FVal.ofBits f x).toIntSat rnd dst.signed dst.width)).toNat
  | none, none => (narrow st dst.signed dst.width (laneI src src.width (BitVec.ofNat _ x))).toNat

/-- VCVT (R217, R218): conversion between types; a part that does not exist raises ILLOP with reason 5. -/
def semVcvt (c : Cluster) (vd va : VNo) (p : PNo) (ty : VTy) (rnd : Rnd) (src : VTy) (h : BitVec 2) (st : Bool) (e : Env) (s : State) : Sem :=
  let a := vv s c va
  let old := vv s c vd
  let ws := src.width
  let wd := ty.width
  { elementwise e s c vd p (ofLanesN wd (fun j =>
      match cvtFrom ws wd h.toNat j with
      | some i => cvtLane src ty rnd st (laneN ws a i)
      | none => laneN wd old j)) with
    illop := decide (max ws wd / min ws wd ≤ h.toNat) }
/-- VCVT (R217, R218), alone in its bundle. -/
def execVcvt (c : Cluster) (vd va : VNo) (p : PNo) (ty : VTy) (rnd : Rnd) (src : VTy) (h : BitVec 2) (st : Bool) (s : State) : Host.Outcome State Fault Refusal :=
  issueAlone (.vcvt c vd va p ty rnd src h st) (semVcvt c vd va p ty rnd src h st) s

/-- VCLZ (R215): leading zero bits of every lane. -/
def semVclz (c : Cluster) (vd va : VNo) (p : PNo) (ty : VTy) (e : Env) (s : State) : Sem :=
  elementwise e s c vd p (lanes1 ty (clz ty.width) (vv s c va))
/-- VCLZ (R215), alone in its bundle. -/
def execVclz (c : Cluster) (vd va : VNo) (p : PNo) (ty : VTy) (s : State) : Host.Outcome State Fault Refusal :=
  issueAlone (.vclz c vd va p ty) (semVclz c vd va p ty) s

/-- VPOPC (R215): one bits of every lane. -/
def semVpopc (c : Cluster) (vd va : VNo) (p : PNo) (ty : VTy) (e : Env) (s : State) : Sem :=
  elementwise e s c vd p (lanes1 ty (popc ty.width) (vv s c va))
/-- VPOPC (R215), alone in its bundle. -/
def execVpopc (c : Cluster) (vd va : VNo) (p : PNo) (ty : VTy) (s : State) : Host.Outcome State Fault Refusal :=
  issueAlone (.vpopc c vd va p ty) (semVpopc c vd va p ty) s

/-- VMOV (R213): a copy. -/
def semVmov (c : Cluster) (vd va : VNo) (p : PNo) (e : Env) (s : State) : Sem :=
  elementwise e s c vd p (vv s c va)
/-- VMOV (R213), alone in its bundle. -/
def execVmov (c : Cluster) (vd va : VNo) (p : PNo) (s : State) : Host.Outcome State Fault Refusal :=
  issueAlone (.vmov c vd va p) (semVmov c vd va p) s

/-- VSPLAT (R219): a scalar register in every lane. -/
def semVsplat (c : Cluster) (vd : VNo) (p : PNo) (ty : VTy) (xs : XNo) (e : Env) (s : State) : Sem :=
  elementwise e s c vd p (ofLanesN ty.width (fun _ => (xv s xs).toNat))
/-- VSPLAT (R219), alone in its bundle. -/
def execVsplat (c : Cluster) (vd : VNo) (p : PNo) (ty : VTy) (xs : XNo) (s : State) : Host.Outcome State Fault Refusal :=
  issueAlone (.vsplat c vd p ty xs) (semVsplat c vd p ty xs) s

/-- VIOTA (R219): a scalar register plus the linear index. -/
def semViota (c : Cluster) (vd : VNo) (p : PNo) (ty : VTy) (xs : XNo) (e : Env) (s : State) : Sem :=
  elementwise e s c vd p (ofLanesN ty.width (fun j => (xv s xs).toNat + j))
/-- VIOTA (R219), alone in its bundle. -/
def execViota (c : Cluster) (vd : VNo) (p : PNo) (ty : VTy) (xs : XNo) (s : State) : Host.Outcome State Fault Refusal :=
  issueAlone (.viota c vd p ty xs) (semViota c vd p ty xs) s

/-- The value VLI writes (R219). -/
def immLane (ty : VTy) (u : BitVec 16) : Nat :=
  match ty with
  | .i32 => (u.signExtend 32).toNat
  | .i64 => (u.signExtend 64).toNat
  | .f32 => u.toNat * 2 ^ 16
  | .f64 => u.toNat * 2 ^ 48
  | _ => u.toNat

/-- VLI (R219): an immediate in every lane. -/
def semVli (c : Cluster) (vd : VNo) (p : PNo) (ty : VTy) (imm : BitVec 16) (e : Env) (s : State) : Sem :=
  elementwise e s c vd p (ofLanesN ty.width (fun _ => immLane ty imm))
/-- VLI (R219), alone in its bundle. -/
def execVli (c : Cluster) (vd : VNo) (p : PNo) (ty : VTy) (imm : BitVec 16) (s : State) : Host.Outcome State Fault Refusal :=
  issueAlone (.vli c vd p ty imm) (semVli c vd p ty imm) s

/-! ## Movement along an axis (R220) -/

/-- Columns of a row: 64 elements, or 32 pairs. -/
def cols (ty : VTy) : Nat := if ty.width = 64 then 32 else 64

/-- A movement with its amount: the immediate, which must be below the axis length, or a register modulo it; permute
unit, interval 1 (R67, R220). -/
def moveSem (lat : Nat) (e : Env) (s : State) (c : Cluster) (vd va : VNo) (p : PNo) (ty : VTy) (len : Nat) (i : Bool)
    (n : BitVec 6) (xs : XNo) (f : Nat → Nat → Nat → Nat × Nat) : Sem :=
  let k := if i then n.toNat else (xv s xs).toNat % len
  let a := vv s c va
  let m := cols ty
  { underPred s p (.perm c) 1 (toV lat e c vd (ofLanesN ty.width (fun j =>
      let q := f k (j / m) (j % m)
      laneN ty.width a (m * q.1 + q.2)))) with
    illop := i && decide (len ≤ n.toNat) }

/-- VROTR (R220): rotates every row; lands after 6. -/
def semVrotr (c : Cluster) (vd va : VNo) (p : PNo) (ty : VTy) (i : Bool) (n : BitVec 6) (xs : XNo) (e : Env) (s : State) : Sem :=
  moveSem 6 e s c vd va p ty (cols ty) i n xs (fun k r q => (r, (q + cols ty - k) % cols ty))
/-- VROTR (R220), alone in its bundle. -/
def execVrotr (c : Cluster) (vd va : VNo) (p : PNo) (ty : VTy) (i : Bool) (n : BitVec 6) (xs : XNo) (s : State) : Host.Outcome State Fault Refusal :=
  issueAlone (.vrotr c vd va p ty i n xs) (semVrotr c vd va p ty i n xs) s

/-- VROTC (R220): rotates every column; lands after 3. -/
def semVrotc (c : Cluster) (vd va : VNo) (p : PNo) (ty : VTy) (i : Bool) (n : BitVec 6) (xs : XNo) (e : Env) (s : State) : Sem :=
  moveSem 3 e s c vd va p ty 16 i n xs (fun k r q => ((r + 16 - k) % 16, q))
/-- VROTC (R220), alone in its bundle. -/
def execVrotc (c : Cluster) (vd va : VNo) (p : PNo) (ty : VTy) (i : Bool) (n : BitVec 6) (xs : XNo) (s : State) : Host.Outcome State Fault Refusal :=
  issueAlone (.vrotc c vd va p ty i n xs) (semVrotc c vd va p ty i n xs) s

/-- VBCR (R220): one column in every column of its row; lands after 6. -/
def semVbcr (c : Cluster) (vd va : VNo) (p : PNo) (ty : VTy) (i : Bool) (n : BitVec 6) (xs : XNo) (e : Env) (s : State) : Sem :=
  moveSem 6 e s c vd va p ty (cols ty) i n xs (fun k r _ => (r, k))
/-- VBCR (R220), alone in its bundle. -/
def execVbcr (c : Cluster) (vd va : VNo) (p : PNo) (ty : VTy) (i : Bool) (n : BitVec 6) (xs : XNo) (s : State) : Host.Outcome State Fault Refusal :=
  issueAlone (.vbcr c vd va p ty i n xs) (semVbcr c vd va p ty i n xs) s

/-- VBCC (R220): one row in every row; lands after 3. -/
def semVbcc (c : Cluster) (vd va : VNo) (p : PNo) (ty : VTy) (i : Bool) (n : BitVec 6) (xs : XNo) (e : Env) (s : State) : Sem :=
  moveSem 3 e s c vd va p ty 16 i n xs (fun k _ q => (k, q))
/-- VBCC (R220), alone in its bundle. -/
def execVbcc (c : Cluster) (vd va : VNo) (p : PNo) (ty : VTy) (i : Bool) (n : BitVec 6) (xs : XNo) (s : State) : Host.Outcome State Fault Refusal :=
  issueAlone (.vbcc c vd va p ty i n xs) (semVbcc c vd va p ty i n xs) s

/-! ## Reductions and scans (R51, R52, R221, R222) -/

/-- One node: ADD, MIN, MAX, ADDS (R221). -/
def redNode (ty : VTy) (rnd : Rnd) (op : Nat) (x y : Nat) : Nat :=
  match op with
  | 0 => arithLane ty false rnd false 0 x y
  | 1 => minLane ty x y
  | 2 => maxLane ty x y
  | _ => arithLane ty false rnd true 0 x y

/-- The identity of an operation (R52, R222). -/
def redIdent (ty : VTy) (op : Nat) : Nat :=
  match op with
  | 1 => match ty.float? with
    | some f => f.infBits
    | none => if ty.signed then 2 ^ (ty.width - 1) - 1 else 2 ^ ty.width - 1
  | 2 => match ty.float? with
    | some f => f.signBit + f.infBits
    | none => if ty.signed then 2 ^ (ty.width - 1) else 0
  | _ => 0

/-- Values at one place of a 32-bit column; 1 for pairs. -/
def subs (ty : VTy) : Nat := if ty.width = 64 then 1 else 32 / ty.width

/-- Linear index of (row, column or pair, subelement) (R206). -/
def lam (ty : VTy) (r q k : Nat) : Nat := subs ty * (cols ty * r + q) + k

def log2Cols (ty : VTy) : Nat := if ty.width = 64 then 5 else 6

/-- A function of every row's values at one subelement position, applied to whole rows. -/
def byRows (ty : VTy) (f : List Nat → List Nat) (a : VReg) : VReg :=
  let m := cols ty
  let t := (upto 16).map (fun r => (upto (subs ty)).map (fun k =>
    f ((upto m).map (fun q => laneN ty.width a (lam ty r q k)))))
  ofLanesN ty.width (fun j =>
    let q := j / subs ty
    (((t.getD (q / m) []).getD (j % subs ty) []).getD (q % m) 0))

/-- The same for columns. -/
def byCols (ty : VTy) (f : List Nat → List Nat) (a : VReg) : VReg :=
  let m := cols ty
  let t := (upto (m * subs ty)).map (fun i =>
    f ((upto 16).map (fun r => laneN ty.width a (lam ty r (i / subs ty) (i % subs ty)))))
  ofLanesN ty.width (fun j => ((t.getD (j % (m * subs ty)) []).getD (j / (m * subs ty)) 0))

/-- A reduction gives its result in every place (R221). -/
def reduced (ty : VTy) (rnd : Rnd) (op levels : Nat) (l : List Nat) : List Nat :=
  List.replicate l.length (treeReduce (redNode ty rnd op) levels l)

/-- A scan (R222). -/
def scanned (ty : VTy) (rnd : Rnd) (op : Nat) (ex : Bool) (levels : Nat) (l : List Nat) : List Nat :=
  if ex then scanExcl (redNode ty rnd op) (redIdent ty op) levels l else scanIncl (redNode ty rnd op) levels 1 l

/-- ADDS on a float type raises ILLOP with reason 5 (R221). -/
def redSem (lat : Nat) (e : Env) (s : State) (c : Cluster) (vd : VNo) (p : PNo) (ty : VTy) (op : BitVec 2) (v : VReg) :
    Sem :=
  { underPred s p (.perm c) 1 (toV lat e c vd v) with illop := op == 3 && ty.isFloat }

/-- VREDR (R221): reduces along every row; lands after 12. -/
def semVredr (c : Cluster) (vd va : VNo) (p : PNo) (ty : VTy) (rnd : Rnd) (op : BitVec 2) (e : Env) (s : State) : Sem :=
  redSem 12 e s c vd p ty op (byRows ty (reduced ty rnd op.toNat (log2Cols ty)) (vv s c va))
/-- VREDR (R221), alone in its bundle. -/
def execVredr (c : Cluster) (vd va : VNo) (p : PNo) (ty : VTy) (rnd : Rnd) (op : BitVec 2) (s : State) : Host.Outcome State Fault Refusal :=
  issueAlone (.vredr c vd va p ty rnd op) (semVredr c vd va p ty rnd op) s

/-- VREDC (R221): reduces along every column; lands after 8. -/
def semVredc (c : Cluster) (vd va : VNo) (p : PNo) (ty : VTy) (rnd : Rnd) (op : BitVec 2) (e : Env) (s : State) : Sem :=
  redSem 8 e s c vd p ty op (byCols ty (reduced ty rnd op.toNat 4) (vv s c va))
/-- VREDC (R221), alone in its bundle. -/
def execVredc (c : Cluster) (vd va : VNo) (p : PNo) (ty : VTy) (rnd : Rnd) (op : BitVec 2) (s : State) : Host.Outcome State Fault Refusal :=
  issueAlone (.vredc c vd va p ty rnd op) (semVredc c vd va p ty rnd op) s

/-- VSCANR (R222): scans along every row; lands after 14. -/
def semVscanr (c : Cluster) (vd va : VNo) (p : PNo) (ty : VTy) (rnd : Rnd) (op : BitVec 2) (ex : Bool) (e : Env) (s : State) : Sem :=
  redSem 14 e s c vd p ty op (byRows ty (scanned ty rnd op.toNat ex (log2Cols ty)) (vv s c va))
/-- VSCANR (R222), alone in its bundle. -/
def execVscanr (c : Cluster) (vd va : VNo) (p : PNo) (ty : VTy) (rnd : Rnd) (op : BitVec 2) (ex : Bool) (s : State) : Host.Outcome State Fault Refusal :=
  issueAlone (.vscanr c vd va p ty rnd op ex) (semVscanr c vd va p ty rnd op ex) s

/-- VSCANC (R222): scans along every column; lands after 10. -/
def semVscanc (c : Cluster) (vd va : VNo) (p : PNo) (ty : VTy) (rnd : Rnd) (op : BitVec 2) (ex : Bool) (e : Env) (s : State) : Sem :=
  redSem 10 e s c vd p ty op (byCols ty (scanned ty rnd op.toNat ex 4) (vv s c va))
/-- VSCANC (R222), alone in its bundle. -/
def execVscanc (c : Cluster) (vd va : VNo) (p : PNo) (ty : VTy) (rnd : Rnd) (op : BitVec 2) (ex : Bool) (s : State) : Host.Outcome State Fault Refusal :=
  issueAlone (.vscanc c vd va p ty rnd op ex) (semVscanc c vd va p ty rnd op ex) s

/-- Insertion by a key: before the first element of a greater key. -/
def insertBy (k : Nat → Nat) (a : Nat) : List Nat → List Nat
  | [] => [a]
  | b :: r => if k a < k b then a :: b :: r else b :: insertBy k a r

/-- Ascending by a key; equal keys keep their order. -/
def sortBy (k : Nat → Nat) (l : List Nat) : List Nat := l.foldl (fun t a => insertBy k a t) []

/-- VCOMPACT (R223): packs the kept elements in the order of their identifiers, and counts them; lands after 16. -/
def semVcompact (c : Cluster) (vd va vb vc : VNo) (p : PNo) (xc : XNo) (e : Env) (s : State) : Sem :=
  let a := vv s c va
  let b := vv s c vb
  let ids := vv s c vc
  let kept := sortBy (laneN 32 ids) ((upto 1024).filter (fun l => laneN 32 b l != 0))
  let v := ofLanesN 32 (fun j => ((kept.drop j).head?.map (laneN 32 a)).getD 0)
  let eff : State → State := fun t =>
    fly e.ph.inside 16 (.x xc.toNat (n64 kept.length)) (fly e.ph.inside 16 (.v c vd.toNat v) t)
  underPred s p (.perm c) 1 { eff := eff }
/-- VCOMPACT (R223), alone in its bundle. -/
def execVcompact (c : Cluster) (vd va vb vc : VNo) (p : PNo) (xc : XNo) (s : State) : Host.Outcome State Fault Refusal :=
  issueAlone (.vcompact c vd va vb vc p xc) (semVcompact c vd va vb vc p xc) s

/-- VEXT (R224): one element into a scalar register, landing after 6; a pair of 32 or more raises ILLOP with reason 5. -/
def semVext (c : Cluster) (va : VNo) (p : PNo) (ty : VTy) (xd : XNo) (row : BitVec 4) (col : BitVec 6) (e : Env) (s : State) : Sem :=
  let v := laneN ty.width (vv s c va) (cols ty * row.toNat + col.toNat)
  { underPred s p (.perm c) 1 (toX 6 e xd (if ty.signed then w64 (sextI v ty.width) else n64 v)) with
    illop := decide (cols ty ≤ col.toNat) }
/-- VEXT (R224), alone in its bundle. -/
def execVext (c : Cluster) (va : VNo) (p : PNo) (ty : VTy) (xd : XNo) (row : BitVec 4) (col : BitVec 6) (s : State) : Host.Outcome State Fault Refusal :=
  issueAlone (.vext c va p ty xd row col) (semVext c va p ty xd row col) s

/-! ## Vector loads and stores (R225, R226, R228) -/

/-- The sixteen rows of an access. -/
def accessRows (s : State) (xb xs : XNo) (off : BitVec 16) : List Nat :=
  vecRows (xv s xb) off (if xs = 0 then 256 else (xv s xs).toNat)

/-- A register from its byte image, and the bytes of its row `r` (R205). -/
def vregOf (bs : List Byte) : VReg := BitVec.ofNat 32768 (leNat bs)
def vregRow (v : VReg) (r : Nat) : List Byte := leBytes 256 (v.extractLsb' (2048 * r) 2048).toNat

/-- Byte `b` of row `r` belongs to a value whose mask lane is not zero (R226). -/
def maskByte (ty : VTy) (m : VReg) (r b : Nat) : Bool := laneN ty.width m ((256 * r + b) / (ty.width / 8)) != 0

/-- VLD (R225, R226, R228): sixteen rows of the scratchpad, landing after 6; poison traps or cancels the phase. -/
def semVld (c : Cluster) (vd : VNo) (p : PNo) (xb xs : XNo) (off : BitVec 16) (e : Env) (s : State) : Sem :=
  let k := me s
  let rows := accessRows s xb xs off
  let m := underPred s p (.mem c) 4 { toV 6 e c vd (vregOf ((rows.map (fun a => k.sp.readN a 256)).flatten)) with
    late := match rows.findSome? (fun a => k.poisonIn a 256) with
      | some a => [latePoison e.ph.inside 2 a c.slot]
      | none => [] }
  { m with illop := rows.any badRow }
/-- VLD (R225, R226, R228), alone in its bundle. -/
def execVld (c : Cluster) (vd : VNo) (p : PNo) (xb xs : XNo) (off : BitVec 16) (s : State) : Host.Outcome State Fault Refusal :=
  issueAlone (.vld c vd p xb xs off) (semVld c vd p xb xs off) s

/-- VST (R225, R226, R228): sixteen rows to the scratchpad, under a mask or whole; lands after 6, or after 7 when a mask selects 8- or 16-bit values. -/
def semVst (c : Cluster) (va vc : VNo) (p : PNo) (ty : VTy) (mk : Bool) (xb xs : XNo) (off : BitVec 16) (e : Env) (s : State) : Sem :=
  let rows := accessRows s xb xs off
  let v := vv s c va
  let msk := vv s c vc
  let sub := mk && decide (ty.width < 32)
  let bytes (r : Nat) : List (Option Byte) :=
    if mk then (vregRow v r).zipWith (fun b i => if maskByte ty msk r i then some b else none) (upto 256)
    else (vregRow v r).map some
  let store : Landing := .mem (rows.zipWith (fun a r => (a, bytes r)) (upto 16)) sub
  let m := underPred s p (.mem c) 4 { eff := fly e.ph.inside (if sub then 7 else 6) store }
  { m with illop := rows.any badRow }
/-- VST (R225, R226, R228), alone in its bundle. -/
def execVst (c : Cluster) (va vc : VNo) (p : PNo) (ty : VTy) (mk : Bool) (xb xs : XNo) (off : BitVec 16) (s : State) : Host.Outcome State Fault Refusal :=
  issueAlone (.vst c va vc p ty mk xb xs off) (semVst c va vc p ty mk xb xs off) s

/-- XMV (R229): a register copied into the other cluster, landing after 1; move unit, interval 4. -/
def semXmv (c : Cluster) (vd va : VNo) (p : PNo) (e : Env) (s : State) : Sem :=
  underPred s p (.move c) 4 (toV 1 e c.other vd (vv s c va))
/-- XMV (R229), alone in its bundle. -/
def execXmv (c : Cluster) (vd va : VNo) (p : PNo) (s : State) : Host.Outcome State Fault Refusal :=
  issueAlone (.xmv c vd va p) (semXmv c vd va p) s

end Sys2Proof.Machine
end

