-- ==== Sys2Proof/Machine/Func.lean ====
section
/-! DEFINITION. The function units (11_function R232-R240): the quick and exact functions and the Shawm generator. -/

namespace Sys2Proof.Machine

/-- A function of every lane: function unit, interval 1, latency 10 for a quick form and 20 for an exact one (R237). -/
def fnSem (form : FnForm) (fn : Fn) (e : Env) (s : State) (c : Cluster) (vd va : VNo) (p : PNo) (ty : VTy) : Sem :=
  let f := ty.float?.getD .f32
  underPred s p (.func c) 1 (toV (match form with | .q => 10 | .x => 20) e c vd
    (lanes1 ty (fnEval form f fn) (vv s c va)))

/-- VEXP.Q (R232): the quick form. -/
def semVexpQ (c : Cluster) (vd va : VNo) (p : PNo) (ty : VTy) (e : Env) (s : State) : Sem :=
  fnSem .q .exp e s c vd va p ty
/-- VEXP.Q (R232), alone in its bundle. -/
def execVexpQ (c : Cluster) (vd va : VNo) (p : PNo) (ty : VTy) (s : State) : Host.Outcome State Fault Refusal :=
  issueAlone (.vexpQ c vd va p ty) (semVexpQ c vd va p ty) s

/-- VEXP.X (R232): the exact form. -/
def semVexpX (c : Cluster) (vd va : VNo) (p : PNo) (ty : VTy) (e : Env) (s : State) : Sem :=
  fnSem .x .exp e s c vd va p ty
/-- VEXP.X (R232), alone in its bundle. -/
def execVexpX (c : Cluster) (vd va : VNo) (p : PNo) (ty : VTy) (s : State) : Host.Outcome State Fault Refusal :=
  issueAlone (.vexpX c vd va p ty) (semVexpX c vd va p ty) s

/-- VEXP2.Q (R232): the quick form. -/
def semVexp2Q (c : Cluster) (vd va : VNo) (p : PNo) (ty : VTy) (e : Env) (s : State) : Sem :=
  fnSem .q .exp2 e s c vd va p ty
/-- VEXP2.Q (R232), alone in its bundle. -/
def execVexp2Q (c : Cluster) (vd va : VNo) (p : PNo) (ty : VTy) (s : State) : Host.Outcome State Fault Refusal :=
  issueAlone (.vexp2Q c vd va p ty) (semVexp2Q c vd va p ty) s

/-- VEXP2.X (R232): the exact form. -/
def semVexp2X (c : Cluster) (vd va : VNo) (p : PNo) (ty : VTy) (e : Env) (s : State) : Sem :=
  fnSem .x .exp2 e s c vd va p ty
/-- VEXP2.X (R232), alone in its bundle. -/
def execVexp2X (c : Cluster) (vd va : VNo) (p : PNo) (ty : VTy) (s : State) : Host.Outcome State Fault Refusal :=
  issueAlone (.vexp2X c vd va p ty) (semVexp2X c vd va p ty) s

/-- VLOG.Q (R232): the quick form. -/
def semVlogQ (c : Cluster) (vd va : VNo) (p : PNo) (ty : VTy) (e : Env) (s : State) : Sem :=
  fnSem .q .log e s c vd va p ty
/-- VLOG.Q (R232), alone in its bundle. -/
def execVlogQ (c : Cluster) (vd va : VNo) (p : PNo) (ty : VTy) (s : State) : Host.Outcome State Fault Refusal :=
  issueAlone (.vlogQ c vd va p ty) (semVlogQ c vd va p ty) s

/-- VLOG.X (R232): the exact form. -/
def semVlogX (c : Cluster) (vd va : VNo) (p : PNo) (ty : VTy) (e : Env) (s : State) : Sem :=
  fnSem .x .log e s c vd va p ty
/-- VLOG.X (R232), alone in its bundle. -/
def execVlogX (c : Cluster) (vd va : VNo) (p : PNo) (ty : VTy) (s : State) : Host.Outcome State Fault Refusal :=
  issueAlone (.vlogX c vd va p ty) (semVlogX c vd va p ty) s

/-- VLOG2.Q (R232): the quick form. -/
def semVlog2Q (c : Cluster) (vd va : VNo) (p : PNo) (ty : VTy) (e : Env) (s : State) : Sem :=
  fnSem .q .log2 e s c vd va p ty
/-- VLOG2.Q (R232), alone in its bundle. -/
def execVlog2Q (c : Cluster) (vd va : VNo) (p : PNo) (ty : VTy) (s : State) : Host.Outcome State Fault Refusal :=
  issueAlone (.vlog2Q c vd va p ty) (semVlog2Q c vd va p ty) s

/-- VLOG2.X (R232): the exact form. -/
def semVlog2X (c : Cluster) (vd va : VNo) (p : PNo) (ty : VTy) (e : Env) (s : State) : Sem :=
  fnSem .x .log2 e s c vd va p ty
/-- VLOG2.X (R232), alone in its bundle. -/
def execVlog2X (c : Cluster) (vd va : VNo) (p : PNo) (ty : VTy) (s : State) : Host.Outcome State Fault Refusal :=
  issueAlone (.vlog2X c vd va p ty) (semVlog2X c vd va p ty) s

/-- VSIN.Q (R232): the quick form. -/
def semVsinQ (c : Cluster) (vd va : VNo) (p : PNo) (ty : VTy) (e : Env) (s : State) : Sem :=
  fnSem .q .sin e s c vd va p ty
/-- VSIN.Q (R232), alone in its bundle. -/
def execVsinQ (c : Cluster) (vd va : VNo) (p : PNo) (ty : VTy) (s : State) : Host.Outcome State Fault Refusal :=
  issueAlone (.vsinQ c vd va p ty) (semVsinQ c vd va p ty) s

/-- VSIN.X (R232): the exact form. -/
def semVsinX (c : Cluster) (vd va : VNo) (p : PNo) (ty : VTy) (e : Env) (s : State) : Sem :=
  fnSem .x .sin e s c vd va p ty
/-- VSIN.X (R232), alone in its bundle. -/
def execVsinX (c : Cluster) (vd va : VNo) (p : PNo) (ty : VTy) (s : State) : Host.Outcome State Fault Refusal :=
  issueAlone (.vsinX c vd va p ty) (semVsinX c vd va p ty) s

/-- VCOS.Q (R232): the quick form. -/
def semVcosQ (c : Cluster) (vd va : VNo) (p : PNo) (ty : VTy) (e : Env) (s : State) : Sem :=
  fnSem .q .cos e s c vd va p ty
/-- VCOS.Q (R232), alone in its bundle. -/
def execVcosQ (c : Cluster) (vd va : VNo) (p : PNo) (ty : VTy) (s : State) : Host.Outcome State Fault Refusal :=
  issueAlone (.vcosQ c vd va p ty) (semVcosQ c vd va p ty) s

/-- VCOS.X (R232): the exact form. -/
def semVcosX (c : Cluster) (vd va : VNo) (p : PNo) (ty : VTy) (e : Env) (s : State) : Sem :=
  fnSem .x .cos e s c vd va p ty
/-- VCOS.X (R232), alone in its bundle. -/
def execVcosX (c : Cluster) (vd va : VNo) (p : PNo) (ty : VTy) (s : State) : Host.Outcome State Fault Refusal :=
  issueAlone (.vcosX c vd va p ty) (semVcosX c vd va p ty) s

/-- VTANH.Q (R232): the quick form. -/
def semVtanhQ (c : Cluster) (vd va : VNo) (p : PNo) (ty : VTy) (e : Env) (s : State) : Sem :=
  fnSem .q .tanh e s c vd va p ty
/-- VTANH.Q (R232), alone in its bundle. -/
def execVtanhQ (c : Cluster) (vd va : VNo) (p : PNo) (ty : VTy) (s : State) : Host.Outcome State Fault Refusal :=
  issueAlone (.vtanhQ c vd va p ty) (semVtanhQ c vd va p ty) s

/-- VTANH.X (R232): the exact form. -/
def semVtanhX (c : Cluster) (vd va : VNo) (p : PNo) (ty : VTy) (e : Env) (s : State) : Sem :=
  fnSem .x .tanh e s c vd va p ty
/-- VTANH.X (R232), alone in its bundle. -/
def execVtanhX (c : Cluster) (vd va : VNo) (p : PNo) (ty : VTy) (s : State) : Host.Outcome State Fault Refusal :=
  issueAlone (.vtanhX c vd va p ty) (semVtanhX c vd va p ty) s

/-- VSIGM.Q (R232): the quick form. -/
def semVsigmQ (c : Cluster) (vd va : VNo) (p : PNo) (ty : VTy) (e : Env) (s : State) : Sem :=
  fnSem .q .sigm e s c vd va p ty
/-- VSIGM.Q (R232), alone in its bundle. -/
def execVsigmQ (c : Cluster) (vd va : VNo) (p : PNo) (ty : VTy) (s : State) : Host.Outcome State Fault Refusal :=
  issueAlone (.vsigmQ c vd va p ty) (semVsigmQ c vd va p ty) s

/-- VSIGM.X (R232): the exact form. -/
def semVsigmX (c : Cluster) (vd va : VNo) (p : PNo) (ty : VTy) (e : Env) (s : State) : Sem :=
  fnSem .x .sigm e s c vd va p ty
/-- VSIGM.X (R232), alone in its bundle. -/
def execVsigmX (c : Cluster) (vd va : VNo) (p : PNo) (ty : VTy) (s : State) : Host.Outcome State Fault Refusal :=
  issueAlone (.vsigmX c vd va p ty) (semVsigmX c vd va p ty) s

/-- VRSQRT.Q (R232): the quick form. -/
def semVrsqrtQ (c : Cluster) (vd va : VNo) (p : PNo) (ty : VTy) (e : Env) (s : State) : Sem :=
  fnSem .q .rsqrt e s c vd va p ty
/-- VRSQRT.Q (R232), alone in its bundle. -/
def execVrsqrtQ (c : Cluster) (vd va : VNo) (p : PNo) (ty : VTy) (s : State) : Host.Outcome State Fault Refusal :=
  issueAlone (.vrsqrtQ c vd va p ty) (semVrsqrtQ c vd va p ty) s

/-- VRSQRT.X (R232): the exact form. -/
def semVrsqrtX (c : Cluster) (vd va : VNo) (p : PNo) (ty : VTy) (e : Env) (s : State) : Sem :=
  fnSem .x .rsqrt e s c vd va p ty
/-- VRSQRT.X (R232), alone in its bundle. -/
def execVrsqrtX (c : Cluster) (vd va : VNo) (p : PNo) (ty : VTy) (s : State) : Host.Outcome State Fault Refusal :=
  issueAlone (.vrsqrtX c vd va p ty) (semVrsqrtX c vd va p ty) s

/-- VRECIP.Q (R232): the quick form. -/
def semVrecipQ (c : Cluster) (vd va : VNo) (p : PNo) (ty : VTy) (e : Env) (s : State) : Sem :=
  fnSem .q .recip e s c vd va p ty
/-- VRECIP.Q (R232), alone in its bundle. -/
def execVrecipQ (c : Cluster) (vd va : VNo) (p : PNo) (ty : VTy) (s : State) : Host.Outcome State Fault Refusal :=
  issueAlone (.vrecipQ c vd va p ty) (semVrecipQ c vd va p ty) s

/-- VRECIP.X (R232): the exact form. -/
def semVrecipX (c : Cluster) (vd va : VNo) (p : PNo) (ty : VTy) (e : Env) (s : State) : Sem :=
  fnSem .x .recip e s c vd va p ty
/-- VRECIP.X (R232), alone in its bundle. -/
def execVrecipX (c : Cluster) (vd va : VNo) (p : PNo) (ty : VTy) (s : State) : Host.Outcome State Fault Refusal :=
  issueAlone (.vrecipX c vd va p ty) (semVrecipX c vd va p ty) s

/-- VERF.Q (R232): the quick form. -/
def semVerfQ (c : Cluster) (vd va : VNo) (p : PNo) (ty : VTy) (e : Env) (s : State) : Sem :=
  fnSem .q .erf e s c vd va p ty
/-- VERF.Q (R232), alone in its bundle. -/
def execVerfQ (c : Cluster) (vd va : VNo) (p : PNo) (ty : VTy) (s : State) : Host.Outcome State Fault Refusal :=
  issueAlone (.verfQ c vd va p ty) (semVerfQ c vd va p ty) s

/-- VERF.X (R232): the exact form. -/
def semVerfX (c : Cluster) (vd va : VNo) (p : PNo) (ty : VTy) (e : Env) (s : State) : Sem :=
  fnSem .x .erf e s c vd va p ty
/-- VERF.X (R232), alone in its bundle. -/
def execVerfX (c : Cluster) (vd va : VNo) (p : PNo) (ty : VTy) (s : State) : Host.Outcome State Fault Refusal :=
  issueAlone (.verfX c vd va p ty) (semVerfX c vd va p ty) s

/-- The generator's 64-bit value for every lane (R240). -/
def shawmLanes (s : State) (c : Cluster) (va : VNo) (v : Bool) (xc xk : XNo) (f : Nat → Nat) : VReg :=
  let a := vv s c va
  ofLanesN 32 (fun j => f (shawm (xv s xk).toNat ((xv s xc).toNat + (if v then laneN 32 a j else j))))

/-- VSHAWM (R240): the high word of the generator for every lane, landing after 12. -/
def semVshawm (c : Cluster) (vd va : VNo) (p : PNo) (v : Bool) (xc xk : XNo) (e : Env) (s : State) : Sem :=
  underPred s p (.func c) 1 (toV 12 e c vd (shawmLanes s c va v xc xk (fun h => h / 2 ^ 32)))
/-- VSHAWM (R240), alone in its bundle. -/
def execVshawm (c : Cluster) (vd va : VNo) (p : PNo) (v : Bool) (xc xk : XNo) (s : State) : Host.Outcome State Fault Refusal :=
  issueAlone (.vshawm c vd va p v xc xk) (semVshawm c vd va p v xc xk) s

/-- VSHAWMF (R240): a float in [0, 1) from the high 24 bits, landing after 12. -/
def semVshawmf (c : Cluster) (vd va : VNo) (p : PNo) (v : Bool) (xc xk : XNo) (e : Env) (s : State) : Sem :=
  underPred s p (.func c) 1 (toV 12 e c vd (shawmLanes s c va v xc xk (fun h => roundInt .f32 .rne ((h / 2 ^ 40 : Nat) : Int) (-24))))
/-- VSHAWMF (R240), alone in its bundle. -/
def execVshawmf (c : Cluster) (vd va : VNo) (p : PNo) (v : Bool) (xc xk : XNo) (s : State) : Host.Outcome State Fault Refusal :=
  issueAlone (.vshawmf c vd va p v xc xk) (semVshawmf c vd va p v xc xk) s

end Sys2Proof.Machine
end

