-- ==== Sys2Proof/Machine/Rank.lean ====
section
/-! DEFINITION. The rank stream in the VB slot (13_rank R268-R274): ranking, reconstruction and the attenuation table. -/

namespace Sys2Proof.Machine

/-- Column `c` precedes column `d` in the rank order (R269). -/
def precedes (ty : VTy) (x y : Nat) (c d : Nat) : Bool :=
  match ty.float? with
  | some f =>
    let a := FVal.ofBits f x
    let b := FVal.ofBits f y
    if a.isNan || b.isNan then (!a.isNan && b.isNan) || (a.isNan && b.isNan && decide (c < d))
    else fLt b a || (fEq a b && decide (c < d))
  | none =>
    let a := laneI ty 32 (BitVec.ofNat 32 x)
    let b := laneI ty 32 (BitVec.ofNat 32 y)
    decide (b < a) || (a == b && decide (c < d))

/-- Insertion of a column before the first that it precedes. -/
def rankInsert (ty : VTy) (v : Nat → Nat) (c : Nat) : List Nat → List Nat
  | [] => [c]
  | d :: r => if precedes ty (v c) (v d) c d then c :: d :: r else d :: rankInsert ty v c r

/-- The 64 columns of a row in rank order. -/
def rankOrder (ty : VTy) (v : Nat → Nat) : List Nat := (upto 64).foldl (fun l c => rankInsert ty v c l) []

/-- A value at or above the threshold (R272). -/
def atLeast (ty : VTy) (x th : Nat) : Bool :=
  match ty.float? with
  | some f => fLe (FVal.ofBits f th) (FVal.ofBits f x)
  | none => decide (laneI ty 32 (BitVec.ofNat 32 th) ≤ laneI ty 32 (BitVec.ofNat 32 x))

/-- The 64 words of a row of a rank register that keeps `n` positions (R270). -/
def rankRow (ord : List Nat) (n : Nat) : List Nat :=
  let bytes := (upto 64).map (fun q => if q < n then ord.getD q 0 else 0xFF)
  (upto 64).map (fun c =>
    if c < 16 then sumN 4 (fun i => bytes.getD (4 * c + i) 0 * 2 ^ (8 * i)) else if c = 16 then n else 0)

/-- A rank register from the ranking of every row. -/
def ranked (ty : VTy) (a : VReg) (count : (Nat → Nat) → Nat) : VReg :=
  let rows := (upto 16).map (fun r =>
    let v := fun c => laneN 32 a (64 * r + c)
    rankRow (rankOrder ty v) (count v))
  ofLanesN 32 (fun j => (rows.getD (j / 64) []).getD (j % 64) 0)

/-- Rank bytes of row `r` of a rank register, and its cut-off (R270). -/
def rankBytes (a : VReg) (r : Nat) : List Nat := (upto 64).map (fun q => laneN 8 a (256 * r + q))
def cutOf (bs : List Nat) : Nat := (bs.takeWhile (fun b => decide (b < 0x40))).length

/-- RANK (R271, R272): the first k columns of every row in rank order, landing after 24; a k of 0 or above 64 raises ILLOP with reason 5. -/
def semRank (vd va : VNo) (p : PNo) (ty : VTy) (k : BitVec 7) (e : Env) (s : State) : Sem :=
  { underPred s p .zig 1 (toV 24 e .b vd (ranked ty (vv s .b va) (fun _ => k.toNat))) with
    illop := k == 0 || decide (64 < k.toNat) }
/-- RANK (R271, R272), alone in its bundle. -/
def execRank (vd va : VNo) (p : PNo) (ty : VTy) (k : BitVec 7) (s : State) : Host.Outcome State Fault Refusal :=
  issueAlone (.rank vd va p ty k) (semRank vd va p ty k) s

/-- RANKT (R271, R272): as RANK, keeping at most the columns at or above a threshold. -/
def semRankt (vd va : VNo) (p : PNo) (ty : VTy) (k : BitVec 7) (xt : XNo) (e : Env) (s : State) : Sem :=
  let th := (xv s xt).toNat % 2 ^ 32
  { underPred s p .zig 1 (toV 24 e .b vd (ranked ty (vv s .b va) (fun v =>
      min k.toNat ((upto 64).filter (fun c => atLeast ty (v c) th)).length))) with
    illop := k == 0 || decide (64 < k.toNat) }
/-- RANKT (R271, R272), alone in its bundle. -/
def execRankt (vd va : VNo) (p : PNo) (ty : VTy) (k : BitVec 7) (xt : XNo) (s : State) : Host.Outcome State Fault Refusal :=
  issueAlone (.rankt vd va p ty k xt) (semRankt vd va p ty k xt) s

/-- Entry `j` of ATT (R273). -/
def attAt (t : BitVec 2048) (j : Nat) : Nat := (t.extractLsb' (32 * j) 32).toNat

/-- The weight of the lowest position below the cut-off that holds column `c` (R274). -/
def weightOf (t : BitVec 2048) (bs : List Nat) (c : Nat) : Option Nat :=
  ((bs.take (cutOf bs)).findIdx? (fun b => b == c)).map (attAt t)

/-- RVAL (R274): weights at their original columns, and a fill elsewhere; lands after 6. -/
def semRval (vd va : VNo) (p : PNo) (xf : XNo) (e : Env) (s : State) : Sem :=
  let a := vv s .b va
  let t := (me s).att
  let fill := (xv s xf).toNat
  let rows := (upto 16).map (fun r => let bs := rankBytes a r; (upto 64).map (fun c => (weightOf t bs c).getD fill))
  underPred s p .zig 1 (toV 6 e .b vd (ofLanesN 32 (fun j => (rows.getD (j / 64) []).getD (j % 64) 0)))
/-- RVAL (R274), alone in its bundle. -/
def execRval (vd va : VNo) (p : PNo) (xf : XNo) (s : State) : Host.Outcome State Fault Refusal :=
  issueAlone (.rval vd va p xf) (semRval vd va p xf) s

/-- VATT (R273): a row becomes the attenuation table, landing after 6. -/
def semVatt (va : VNo) (p : PNo) (row : BitVec 4) (e : Env) (s : State) : Sem :=
  underPred s p .zig 1 { eff := fly e.ph.inside 6 (.att ((vv s .b va).extractLsb' (2048 * row.toNat) 2048)) }
/-- VATT (R273), alone in its bundle. -/
def execVatt (va : VNo) (p : PNo) (row : BitVec 4) (s : State) : Host.Outcome State Fault Refusal :=
  issueAlone (.vatt va p row) (semVatt va p row) s

end Sys2Proof.Machine
end

