-- ==== Sys2Proof/Machine/Matrix.lean ====
section
/-! DEFINITION. The M slot (12_tile R250-R267, 13_rank R275-R277): the matrix operations. Each computes its results from
the operands as they stand at its issue and hands them to the engine, which writes them when it is done. -/

namespace Sys2Proof.Machine

/-! ## Operands -/

/-- The bank format that a precision code names (R82). -/
def precFmt (code : Nat) : BFmt :=
  match code with
  | 0 => .f64 | 1 => .f32 | 2 => .f16 | 3 => .bf16 | 4 => .i8 | 5 => .n8 | 6 => .i16 | 7 => .b1
  | _ => .pni

/-- Planes that a PNI precision code reads (R82). -/
def planesOf (code : Nat) : Nat := code - 6

/-- The numeric value of an element. -/
def ElVal.num : ElVal → FVal
  | .flt v => v
  | .int v => .fin (decide (v < 0)) v.natAbs 0

/-- An element read as an integer at `p` planes (R39). -/
def plInt (v p : Nat) : Int := pniValue (BitVec.ofNat 8 v) p

/-- The first `n` rows of a tile, as they stand. -/
def Core.rowsOf (c : Core) (t : Win) (n : Nat) : List (List Byte) := (upto n).map (fun j => c.rowBytes t j t.len)

/-- Bytes of a row that element `e` takes when `p` planes are read: offset and count. -/
def elBytes (f : BFmt) (cap p e : Nat) : List (Nat × Nat) :=
  match f with
  | .pni => (upto p).map (fun j => ((cap * j + e) / 8, 1))
  | .b1 => [(e / 8, 1)]
  | _ => [(f.bytes * e, f.bytes)]

/-- The first poisoned word among the bytes of elements of row `j` of a tile. -/
def Core.badEls (c : Core) (t : Win) (f : BFmt) (p j : Nat) (els : List Nat) : Option Nat :=
  match c.poisonIn (t.row j) t.len with
  | none => none
  | some _ => ((els.map (elBytes f (rowCap f t.len) p)).flatten).findSome? (fun r => c.poisonIn (t.row j + r.1) r.2)

/-- The first error among those found, in the order of a list. -/
def firstBad (l : List (Option Nat)) : Option Nat := l.findSome? id

/-! ## Handing an operation to the engine (R250, R252, R263) -/

/-- What an M-slot instruction asks of the engine. -/
structure Plan where
  reads : List Obj := []
  writes : List Obj := []
  rbanks : List Nat := []
  wbanks : List Nat := []
  acc : Option (Nat × List (Nat × AccEl)) := none
  land : List (Nat × List (Option Byte)) := []
  bits : List (Nat × Nat × Byte × Byte) := []
  bad : Option Nat := none
  kchk : Option Bool := none

/-- The objects that it reads, each once, and does not write (R69). -/
def Plan.readObjs (p : Plan) : List Obj :=
  p.reads.foldl (fun l o => if p.writes.contains o || l.contains o then l else l ++ [o]) []

/-- The operation is issued: the engine queues it behind the others. -/
def pushMat (op : Nat) (ph : Bool) (p : Plan) (s : State) : State :=
  mapMe s (fun c => { c with mops := c.mops ++ [{
    op := op, reads := p.readObjs, writes := p.writes
    rbanks := p.rbanks, wbanks := p.wbanks, acc := p.acc, land := p.land, bits := p.bits
    readDone := false, bad := p.bad, ph := ph, kchk := p.kchk }] })

/-- A shape register exchanged when the swap bit is set (R85); `n` counts over all sixteen. -/
def swapIf (n : Nat) (sw : Bool) (s : State) : State := if sw then mapMe s (fun c => c.swap n) else s

/-- What an M-slot instruction brings to its bundle: the engine holds at most eight operations (R250). -/
def matSem (op : Nat) (e : Env) (s : State) (illop : Bool) (p : Plan) : Sem :=
  { illop := illop, reads := p.readObjs, writes := p.writes
    stall := decide (8 ≤ (me s).mops.length), isM := true, eff := pushMat op e.ph.inside p }

/-- The same for an instruction that uses a shape. -/
def matShape (op : Nat) (e : Env) (s : State) (sh : ShNo) (sw : Bool) (illop : Bool) (p : Plan) : Sem :=
  { matSem op e s illop p with eff := fun t => pushMat op e.ph.inside p (swapIf sh.toNat sw t) }

/-- The literal word at LPC (R87). -/
def literal (s : State) : W64 := let c := me s; tabGet 0 c.lit c.lpc.toNat

/-- A value within limits. -/
def within (lo hi v : Nat) : Bool := decide (lo ≤ v) && decide (v ≤ hi)

/-! ## Products (R253-R255) -/

/-- A term of depth `k` that the bitmap keeps (R255). -/
def kept (mask k : Nat) : Bool := decide (256 ≤ k) || !bit1 mask (k / 4)

/-- The exact product of two b1 or PNI vectors, one integer for an element (R40, R41). -/
def intDot (f : Nat → Nat → Int) (ks : List Nat) (a b : List Nat) : Int :=
  ks.foldl (fun n k => n + f (a.getD k 0) (b.getD k 0)) 0

/-- How the elements of a product are formed: a list of exact terms for each element. -/
inductive Terms where
  | each
  | planes (pa pb : Nat)
  | binary
  deriving DecidableEq, Repr

/-- The terms of element (i, l) from the elements of its two rows. -/
def termsOf (t : Terms) (fa fb : BFmt) (ks : List Nat) (a b : List Nat) : List FVal :=
  match t with
  | .each => ks.map (fun k => (elVal fa (a.getD k 0)).num.mul (elVal fb (b.getD k 0)).num)
  | .planes pa pb => [(ElVal.int (intDot (fun x y => plInt x pa * plInt y pb) ks a b)).num]
  | .binary => [(ElVal.int ((ks.length : Int) - 2 * intDot (fun x y => if x = y then 0 else 1) ks a b)).num]

/-- The elements of a row up to `n`. -/
def elsOf (f : BFmt) (cap n : Nat) (bs : List Byte) : List Nat := (upto n).map (elAt f cap bs)

/-- Terms added one by one, each truncated on its own (R254). -/
def addTerms (sub : Bool) (a : AccEl) (l : List FVal) : AccEl :=
  l.foldl (fun a p => a.add (if sub then p.neg else p)) a

/-- A product of two tiles into an accumulator (R253-R255, R265). -/
def product (op : Nat) (e : Env) (s : State) (acc : ANo) (tA tB : TNo) (sh : ShNo) (sw : Bool) (pa pb : BitVec 4)
    (sub : Bool) (t : Terms) (mask : Nat) : Sem :=
  let c := me s
  let a := c.win tA.toNat
  let b := c.win tB.toNat
  let v := c.shape sh.toNat sw
  let m := dim v 0
  let n := dim v 1
  let depth := dim v 2
  let fa := precFmt pa.toNat
  let fb := precFmt pb.toNat
  let ca := rowCap fa a.len
  let cb := rowCap fb b.len
  let illop := !within 1 16 m || !within 1 64 n || depth == 0 || dim v 3 != 0 || c.badTile a || c.badTile b ||
    c.fmtOf a != fa || c.fmtOf b != fb || decide (a.rows < m) || decide (b.rows < n) || decide (ca < depth) ||
    decide (cb < depth)
  let ks := (upto depth).filter (kept mask)
  let ra := (c.rowsOf a m).map (elsOf fa ca depth)
  let rb := (c.rowsOf b n).map (elsOf fb cb depth)
  let badA := (upto m).map (fun i => c.badEls a fa (planesOf pa.toNat) i ks)
  let badB := (upto n).map (fun l => c.badEls b fb (planesOf pb.toNat) l ks)
  let idx := ((upto m).map (fun i => (upto n).map (fun l => (i, l)))).flatten
  let badC (p : Nat × Nat) : Bool := c.accPoison.contains (1024 * acc.toNat + 64 * p.1 + p.2)
  let els := idx.map (fun p =>
    (64 * p.1 + p.2,
      if (badA.getD p.1 none).isSome || (badB.getD p.2 none).isSome || badC p then .nan
      else addTerms sub (c.accEl acc.toNat (64 * p.1 + p.2)) (termsOf t fa fb ks (ra.getD p.1 []) (rb.getD p.2 []))))
  matShape op e s sh sw illop {
    reads := [.tile tA.toNat, .tile tB.toNat], writes := [.acc acc.toNat], rbanks := a.banks m ++ b.banks n
    acc := some (acc.toNat, els), bad := firstBad (badA ++ badB ++ [if idx.any badC then some 0 else none]) }

/-- MMA (R253): float products, each truncated on its own. -/
def semMma (acc : ANo) (tA tB : TNo) (sh : ShNo) (sw : Bool) (pa pb : BitVec 4) (sub : Bool) (e : Env) (s : State) : Sem :=
  product 0x00 e s acc tA tB sh sw pa pb sub .each 0
/-- MMA (R253), alone in its bundle. -/
def execMma (acc : ANo) (tA tB : TNo) (sh : ShNo) (sw : Bool) (pa pb : BitVec 4) (sub : Bool) (s : State) : Host.Outcome State Fault Refusal :=
  issueAlone (.mma acc tA tB sh sw pa pb sub) (semMma acc tA tB sh sw pa pb sub) s

/-- IMMA (R253): integer products. -/
def semImma (acc : ANo) (tA tB : TNo) (sh : ShNo) (sw : Bool) (pa pb : BitVec 4) (sub : Bool) (e : Env) (s : State) : Sem :=
  product 0x01 e s acc tA tB sh sw pa pb sub .each 0
/-- IMMA (R253), alone in its bundle. -/
def execImma (acc : ANo) (tA tB : TNo) (sh : ShNo) (sw : Bool) (pa pb : BitVec 4) (sub : Bool) (s : State) : Host.Outcome State Fault Refusal :=
  issueAlone (.imma acc tA tB sh sw pa pb sub) (semImma acc tA tB sh sw pa pb sub) s

/-- PMM (R253): plane-nested products, one integer per element. -/
def semPmm (acc : ANo) (tA tB : TNo) (sh : ShNo) (sw : Bool) (pa pb : BitVec 4) (sub : Bool) (e : Env) (s : State) : Sem :=
  product 0x02 e s acc tA tB sh sw pa pb sub (.planes (planesOf pa.toNat) (planesOf pb.toNat)) 0
/-- PMM (R253), alone in its bundle. -/
def execPmm (acc : ANo) (tA tB : TNo) (sh : ShNo) (sw : Bool) (pa pb : BitVec 4) (sub : Bool) (s : State) : Host.Outcome State Fault Refusal :=
  issueAlone (.pmm acc tA tB sh sw pa pb sub) (semPmm acc tA tB sh sw pa pb sub) s

/-- PMMS (R253, R255): PMM over the depths that the literal word keeps. -/
def semPmms (acc : ANo) (tA tB : TNo) (sh : ShNo) (sw : Bool) (pa pb : BitVec 4) (sub : Bool) (e : Env) (s : State) : Sem :=
  product 0x03 e s acc tA tB sh sw pa pb sub (.planes (planesOf pa.toNat) (planesOf pb.toNat)) (literal s).toNat
/-- PMMS (R253, R255), alone in its bundle. -/
def execPmms (acc : ANo) (tA tB : TNo) (sh : ShNo) (sw : Bool) (pa pb : BitVec 4) (sub : Bool) (s : State) : Host.Outcome State Fault Refusal :=
  issueAlone (.pmms acc tA tB sh sw pa pb sub) (semPmms acc tA tB sh sw pa pb sub) s

/-- BMM (R253): binary products, one integer per element. -/
def semBmm (acc : ANo) (tA tB : TNo) (sh : ShNo) (sw : Bool) (pa pb : BitVec 4) (sub : Bool) (e : Env) (s : State) : Sem :=
  product 0x04 e s acc tA tB sh sw pa pb sub .binary 0
/-- BMM (R253), alone in its bundle. -/
def execBmm (acc : ANo) (tA tB : TNo) (sh : ShNo) (sw : Bool) (pa pb : BitVec 4) (sub : Bool) (s : State) : Host.Outcome State Fault Refusal :=
  issueAlone (.bmm acc tA tB sh sw pa pb sub) (semBmm acc tA tB sh sw pa pb sub) s

/-- MMAS (R253, R255): MMA over the depths that the literal word keeps. -/
def semMmas (acc : ANo) (tA tB : TNo) (sh : ShNo) (sw : Bool) (pa pb : BitVec 4) (sub : Bool) (e : Env) (s : State) : Sem :=
  product 0x05 e s acc tA tB sh sw pa pb sub .each (literal s).toNat
/-- MMAS (R253, R255), alone in its bundle. -/
def execMmas (acc : ANo) (tA tB : TNo) (sh : ShNo) (sw : Bool) (pa pb : BitVec 4) (sub : Bool) (s : State) : Host.Outcome State Fault Refusal :=
  issueAlone (.mmas acc tA tB sh sw pa pb sub) (semMmas acc tA tB sh sw pa pb sub) s

/-! ## The rank product (R275-R277) -/

/-- RACC (R275-R277): arrivals weighted by ATT at the columns that a rank tile names; a row without arrivals stays as it is, and
a poison in it is not consumed. -/
def semRacc (acc : ANo) (tA tB : TNo) (sh : ShNo) (sw : Bool) (pb : BitVec 4) (sub : Bool) (e : Env) (s : State) : Sem :=
  let c := me s
  let a := c.win tA.toNat
  let b := c.win tB.toNat
  let v := c.shape sh.toNat sw
  let m := dim v 0
  let n := dim v 1
  let kr := dim v 2
  let fb := precFmt pb.toNat
  let cb := rowCap fb b.len
  let illop := !within 1 16 m || !within 1 64 n || !within 1 64 kr || dim v 3 != 0 || c.badTile a || c.badTile b ||
    decide (a.rows < m) || (c.fmtOf a != .raw && c.fmtOf a != .n8) || decide (b.rows < 64) || decide (cb < n) ||
    c.fmtOf b != fb
  let rb := (c.rowsOf b 64).map (elsOf fb cb n)
  let bs (i : Nat) : List Nat := (c.rowBytes a i 64).map BitVec.toNat
  let ranks (i : Nat) : List (Nat × Nat) := ((upto 64).zip (bs i)).take (min kr (cutOf (bs i)))
  let rows := (upto m).map ranks
  let badA := (upto m).map (fun i => if (rows.getD i []).isEmpty then none else c.poisonIn (a.row i) (rows.getD i []).length)
  let badW (j l : Nat) : Option Nat := c.badEls b fb 8 j [l]
  let idx := ((upto m).map (fun i => (upto n).map (fun l => (i, l)))).flatten
  let badE (p : Nat × Nat) : List (Option Nat) :=
    let r := rows.getD p.1 []
    if r.isEmpty then [] else
      [badA.getD p.1 none] ++ r.map (fun q => badW q.2 p.2) ++
        [if c.accPoison.contains (1024 * acc.toNat + 64 * p.1 + p.2) then some 0 else none]
  let els := (idx.filter (fun p => !(rows.getD p.1 []).isEmpty)).map (fun p =>
    let r := rows.getD p.1 []
    (64 * p.1 + p.2,
      if (firstBad (badE p)).isSome then .nan
      else addTerms sub (c.accEl acc.toNat (64 * p.1 + p.2)) (r.map (fun q =>
        (FVal.ofBits .f32 (attAt c.att q.1)).mul (elVal fb ((rb.getD q.2 []).getD p.2 0)).num))))
  matShape 0x06 e s sh sw illop {
    reads := [.tile tA.toNat, .tile tB.toNat], writes := [.acc acc.toNat], rbanks := a.banks m ++ b.banks 64
    acc := some (acc.toNat, els), bad := firstBad ((idx.map badE).flatten) }
/-- RACC (R275, R276), alone in its bundle. -/
def execRacc (acc : ANo) (tA tB : TNo) (sh : ShNo) (sw : Bool) (pb : BitVec 4) (sub : Bool) (s : State) : Host.Outcome State Fault Refusal :=
  issueAlone (.racc acc tA tB sh sw pb sub) (semRacc acc tA tB sh sw pb sub) s

/-! ## Accumulator operations (R257-R261) -/

/-- One element set to zero (R257). -/
def elZeroed (a : AccEl) : AccEl :=
  match a.val with
  | .fin .. => { a with gm := 0 }
  | _ => .zero

/-- Two elements combined (R258). -/
def elAdd (e s : AccEl) : AccEl :=
  match e.val, s.val with
  | .nan, _ => .nan
  | _, .nan => .nan
  | .inf a, .inf b => if a = b then s else .nan
  | .fin .., .inf _ => s
  | .inf _, .fin .. => e
  | .fin .., .fin .. => { e with gm := e.gm + truncMod s.gm.toInt (s.x.toInt - e.x.toInt) }

/-- An operation on every element of an accumulator, from the elements of the same index of those that it reads. -/
def accAll (op : Nat) (e : Env) (s : State) (illop : Bool) (acc : ANo) (srcs : List ANo) (f : Nat → AccEl) : Sem :=
  let c := me s
  let bad (i : Nat) : Bool := srcs.any (fun a => c.accPoison.contains (1024 * a.toNat + i))
  matSem op e s illop {
    reads := srcs.map (fun a => .acc a.toNat), writes := [.acc acc.toNat]
    acc := some (acc.toNat, (upto 1024).map (fun i => (i, if bad i then .nan else f i)))
    bad := if (upto 1024).any bad then some 0 else none }

/-- ANCH (R257): sets the anchor of every element to the literal word; ILLOP with reason 5 outside -32,767 to 32,767. -/
def semAnch (acc : ANo) (e : Env) (s : State) : Sem :=
  let v := (literal s).toInt
  accAll 0x07 e s (decide (v < -32767) || decide (32767 < v)) acc [] (fun _ => AccEl.anchor (BitVec.ofInt 16 v))
/-- ANCH (R257), alone in its bundle. -/
def execAnch (acc : ANo) (s : State) : Host.Outcome State Fault Refusal :=
  issueAlone (.anch acc) (semAnch acc) s

/-- NORM (R257, R259): re-anchors every element; above level 0 only at a declared point. -/
def semNorm (acc : ANo) (e : Env) (s : State) : Sem :=
  let c := me s
  let k := kernelOf s c
  accAll 0x08 e s (k.level != 0 && !k.points.contains c.bpc) acc [acc] (fun i => (c.accEl acc.toNat i).norm)
/-- NORM (R257, R259), alone in its bundle. -/
def execNorm (acc : ANo) (s : State) : Host.Outcome State Fault Refusal :=
  issueAlone (.norm acc) (semNorm acc) s

/-- AZERO (R257): zeroes every element. -/
def semAzero (acc : ANo) (e : Env) (s : State) : Sem :=
  accAll 0x09 e s false acc [acc] (fun i => elZeroed ((me s).accEl acc.toNat i))
/-- AZERO (R257), alone in its bundle. -/
def execAzero (acc : ANo) (s : State) : Host.Outcome State Fault Refusal :=
  issueAlone (.azero acc) (semAzero acc) s

/-- ACCADD (R257, R258): adds the elements of another accumulator. -/
def semAccadd (acc src : ANo) (e : Env) (s : State) : Sem :=
  let c := me s
  accAll 0x0B e s false acc [acc, src] (fun i => elAdd (c.accEl acc.toNat i) (c.accEl src.toNat i))
/-- ACCADD (R257, R258), alone in its bundle. -/
def execAccadd (acc src : ANo) (s : State) : Host.Outcome State Fault Refusal :=
  issueAlone (.accadd acc src) (semAccadd acc src) s

/-- ACCMV (R257): copies another accumulator. -/
def semAccmv (acc src : ANo) (e : Env) (s : State) : Sem :=
  accAll 0x0C e s false acc [src] (fun i => (me s).accEl src.toNat i)
/-- ACCMV (R257), alone in its bundle. -/
def execAccmv (acc src : ANo) (s : State) : Host.Outcome State Fault Refusal :=
  issueAlone (.accmv acc src) (semAccmv acc src) s

/-- Where a readout goes, and the bank format that agrees with it (R260). -/
def readFmt (t : VTy) : ReadFmt :=
  match t.float? with
  | some f => .flt f
  | none => .int t.signed t.width

def readBank : VTy → Option BFmt
  | .i8x4 => some .i8 | .i16x2 => some .i16 | .i32 => some .i32 | .n8x4 => some .n8
  | .f16x2 => some .f16 | .bf16x2 => some .bf16 | .f32 => some .f32 | .f64 => some .f64
  | _ => none

/-- The canonical NaN of a type, or 0 for an integer (R265). -/
def nanOf (t : VTy) : Nat := (t.float?.map FFmt.nan).getD 0

/-- ACCRD (R260): reads an accumulator out into a tile, each element rounded once. -/
def semAccrd (acc : ANo) (td ts : TNo) (sh : ShNo) (sw sc : Bool) (rnd : Rnd) (fmt : VTy) (e : Env) (s : State) : Sem :=
  let c := me s
  let d := c.win td.toNat
  let z := c.win ts.toNat
  let v := c.shape sh.toNat sw
  let m := dim v 0
  let n := dim v 1
  let w := fmt.width / 8
  let illop := !within 1 16 m || !within 1 64 n || dim v 2 != 0 || dim v 3 != 0 || c.badTile d || decide (d.rows < m) ||
    decide (d.len < n * w) || (c.fmtOf d != .raw && some (c.fmtOf d) != readBank fmt) ||
    (sc && (c.badTile z || decide (z.len < 320) || (c.fmtOf z != .raw && c.fmtOf z != .f32)))
  let scales := c.rowBytes z 0 320
  let scaleAt (o : Nat) : FVal := if sc then FVal.ofBits .f32 (leNat ((scales.drop o).take 4)) else FVal.ofBits .f32 0x3F800000
  let badS (o : Nat) : Option Nat := if sc then c.poisonIn (z.row 0 + o) 4 else none
  let badE (i l : Nat) : Option Nat :=
    firstBad [if c.accPoison.contains (1024 * acc.toNat + 64 * i + l) then some 0 else none, badS (4 * i), badS (64 + 4 * l)]
  let el (i l : Nat) : Nat :=
    if (badE i l).isSome then nanOf fmt
    else (c.accEl acc.toNat (64 * i + l)).readout (scaleAt (4 * i)) (scaleAt (64 + 4 * l)) (readFmt fmt) rnd
  let rows := (upto m).map (fun i => (d.row i, allBytes ((upto n).map (fun l => leBytes w (el i l))).flatten))
  matShape 0x0A e s sh sw illop {
    reads := .acc acc.toNat :: (if sc then [.tile ts.toNat] else []), writes := [.tile td.toNat]
    rbanks := if sc then z.banks 1 else [], wbanks := d.banks m, land := rows
    bad := firstBad ((upto m).map (fun i => firstBad ((upto n).map (badE i)))) }
/-- ACCRD (R260), alone in its bundle. -/
def execAccrd (acc : ANo) (td ts : TNo) (sh : ShNo) (sw sc : Bool) (rnd : Rnd) (fmt : VTy) (s : State) : Host.Outcome State Fault Refusal :=
  issueAlone (.accrd acc td ts sh sw sc rnd fmt) (semAccrd acc td ts sh sw sc rnd fmt) s

/-- ACCSV (R261): writes the saved form of an accumulator into a tile. -/
def semAccsv (acc : ANo) (t : TNo) (e : Env) (s : State) : Sem :=
  let c := me s
  let d := c.win t.toNat
  let bad (i : Nat) : Bool := c.accPoison.contains (1024 * acc.toNat + i)
  let el (i : Nat) : AccEl := if bad i then .nan else c.accEl acc.toNat i
  matSem 0x0D e s (c.badTile d || decide (d.rows < 16) || decide (d.len < 1664) || c.fmtOf d != .raw) {
    reads := [.acc acc.toNat], writes := [.tile t.toNat], wbanks := d.banks 16
    land := (upto 16).map (fun i => (d.row i, allBytes ((upto 64).map (fun l => accBytes (el (64 * i + l)))).flatten))
    bad := if (upto 1024).any bad then some 0 else none }
/-- ACCSV (R261), alone in its bundle. -/
def execAccsv (acc : ANo) (t : TNo) (s : State) : Host.Outcome State Fault Refusal :=
  issueAlone (.accsv acc t) (semAccsv acc t) s

/-- ACCLD (R261): reads the saved form of an accumulator from a tile. -/
def semAccld (acc : ANo) (t : TNo) (e : Env) (s : State) : Sem :=
  let c := me s
  let a := c.win t.toNat
  let rows := c.rowsOf a 16
  let bad (i : Nat) : Option Nat := c.poisonIn (a.row (i / 64) + 26 * (i % 64)) 26
  let el (i : Nat) : AccEl :=
    if (bad i).isSome then .nan else AccEl.ofNat (leNat (((rows.getD (i / 64) []).drop (26 * (i % 64))).take 26))
  matSem 0x0E e s (c.badTile a || decide (a.rows < 16) || decide (a.len < 1664) || c.fmtOf a != .raw) {
    reads := [.tile t.toNat], writes := [.acc acc.toNat], rbanks := a.banks 16
    acc := some (acc.toNat, (upto 1024).map (fun i => (i, el i))), bad := firstBad ((upto 1024).map bad) }
/-- ACCLD (R261), alone in its bundle. -/
def execAccld (acc : ANo) (t : TNo) (s : State) : Host.Outcome State Fault Refusal :=
  issueAlone (.accld acc t) (semAccld acc t) s

/-! ## Tile operations (R262) -/

/-- A row with its first elements replaced, as a landing that leaves every other bit as it stands. -/
def fillRow (f : BFmt) (cap : Nat) (old : List Byte) (vs : List Nat) : List Byte :=
  ((upto vs.length).zip vs).foldl (fun bs p => putEl f cap bs p.1 p.2) old

/-- TTRN (R262): transposes one tile into another. -/
def semTtrn (tA tB : TNo) (sh : ShNo) (sw : Bool) (e : Env) (s : State) : Sem :=
  let c := me s
  let a := c.win tA.toNat
  let b := c.win tB.toNat
  let v := c.shape sh.toNat sw
  let m := dim v 0
  let n := dim v 1
  let f := c.fmtOf a
  let ca := rowCap f a.len
  let cb := rowCap f b.len
  let illop := !within 1 256 m || !within 1 256 n || dim v 2 != 0 || dim v 3 != 0 || c.badTile a || c.badTile b ||
    f == .raw || c.fmtOf b != f || decide (a.rows < m) || decide (ca < n) || decide (b.rows < n) || decide (cb < m)
  let src := (c.rowsOf a m).map (elsOf f ca n)
  let bad (i k : Nat) : Option Nat := c.badEls a f 8 i [k]
  let nan := (f.float?.map FFmt.nan).getD 0
  let el (k i : Nat) : Nat := if (bad i k).isSome then nan else (src.getD i []).getD k 0
  let old := c.rowsOf b n
  let filled (k : Nat) : List Byte := fillRow f cb (old.getD k []) ((upto m).map (el k))
  let row (k : Nat) : List (Option Byte) :=
    match f with
    | .pni => ((upto (filled k).length).zip (filled k)).map (fun p => if p.1 % (cb / 8) < m / 8 then some p.2 else none)
    | .b1 => allBytes ((filled k).take (m / 8))
    | _ => allBytes ((filled k).take (m * f.bytes))
  -- a byte that holds elements below and from D0 on keeps the latter as they stand when the row lands
  let part (k : Nat) : List (Nat × Nat × Byte × Byte) :=
    if m % 8 = 0 then [] else
      let at_ (o : Nat) : Nat × Nat × Byte × Byte := (k, b.row k + o, BitVec.ofNat 8 (2 ^ (m % 8) - 1), (filled k).getD o 0)
      match f with
      | .pni => (upto 8).map (fun j => at_ (cb / 8 * j + m / 8))
      | .b1 => [at_ (m / 8)]
      | _ => []
  matShape 0x0F e s sh sw illop {
    reads := [.tile tA.toNat], writes := [.tile tB.toNat], rbanks := a.banks m, wbanks := b.banks n
    land := (upto n).map (fun k => (b.row k, row k)), bits := ((upto n).map part).flatten
    bad := firstBad ((upto m).map (fun i => c.badEls a f 8 i (upto n))) }
/-- TTRN (R262), alone in its bundle. -/
def execTtrn (tA tB : TNo) (sh : ShNo) (sw : Bool) (s : State) : Host.Outcome State Fault Refusal :=
  issueAlone (.ttrn tA tB sh sw) (semTtrn tA tB sh sw) s

/-- TZERO (R262): clears every row of a tile. -/
def semTzero (t : TNo) (e : Env) (s : State) : Sem :=
  let c := me s
  let d := c.win t.toNat
  matSem 0x10 e s (c.badTile d) {
    writes := [.tile t.toNat], wbanks := d.banks d.rows
    land := (upto d.rows).map (fun j => (d.row j, List.replicate d.len (some 0))) }
/-- TZERO (R262), alone in its bundle. -/
def execTzero (t : TNo) (s : State) : Host.Outcome State Fault Refusal :=
  issueAlone (.tzero t) (semTzero t) s

/-! ## The known-answer check (R266) -/

/-- The digest of the fixed product for a seed. -/
def kchkDigest (seed : Nat) : W64 :=
  let a (i k : Nat) : Int := sextI (29 * i + 13 * k + seed) 8
  let b (l k : Nat) : Int := sextI (43 * l + 7 * k + 3 * seed + 1) 8
  let res (i l : Nat) : Int := sumI 256 (fun k => a i k * b l k)
  crc64 0 ((upto 16).map (fun i => ((upto 64).map (fun l => leBytes 4 (BitVec.ofInt 32 (res i l)).toNat)).flatten)).flatten

/-- KCHK (R266): a known-answer check against the literal word. -/
def semKchk (seed : BitVec 8) (e : Env) (s : State) : Sem :=
  { matSem 0x11 e s false {} with
    eff := fun t => pushMat 0x11 e.ph.inside { kchk := some (kchkDigest seed.toNat == literal s) }
      (mapMe t (fun c => { c with kcount := 0 })) }
/-- KCHK (R266), alone in its bundle. -/
def execKchk (seed : BitVec 8) (s : State) : Host.Outcome State Fault Refusal :=
  issueAlone (.kchk seed) (semKchk seed) s

end Sys2Proof.Machine
end

