-- ==== Sys2Proof/Machine/Tensor.lean ====
section
/-! DEFINITION. The C slots (14_tensor R282-R300; 07_kernel R149; 08_group R168, R169; 15_program_column_walk R308):
transfers between the scratchpad and tensors, atomics and reductions, handles, and overlays. A transfer sends its requests
at issue; what it brings lands when it is done. -/

namespace Sys2Proof.Machine

/-! ## Elements of a tile of a tensor (R283, R284, R289) -/

/-- How the rows of a tile map to the rows of a tensor. -/
inductive RowMap where
  /-- TLD, TST, PREF, REDT (R288). -/
  | tile
  /-- TGATH, TSCAT: the index list (R289). -/
  | gather (idx : List Nat)
  /-- TLDB (R289). -/
  | bcast
  deriving DecidableEq, Repr

/-- An extent of which 0 counts as 1. -/
def ext1 (n : Nat) : Nat := if n = 0 then 1 else n

/-- Rows that a shape covers. -/
def shapeRows (m : RowMap) (v : W64) : Nat :=
  match m with
  | .tile => ext1 (dim v 1) * ext1 (dim v 2) * ext1 (dim v 3)
  | _ => ext1 (dim v 1)

/-- The tensor coordinates of element (j, 0) of the tile, given those of the tile's origin. -/
def rowCoords (m : RowMap) (v : W64) (c : List Int) (j : Nat) : List Int :=
  let d1 := ext1 (dim v 1)
  let d2 := ext1 (dim v 2)
  match m with
  | .tile => [c.getD 0 0, c.getD 1 0 + (j % d1 : Nat), c.getD 2 0 + (j / d1 % d2 : Nat), c.getD 3 0 + (j / (d1 * d2) : Nat)]
  | .gather idx => [c.getD 0 0, (idx.getD j 0 : Nat), c.getD 2 0, c.getD 3 0]
  | .bcast => c

/-- One element of a tile: row, position, and its address when it is in bounds. -/
structure TEl where
  row : Nat
  pos : Nat
  va : Option Nat
  deriving DecidableEq, Repr

/-- Every element of a tile, by ascending row, then position. -/
def tensorEls (h : Handle) (m : RowMap) (v : W64) (c : List Int) : List TEl :=
  ((upto (shapeRows m v)).map (fun j =>
    let n := rowCoords m v c j
    (upto (dim v 0)).map (fun e0 => ⟨j, e0, h.addr ((n.getD 0 0 + (e0 : Int)) :: n.drop 1)⟩))).flatten

/-- Conditions of ILLOP reason 5 on a handle, a shape and the coordinate registers (R282, R283, R289). -/
def badShape (h : Handle) (m : RowMap) (v : W64) (cb : XNo) : Bool :=
  h.bad || decide (32 < cb.toNat + h.rank) ||
    (upto 4).any (fun d => if d < h.rank then dim v d == 0 else decide (1 < dim v d)) ||
    (match m with
     | .tile => false
     | .gather _ => decide (h.rank < 2) || decide (1 < dim v 2) || decide (1 < dim v 3)
     | .bcast => decide (1 < dim v 2) || decide (1 < dim v 3))

/-- A tile that does not hold the shape (R247, R283). -/
def tooSmall (c : Core) (h : Handle) (m : RowMap) (v : W64) (t : Win) : Bool :=
  let f := c.fmtOf t
  c.badTile t || decide (t.rows < shapeRows m v) ||
    (if f == .raw || h.bfmt == .raw then decide (t.len < dim v 0 * h.esize) else decide (rowCap f t.len < dim v 0))

/-- The coordinates in the registers from `cb` on (R283). -/
def coordsOf (s : State) (cb : XNo) (rank : Nat) : List Int := (upto rank).map (fun d => (me s).ix (cb.toNat + d))

/-- The index list in the scratchpad (R289). -/
def indexList (c : Core) (a n : Nat) : List Nat := (upto n).map (fun j => c.sp.readLE (a + 4 * j) 4)

/-- Where the bytes of an element land in a tile, and how (R284). -/
def elDst (h f : BFmt) (t : Win) (row pos : Nat) : PieceDst :=
  if h = f || h == .raw || f == .raw then .bytes (t.row row + h.bytes * pos)
  else .conv h f (t.row row) (rowCap f t.len) pos

/-! ## What a load brings (R284, R288-R293) -/

/-- One piece of a load: its destination and either the place of its bytes or the bytes themselves. -/
structure LoadEl where
  dst : PieceDst
  n : Nat
  va : Option Nat
  pad : List Byte
  deriving DecidableEq, Repr

/-- The pieces of a load, in the order in which they stand (R247, R288), from what it captured. -/
def loadEls (c : Core) (d : LoadDesc) : List LoadEl :=
  let t := winOf d.tile
  let f := (bfmtOf (fld d.bf.toNat (4 * t.bank + 3) (4 * t.bank))).getD .raw
  let h := handleOf d.handle
  let viaHandle (m : RowMap) : List LoadEl :=
    (tensorEls h m d.shape d.coords).map (fun e => ⟨elDst h.bfmt f t e.row e.pos, h.esize, e.va, leBytes h.esize h.pad⟩)
  let rows := ext1 (dim d.shape 1)
  match d.kind with
  | 0x00 => viaHandle .tile
  | 0x03 => viaHandle (.gather (indexList c d.xi rows))
  | 0x05 => viaHandle .bcast
  | 0x06 => ((upto rows).map (fun (j : Nat) =>
      let va := (((d.base : Int) + (j : Int) * d.pitch) % 2 ^ 60).toNat
      ((runs 64 va (dim d.shape 0)).foldl (fun (p : List LoadEl × Nat) r =>
        (p.1 ++ [⟨.bytes (t.row j + p.2), r.2, some r.1, []⟩], p.2 + r.2)) ([], 0)).1)).flatten
  | 0x07 => ((upto rows).map (fun (j : Nat) =>
      (upto (dim d.shape 0 / 64)).map (fun i =>
        ⟨.bytes (t.row j + 64 * i), 64, some ((d.base : Int) + (j : Int) * d.pitch + 64 * (i : Int)).toNat, []⟩))).flatten
  | _ => ((upto rows).map (fun j =>
      (upto (dim d.shape 0)).map (fun e0 =>
        match f with
        | .pni => ⟨.conv .i8 f (t.row j) (rowCap f t.len) e0, 1, none, leBytes 1 d.value.toNat⟩
        | .b1 => ⟨.conv .i8 f (t.row j) (rowCap f t.len) e0, 1, none, leBytes 1 d.value.toNat⟩
        | _ => ⟨.bytes (t.row j + f.bytes * e0), f.bytes, none, leBytes f.bytes d.value.toNat⟩))).flatten

/-- The bytes of one piece put into the scratchpad, converted where its destination says so (R245, R300). -/
def Core.bring (c : Core) (b : Brought) : Core :=
  match b.dst with
  | .bytes a =>
    let c := c.spWrite a (b.bytes.map some) false
    if b.poison then c.spoil a b.bytes.length else c
  | .conv src dst row cap pos =>
    let v := convEl src dst (leNat b.bytes)
    let cells := elBytes dst cap 8 pos
    let c := match dst with
      | .pni => (upto 8).foldl (fun (c : Core) j =>
          let k := cap * j + pos
          c.spWrite (row + k / 8) [(setBit [c.sp.read (row + k / 8)] (k % 8) (bit1 v (7 - j))).head?] false) c
      | .b1 => c.spWrite (row + pos / 8) [(setBit [c.sp.read (row + pos / 8)] (pos % 8) (bit1 v 0)).head?] false
      | _ => c.spWrite (row + dst.bytes * pos) ((leBytes dst.bytes v).map some) false
    if b.poison then cells.foldl (fun (c : Core) r => c.spoil (row + r.1) r.2) c else c

/-- A piece writes bit `k` of the scratchpad. -/
def Brought.covers (b : Brought) (k : Nat) : Bool :=
  match b.dst with
  | .bytes a => decide (8 * a ≤ k) && decide (k < 8 * (a + b.bytes.length))
  | .conv _ dst row cap pos =>
    match dst with
    | .pni => (upto 8).any (fun j => k == 8 * row + cap * j + pos)
    | .b1 => k == 8 * row + pos
    | _ => decide (8 * (row + dst.bytes * pos) ≤ k) && decide (k < 8 * (row + dst.bytes * pos + dst.bytes))

/-- Pieces that together write a whole word (R300). -/
def coversWord (l : List Brought) (w : Nat) : Bool := (upto 32).all (fun k => l.any (fun b => b.covers (32 * w + k)))

/-- Everything brought, in its order: words written whole lose their poison, words of a poisoned piece get it (R300). -/
def Core.bringAll (c : Core) (l : List Brought) : Core :=
  let c := l.foldl Core.bring c
  let c := { c with spPoison := c.spPoison.filter (fun w => !coversWord l w) }
  l.foldl (fun c b => if b.poison then
    match b.dst with
    | .bytes a => c.spoil a b.bytes.length
    | .conv _ dst row cap pos => (elBytes dst cap 8 pos).foldl (fun (c : Core) r => c.spoil (row + r.1) r.2) c
    else c) c

/-! ## Lines and pages (R308, R348-R350) -/

/-- Things gathered by the 64-byte line that they lie in, in ascending lines. -/
def byLine {α : Type} (l : List (Nat × α)) : Tab (List (Nat × α)) :=
  l.foldl (fun t p => tabPut t (p.1 / 64) (tabGet [] t (p.1 / 64) ++ [p])) []

/-- The lowest address in each 64 KiB stretch, in ascending order: each is walked. -/
def chunkLows (vas : List Nat) : Tab Nat :=
  vas.foldl (fun t va => match tabFind t (va / 65536) with
    | some v => if va < v then tabPut t (va / 65536) va else t
    | none => tabPut t (va / 65536) va) []

/-- The translations of those stretches. -/
def translate (s : State) (a : Acc) (vas : List Nat) : List (Nat × Except Nat Page) :=
  (chunkLows vas).map (fun p => (p.2, xlate s (ctxNo s (me s)) p.2 a))

/-- The pages among them, and the first fault. -/
def pagesOk (l : List (Nat × Except Nat Page)) : List Page :=
  l.filterMap (fun p => match p.2 with
    | .ok pg => some pg
    | .error _ => none)
def firstFault (l : List (Nat × Except Nat Page)) : Option (Nat × Nat) :=
  l.findSome? (fun p => match p.2 with
    | .error r => some (p.1, r)
    | .ok _ => none)

/-- A page that maps an address. -/
def hasPage (ps : List Page) (va : Nat) : Bool := ps.any (fun p => p.va == va / 2 ^ p.lg * 2 ^ p.lg)

/-- The first run of consecutive addresses that is not whole aligned words of eight bytes: its lowest address (R348). -/
def raggedRun : Option (Nat × Nat) → List Nat → Option Nat
  | none, [] => none
  | some (a, z), [] => if a % 8 != 0 || (z + 1) % 8 != 0 then some a else none
  | none, b :: r => raggedRun (some (b, b)) r
  | some (a, z), b :: r =>
    if b = z + 1 then raggedRun (some (a, b)) r
    else if a % 8 != 0 || (z + 1) % 8 != 0 then some a
    else raggedRun (some (b, b)) r

/-- The fault of a transfer that reaches global registers in anything but whole words (R348). -/
def mmioFault (ps : List Page) (pieces : List (Nat × Nat)) : Option Nat :=
  if ps.any (fun p => leafTT p.leaf.toNat == 6) then
    let bytes := (pieces.map (fun p => (upto p.2).map (p.1 + ·))).flatten
    raggedRun none ((bytes.filter (fun va => hasPage ps va && leafTT (pageOf ps va).leaf.toNat == 6)).foldl
      (fun l b => setIns b l) [])
  else none

/-- The lower of two faults (R350). -/
def lowerFault : Option (Nat × Nat) → Option (Nat × Nat) → Option (Nat × Nat)
  | some a, some b => if b.1 < a.1 then some b else some a
  | some a, none => some a
  | none, b => b

/-- The core's own scratchpad. -/
def ownPlace (n : Nat) (p : Place) : Bool := p.home == .scratch n

/-- A level-2 transfer outside the item's phase that reaches anything but the core's own scratchpad (R168). -/
def strays (e : Env) (s : State) (ps : List Page) : Bool :=
  levelOf s (me s) == 2 && !e.ph.inside && ps.any (fun p => !ownPlace s.cur (p.place p.va))

/-- What a transfer's translation brings to its bundle: walks, gate, and the faults of the second check. -/
def translated (e : Env) (s : State) (sl : Slot) (a : Acc) (pieces : List (Nat × Nat)) (m : Sem) : Sem :=
  let l := translate s a (pieces.map Prod.fst)
  let ps := pagesOk l
  let flt := lowerFault (firstFault l) ((mmioFault ps pieces).map (fun va => (va, 5)))
  { m with
    walks := l.map Prod.fst
    sends := ps.any (fun p => (routeOf s (.core s.cur) (p.place p.va)).isSome)
    late := m.late ++ (if strays e s ps then [lateIllop sl e.word] else []) ++
      (match flt with
       | some (va, r) => [lateXlate va r]
       | none => []) }

/-! ## Transfers in flight (R286, R287) -/

/-- A transfer with nothing in it. -/
def emptyXfer : Xfer :=
  { id := 0, kind := 0, tag := none, reads := [], writes := [], rbanks := [], wbanks := [], handle := none, due := none
    promise := false, readDone := false, left := [], land := [], newHandle := none, cap := none, ph := false
    replay := false, pages := [] }

/-- Log2 size of the captured page that holds an address; 0 where none was captured. -/
def pageLg (ps : List Page) (va : Nat) : Nat := if ps.isEmpty then 0 else (pageOf ps va).lg

/-- Requests sent for a transfer of core `n`; their numbers are those that it waits for. -/
def sendAll (n ctx xid : Nat) (ph : Option (Nat × Nat)) (ps : List Page) : List (Place × Nat × ReqOp) → State → List Nat × State
  | [], s => ([], s)
  | (p, va, op) :: r, s =>
    let q := sendAll n ctx xid ph ps r (sendReqBy s (.core n) ctx (some xid) p va op ph (pageLg ps va))
    ((enterPlane s p op ph).nextId :: q.1, q.2)

/-- A transfer of core `n` begins: it takes its number, its requests leave, and the core holds it in flight. -/
def startXfer (n : Nat) (x : Xfer) (ph : Option (Nat × Nat)) (reqs : List (Place × Nat × ReqOp)) (s : State) : State :=
  let xid := s.nextId
  let ctx := ctxNo s (coreAt s n)
  let r := sendAll n ctx xid ph x.pages reqs { s with nextId := xid + 1 }
  mapCore r.2 n (fun c => { c with xfers := c.xfers ++ [{ x with id := xid, left := r.1 }] })

/-- Things gathered at lines, those of two names of one line together under the first (R308, R364). -/
def mergeLines {α : Type} (l : List (Place × Nat × List α)) : List (Place × Nat × List α) :=
  l.foldl (fun acc p =>
    if acc.any (fun q => sameLine q.1 p.1) then
      acc.map (fun q => if sameLine q.1 p.1 then (q.1, q.2.1, q.2.2 ++ p.2.2) else q)
    else acc ++ [p]) []

/-- The read requests of a load: one for each line, in ascending addresses (R308). -/
def lineReads (place : Nat → Place) (els : List LoadEl) : List (Place × Nat × ReqOp) :=
  let l := ((els.zip (upto els.length)).filterMap (fun (p : LoadEl × Nat) => p.1.va.map (fun va => (va, (p.1, p.2)))))
  (mergeLines ((byLine l).map (fun p =>
    (place (64 * p.1), 64 * p.1, p.2.map (fun q => Piece.mk (q.1 - 64 * p.1) q.2.1.n q.2.1.dst q.2.2))))).map (fun p =>
      (p.1, p.2.1, .read p.2.2))

/-- What a load brings without a request (R284, R293). -/
def padLands (els : List LoadEl) : List Brought :=
  (els.zip (upto els.length)).filterMap (fun (p : LoadEl × Nat) =>
    if p.1.va.isNone then some ⟨p.2, p.1.dst, p.1.pad, false⟩ else none)

/-- A load leaves core `n`: its requests go to the places of the captured pages, or to the core's vault (R287, R292). -/
def startLoad (n : Nat) (x : Xfer) (d : LoadDesc) (els : List LoadEl) (s : State) : State :=
  let place (va : Nat) : Place := if d.kind = 0x07 then ⟨.vault n, va, 0⟩ else (pageOf d.pages va).place va
  let t := winOf d.tile
  startXfer n { x with
    kind := d.kind, writes := [.tile d.tileNo], wbanks := t.banks (min t.rows (shapeRows .tile d.shape)), readDone := true
    land := padLands els, pages := d.pages } none (lineReads place els) s

/-- The hash of a line in a read signature (R169). -/
def sigBit (va : Nat) : Nat :=
  let v := va / 64
  let x (lo : Nat) := v / 2 ^ lo % 1024
  Nat.xor (Nat.xor (Nat.xor (x 0) (x 10)) (Nat.xor (x 20) (x 30))) (Nat.xor (x 40) (v / 2 ^ 50 % 16))

def sigSet (g : BitVec 1024) (vas : List Nat) : BitVec 1024 :=
  vas.foldl (fun g va => g ||| BitVec.ofNat 1024 (2 ^ sigBit va)) g

/-- The lines that a level-2 item reads enter its signature (R169). -/
def noteReads (e : Env) (vas : List Nat) (s : State) : State :=
  let c := me s
  match c.kernel with
  | some k => if levelOf s c = 2 && e.ph.inside then mapGroup s k c.group (fun g => { g with sig := sigSet g.sig vas }) else s
  | none => s

/-- A load issues: logged in a phase (R318), with its promise (R286). -/
def issueLoad (e : Env) (tag : Option Nat) (promise : Nat) (d : LoadDesc) (a : Acc) (s : State) : State :=
  let c := me s
  let els := loadEls c d
  let vas := els.filterMap LoadEl.va
  let d := if d.kind = 0x07 then d else { d with pages := pagesOk (translate s a vas) }
  let reads := ((byLine (vas.map (fun va => (va, ())))).map (fun p => 64 * p.1)).filter (fun va =>
    d.kind = 0x07 || !ownPlace s.cur ((pageOf d.pages va).place va))
  let s := noteReads e reads s
  let s := if e.ph.inside then mapMe s (fun c => { c with runLog := c.runLog ++ [d] }) else s
  let due := if promise = 0 then none else some (c.lcc.toNat + promise)
  let b := dim d.shape 0 * ext1 (dim d.shape 1)
  let cap := if d.kind = 0x07 then some (4 + (b + 255) / 256) else none
  startLoad s.cur { emptyXfer with tag := tag, due := due, promise := promise != 0, cap := cap, ph := e.ph.inside } d els s

/-- The shape register of a C slot, counted over all sixteen (R84). -/
def CopyEng.shape (e : CopyEng) (n : ShNo) : Nat := (match e with | .a => 4 | .b => 8) + n.toNat

/-- A busy tag, or a handle that is being written, holds the bundle (R286, R287). -/
def held (s : State) (tag : Option Nat) (handle : Option Nat) : Bool :=
  let c := me s
  (tag.map (fun g => c.tags.contains g)).getD false ||
    (handle.map (fun h => c.xfers.any (fun x => x.handle == some h))).getD false

/-- A load through a handle: TLD, TGATH and TLDB. -/
def handleLoad (k : Nat) (m : RowMap) (e : Env) (s : State) (en : CopyEng) (g : TagNo) (t : TNo) (h : HNo) (sh : ShNo)
    (sw : Bool) (cb : XNo) (xi : Nat) (pr : BitVec 24) (illop : Bool) : Sem :=
  let c := me s
  let hd := handleOf (c.handleAt h.toNat)
  let n := CopyEng.shape en sh
  let v := c.shape n sw
  let d : LoadDesc := { kind := k, tile := c.tileAt t.toNat, tileNo := t.toNat, handle := c.handleAt h.toNat, shape := v
                        coords := coordsOf s cb hd.rank, xi := xi, base := 0, pitch := 0, value := 0, bf := c.bfWord
                        pages := [] }
  let els := loadEls c d
  translated e s en.slot .read (els.filterMap (fun x => x.va.map (fun va => (va, x.n))))
    { illop := illop || badShape hd m v cb || tooSmall c hd m v (c.win t.toNat), logs := e.ph.inside
      writes := [.tile t.toNat], stall := held s (some g.toNat) (some h.toNat)
      eff := fun s => issueLoad e (some g.toNat) pr.toNat d .read (swapIf n sw s) }

/-! ## Stores (R284, R288, R289, R300, R305) -/

/-- One value that a store writes: its bytes, its address, the first poisoned word that it comes from, and the bytes that go
out poisoned. -/
structure StoreEl where
  va : Nat
  bytes : List Byte
  bad : Option Nat
  badAt : List Nat
  deriving DecidableEq, Repr

/-- The bytes of a run from a scratchpad address that stand in poisoned words, by offset (R300). -/
def Core.badBytes (c : Core) (a n : Nat) : List Nat :=
  if (c.poisonIn a n).isSome then (upto n).filter (fun i => (c.poisonIn (a + i) 1).isSome) else []

/-- A run of bytes of the scratchpad as a store writes it. -/
def Core.storeRun (c : Core) (va a : Nat) (bs : List Byte) : StoreEl :=
  ⟨va, bs, c.poisonIn a bs.length, c.badBytes a bs.length⟩

/-- The value of an element of a tile row in the handle's format (R245, R284). -/
def storeVal (c : Core) (h f : BFmt) (t : Win) (bs : List Byte) (row pos va : Nat) : StoreEl :=
  let cap := rowCap f t.len
  if h = f || h == .raw || f == .raw then
    c.storeRun va (t.row row + h.bytes * pos) ((bs.drop (h.bytes * pos)).take h.bytes)
  else
    let bad := (elBytes f cap 8 pos).findSome? (fun r => c.poisonIn (t.row row + r.1) r.2)
    ⟨va, leBytes h.bytes (convEl f h (elAt f cap bs pos)), bad, if bad.isSome then upto h.bytes else []⟩

/-- The values that a tile store writes, by ascending row, then position. -/
def storeEls (c : Core) (h : Handle) (t : Win) (els : List TEl) : List StoreEl :=
  let f := c.fmtOf t
  els.filterMap (fun e => e.va.map (fun va => storeVal c h.bfmt f t (c.rowBytes t e.row t.len) e.row e.pos va))

/-- The write of one line: the values in order, a later one standing over an earlier (R288). -/
def lineWrite (place : Nat → Place) (line : Nat) (els : List StoreEl) : Place × Nat × ReqOp :=
  let put (l : List (Option Byte)) (e : StoreEl) : List (Option Byte) :=
    l.take (e.va - 64 * line) ++ e.bytes.map some ++ l.drop (e.va - 64 * line + e.bytes.length)
  let bad := els.foldl (fun l e =>
    setInsAll (e.badAt.map (e.va - 64 * line + ·)) (setDelRange (e.va - 64 * line) e.bytes.length l)) []
  (place (64 * line), 64 * line, .write (els.foldl put (keepAll 64)) bad)

def lineWrites (place : Nat → Place) (els : List StoreEl) : List (Place × Nat × ReqOp) :=
  (byLine (els.map (fun e => (e.va, e)))).map (fun p => lineWrite place p.1 (p.2.map Prod.snd))

/-- An uncorrectable error consumed by a copy-slot instruction (R265, R300). -/
def consume (e : Env) (bad : Option Nat) (s : State) : State :=
  match bad with
  | none => s
  | some a =>
    if e.ph.inside then cancelOf s s.cur
    else mapMe s (fun c => { c with pend := c.pend ++ [.mchk 3 a none] })

/-- Bytes enter the running digest, now or with the phase (R305). -/
def digestBytes (e : Env) (bs : List Byte) (s : State) : State :=
  if bs.isEmpty then s
  else holdOr e s (.digest bs) (fun s => mapMe s (fun c => { c with digest := crc64 c.digest bs }))

/-- A store leaves the core. -/
def issueStore (kind : Nat) (e : Env) (tag : Option Nat) (t : TNo) (rbanks : List Nat) (cap : Option Nat)
    (els : List StoreEl) (pages : List Page) (reqs : List (Place × Nat × ReqOp)) (s : State) : State :=
  let s := consume e (firstBad (els.map StoreEl.bad)) s
  let s := digestBytes e ((els.map StoreEl.bytes).flatten) s
  startXfer s.cur { emptyXfer with kind := kind, tag := tag, reads := [.tile t.toNat], rbanks := rbanks, cap := cap
                                   ph := e.ph.inside, pages := pages } (holder e s) reqs s

/-- A store through a handle: TST and TSCAT. -/
def handleStore (k : Nat) (m : RowMap) (e : Env) (s : State) (en : CopyEng) (g : TagNo) (t : TNo) (h : HNo) (sh : ShNo)
    (sw : Bool) (cb : XNo) (illop : Bool) : Sem :=
  let c := me s
  let hd := handleOf (c.handleAt h.toNat)
  let n := CopyEng.shape en sh
  let v := c.shape n sw
  let w := c.win t.toNat
  let els := storeEls c hd w (tensorEls hd m v (coordsOf s cb hd.rank))
  let pieces := els.map (fun x => (x.va, x.bytes.length))
  let ps := pagesOk (translate s .write (pieces.map Prod.fst))
  translated e s en.slot .write pieces
    { illop := illop || badShape hd m v cb || tooSmall c hd m v w || e.ph == .sealed
      reads := [.tile t.toNat], stall := held s (some g.toNat) (some h.toNat)
      eff := fun s => issueStore k e (some g.toNat) t (w.banks (shapeRows m v)) none els ps
        (lineWrites (fun va => (pageOf ps va).place va) els) (swapIf n sw s) }

/-- TLD (R288): a tile of a tensor lands in a tile. -/
def semTld (en : CopyEng) (g : TagNo) (t : TNo) (h : HNo) (sh : ShNo) (sw : Bool) (cb : XNo) (pr : BitVec 24) (e : Env) (s : State) : Sem :=
  handleLoad 0x00 .tile e s en g t h sh sw cb 0 pr false
/-- TLD (R288), alone in its bundle. -/
def execTld (en : CopyEng) (g : TagNo) (t : TNo) (h : HNo) (sh : ShNo) (sw : Bool) (cb : XNo) (pr : BitVec 24) (s : State) : Host.Outcome State Fault Refusal :=
  issueAlone (.tld en g t h sh sw cb pr) (semTld en g t h sh sw cb pr) s

/-- TST (R288): a tile is written to a tensor. -/
def semTst (en : CopyEng) (g : TagNo) (t : TNo) (h : HNo) (sh : ShNo) (sw : Bool) (cb : XNo) (e : Env) (s : State) : Sem :=
  handleStore 0x01 .tile e s en g t h sh sw cb false
/-- TST (R288), alone in its bundle. -/
def execTst (en : CopyEng) (g : TagNo) (t : TNo) (h : HNo) (sh : ShNo) (sw : Bool) (cb : XNo) (s : State) : Host.Outcome State Fault Refusal :=
  issueAlone (.tst en g t h sh sw cb) (semTst en g t h sh sw cb) s

/-- PREF (R290): brings lines to the line buffers; pieces that would fault are dropped. -/
def semPref (en : CopyEng) (g : TagNo) (h : HNo) (sh : ShNo) (sw : Bool) (cb : XNo) (e : Env) (s : State) : Sem :=
  let c := me s
  let hd := handleOf (c.handleAt h.toNat)
  let n := CopyEng.shape en sh
  let v := c.shape n sw
  let vas := (tensorEls hd .tile v (coordsOf s cb hd.rank)).filterMap TEl.va
  let l := translate s .read vas
  let ps := pagesOk l
  let lines := (byLine ((vas.filter (hasPage ps)).map (fun va => (va, ())))).map (fun p =>
    ((pageOf ps (64 * p.1)).place (64 * p.1), 64 * p.1, [()]))
  let reqs := (mergeLines lines).map (fun p => (p.1, p.2.1, ReqOp.fetch))
  { illop := badShape hd .tile v cb, stall := held s (some g.toNat) (some h.toNat)
    walks := l.map Prod.fst
    sends := ps.any (fun p => (routeOf s (.core s.cur) (p.place p.va)).isSome)
    late := if strays e s ps then [lateIllop en.slot e.word] else []
    eff := fun s => startXfer s.cur { emptyXfer with kind := 0x02, tag := some g.toNat, ph := e.ph.inside, pages := ps } none
      reqs (swapIf n sw s) }
/-- PREF (R290), alone in its bundle. -/
def execPref (en : CopyEng) (g : TagNo) (h : HNo) (sh : ShNo) (sw : Bool) (cb : XNo) (s : State) : Host.Outcome State Fault Refusal :=
  issueAlone (.pref en g h sh sw cb) (semPref en g h sh sw cb) s

/-- TGATH (R289): rows of a tensor named by an index list land in a tile. -/
def semTgath (en : CopyEng) (g : TagNo) (t : TNo) (h : HNo) (sh : ShNo) (sw : Bool) (cb xi : XNo) (pr : BitVec 24) (e : Env) (s : State) : Sem :=
  let c := me s
  let a := (xv s xi).toNat
  let rows := ext1 (dim (c.shape (CopyEng.shape en sh) sw) 1)
  let bad := a % 4 != 0 || decide (0x100000 < a + 4 * rows)
  let m := handleLoad 0x03 (.gather (indexList c a rows)) e s en g t h sh sw cb a pr bad
  { m with eff := fun s => m.eff (consume e (c.poisonIn a (4 * rows)) s) }
/-- TGATH (R289), alone in its bundle. -/
def execTgath (en : CopyEng) (g : TagNo) (t : TNo) (h : HNo) (sh : ShNo) (sw : Bool) (cb xi : XNo) (pr : BitVec 24) (s : State) : Host.Outcome State Fault Refusal :=
  issueAlone (.tgath en g t h sh sw cb xi pr) (semTgath en g t h sh sw cb xi pr) s

/-- TSCAT (R289): tile rows are written to rows of a tensor named by an index list. -/
def semTscat (en : CopyEng) (g : TagNo) (t : TNo) (h : HNo) (sh : ShNo) (sw : Bool) (cb xi : XNo) (e : Env) (s : State) : Sem :=
  let c := me s
  let a := (xv s xi).toNat
  let rows := ext1 (dim (c.shape (CopyEng.shape en sh) sw) 1)
  let bad := a % 4 != 0 || decide (0x100000 < a + 4 * rows)
  let m := handleStore 0x04 (.gather (indexList c a rows)) e s en g t h sh sw cb bad
  { m with eff := fun s => m.eff (consume e (c.poisonIn a (4 * rows)) s) }
/-- TSCAT (R289), alone in its bundle. -/
def execTscat (en : CopyEng) (g : TagNo) (t : TNo) (h : HNo) (sh : ShNo) (sw : Bool) (cb xi : XNo) (s : State) : Host.Outcome State Fault Refusal :=
  issueAlone (.tscat en g t h sh sw cb xi) (semTscat en g t h sh sw cb xi) s

/-- TLDB (R289): one row of a tensor lands in every row of a tile. -/
def semTldb (en : CopyEng) (g : TagNo) (t : TNo) (h : HNo) (sh : ShNo) (sw : Bool) (cb : XNo) (pr : BitVec 24) (e : Env) (s : State) : Sem :=
  handleLoad 0x05 .bcast e s en g t h sh sw cb 0 pr false
/-- TLDB (R289), alone in its bundle. -/
def execTldb (en : CopyEng) (g : TagNo) (t : TNo) (h : HNo) (sh : ShNo) (sw : Bool) (cb : XNo) (pr : BitVec 24) (s : State) : Host.Outcome State Fault Refusal :=
  issueAlone (.tldb en g t h sh sw cb pr) (semTldb en g t h sh sw cb pr) s

/-! ## Strided copies (R291, R292) -/

/-- SCOPY's conditions on its shape and tile (R291). -/
def badCopy (c : Core) (v : W64) (t : Win) : Bool :=
  c.badTile t || !within 1 t.len (dim v 0) || decide (t.rows < ext1 (dim v 1)) || decide (1 < dim v 2) || decide (1 < dim v 3)

/-- SCOPY.ld (R291): a strided range lands in a tile. -/
def semScopyLd (en : CopyEng) (g : TagNo) (t : TNo) (sh : ShNo) (sw : Bool) (xa xs : XNo) (pr : BitVec 24) (e : Env) (s : State) : Sem :=
  let c := me s
  let n := CopyEng.shape en sh
  let v := c.shape n sw
  let d : LoadDesc := { kind := 0x06, tile := c.tileAt t.toNat, tileNo := t.toNat, handle := 0, shape := v, coords := []
                        xi := 0, base := (xv s xa).toNat, pitch := (xv s xs).toInt, value := 0, bf := c.bfWord, pages := [] }
  translated e s en.slot .read ((loadEls c d).filterMap (fun x => x.va.map (fun va => (va, x.n))))
    { illop := badCopy c v (c.win t.toNat), logs := e.ph.inside, writes := [.tile t.toNat], stall := held s (some g.toNat) none
      eff := fun s => issueLoad e (some g.toNat) pr.toNat d .read (swapIf n sw s) }
/-- SCOPY.ld (R291), alone in its bundle. -/
def execScopyLd (en : CopyEng) (g : TagNo) (t : TNo) (sh : ShNo) (sw : Bool) (xa xs : XNo) (pr : BitVec 24) (s : State) : Host.Outcome State Fault Refusal :=
  issueAlone (.scopyLd en g t sh sw xa xs pr) (semScopyLd en g t sh sw xa xs pr) s

/-- SCOPY.st (R291): a tile is written to a strided range. -/
def semScopySt (en : CopyEng) (g : TagNo) (t : TNo) (sh : ShNo) (sw : Bool) (xa xs : XNo) (e : Env) (s : State) : Sem :=
  let c := me s
  let n := CopyEng.shape en sh
  let v := c.shape n sw
  let w := c.win t.toNat
  let base := (xv s xa).toInt
  let pitch := (xv s xs).toInt
  let els := ((upto (ext1 (dim v 1))).map (fun (j : Nat) =>
    let bs := c.rowBytes w j w.len
    ((runs 64 ((base + (j : Int) * pitch) % 2 ^ 60).toNat (dim v 0)).foldl (fun (p : List StoreEl × Nat) r =>
      (p.1 ++ [c.storeRun r.1 (w.row j + p.2) ((bs.drop p.2).take r.2)], p.2 + r.2)) ([], 0)).1)).flatten
  let pieces := els.map (fun x => (x.va, x.bytes.length))
  let ps := pagesOk (translate s .write (pieces.map Prod.fst))
  translated e s en.slot .write pieces
    { illop := badCopy c v w || e.ph == .sealed, reads := [.tile t.toNat], stall := held s (some g.toNat) none
      eff := fun s => issueStore 0x06 e (some g.toNat) t (w.banks (ext1 (dim v 1))) none els ps
        (lineWrites (fun va => (pageOf ps va).place va) els) (swapIf n sw s) }
/-- SCOPY.st (R291), alone in its bundle. -/
def execScopySt (en : CopyEng) (g : TagNo) (t : TNo) (sh : ShNo) (sw : Bool) (xa xs : XNo) (s : State) : Host.Outcome State Fault Refusal :=
  issueAlone (.scopySt en g t sh sw xa xs) (semScopySt en g t sh sw xa xs) s

/-- Conditions of a vault transfer (R292). -/
def badVault (c : Core) (v : W64) (t : Win) (off : Nat) (pitch : Int) : Bool :=
  c.badTile t || dim v 0 % 64 != 0 || decide (t.len < dim v 0) || decide (t.rows < ext1 (dim v 1)) || decide (1 < dim v 2) ||
    decide (1 < dim v 3) || off % 64 != 0 || pitch % 64 != 0 ||
    (upto (ext1 (dim v 1))).any (fun j =>
      let a := (off : Int) + (j : Int) * pitch
      decide (a < 0) || decide (0x200000 < a + dim v 0))

/-- At level 2 the vault is no place of the core's own scratchpad (R168). -/
def vaultStrays (e : Env) (s : State) (sl : Slot) : List Late :=
  if levelOf s (me s) = 2 && !e.ph.inside then [lateIllop sl e.word] else []

/-- VTLD (R292): lines of the own vault land in a tile. -/
def semVtld (en : CopyEng) (t : TNo) (sh : ShNo) (sw : Bool) (xo xs : XNo) (e : Env) (s : State) : Sem :=
  let c := me s
  let n := CopyEng.shape en sh
  let v := c.shape n sw
  let d : LoadDesc := { kind := 0x07, tile := c.tileAt t.toNat, tileNo := t.toNat, handle := 0, shape := v, coords := []
                        xi := 0, base := (xv s xo).toNat, pitch := (xv s xs).toInt, value := 0, bf := c.bfWord, pages := [] }
  { illop := badVault c v (c.win t.toNat) d.base d.pitch, logs := e.ph.inside, writes := [.tile t.toNat]
    late := vaultStrays e s en.slot
    eff := fun s => issueLoad e none 0 d .read (swapIf n sw s) }
/-- VTLD (R292), alone in its bundle. -/
def execVtld (en : CopyEng) (t : TNo) (sh : ShNo) (sw : Bool) (xo xs : XNo) (s : State) : Host.Outcome State Fault Refusal :=
  issueAlone (.vtld en t sh sw xo xs) (semVtld en t sh sw xo xs) s

/-- VTST (R292): a tile is written to lines of the own vault. -/
def semVtst (en : CopyEng) (t : TNo) (sh : ShNo) (sw : Bool) (xo xs : XNo) (e : Env) (s : State) : Sem :=
  let c := me s
  let n := CopyEng.shape en sh
  let v := c.shape n sw
  let w := c.win t.toNat
  let off := (xv s xo).toNat
  let pitch := (xv s xs).toInt
  let rows := ext1 (dim v 1)
  let els : List StoreEl := ((upto rows).map (fun (j : Nat) =>
    let bs := c.rowBytes w j w.len
    (upto (dim v 0 / 4)).map (fun i =>
      c.storeRun (((off : Int) + (j : Int) * pitch).toNat + 4 * i) (w.row j + 4 * i) ((bs.drop (4 * i)).take 4)))).flatten
  { illop := badVault c v w off pitch || e.ph == .sealed, reads := [.tile t.toNat], late := vaultStrays e s en.slot
    eff := fun s => issueStore 0x08 e none t (w.banks rows) (some (4 + (dim v 0 * rows + 255) / 256)) els []
      (lineWrites (fun va => ⟨.vault s.cur, va, 0⟩) els) (swapIf n sw s) }
/-- VTST (R292), alone in its bundle. -/
def execVtst (en : CopyEng) (t : TNo) (sh : ShNo) (sw : Bool) (xo xs : XNo) (s : State) : Host.Outcome State Fault Refusal :=
  issueAlone (.vtst en t sh sw xo xs) (semVtst en t sh sw xo xs) s

/-- TFILL (R293): fills a tile with one value. -/
def semTfill (en : CopyEng) (t : TNo) (sh : ShNo) (sw : Bool) (xv : XNo) (e : Env) (s : State) : Sem :=
  let c := me s
  let n := CopyEng.shape en sh
  let v := c.shape n sw
  let w := c.win t.toNat
  let d : LoadDesc := { kind := 0x09, tile := c.tileAt t.toNat, tileNo := t.toNat, handle := 0, shape := v, coords := []
                        xi := 0, base := 0, pitch := 0, value := c.rx xv.toNat, bf := c.bfWord, pages := [] }
  { illop := c.badTile w || decide (rowCap (c.fmtOf w) w.len < dim v 0) || decide (w.rows < ext1 (dim v 1)) ||
      decide (1 < dim v 2) || decide (1 < dim v 3)
    logs := e.ph.inside, writes := [.tile t.toNat]
    eff := fun s => issueLoad e none 0 d .read (swapIf n sw s) }
/-- TFILL (R293), alone in its bundle. -/
def execTfill (en : CopyEng) (t : TNo) (sh : ShNo) (sw : Bool) (xv : XNo) (s : State) : Host.Outcome State Fault Refusal :=
  issueAlone (.tfill en t sh sw xv) (semTfill en t sh sw xv) s

/-! ## Atomics and reductions (R294-R297) -/

/-- The address of an atomic in the virtual space. -/
def atomVa (s : State) (xa : XNo) : Nat := (xv s xa).toNat % 2 ^ 60

/-- The window that holds an address, in the issuing context. -/
def windowOf (s : State) (va : Nat) : Option Window := windowAt (ctxAt s (ctxNo s (me s))) va

/-- A size code or an address that no atomic has (R294). -/
def badAtom (s : State) (sz : BitVec 2) (xa : XNo) : Bool := decide (1 < sz.toNat) || (xv s xa).toNat % (4 * 2 ^ sz.toNat) != 0

/-- An address is the start of a cell of a window. -/
def cellStart (w : Window) (va : Nat) : Bool := (va - w.base) % 32 == 0

/-- ATOM (R294, R297): an atomic operation at a home; the old value lands in a tile. -/
def semAtom (en : CopyEng) (g : TagNo) (t : TNo) (op : BitVec 6) (sz : BitVec 2) (xa xv : XNo) (pr : BitVec 24) (e : Env) (s : State) : Sem :=
  let c := me s
  let k := op.toNat
  let va := atomVa s xa
  let w := windowOf s va
  let level := levelOf s c
  let acc : Acc := if k = 10 then .cread else .atom
  let tile := c.win t.toNat
  let dst := tile.row 0
  let v := c.rx xv.toNat
  let rop : ReqOp := if k = 10 then .cread ((w.map Window.fmt).getD 0) ((w.map Window.x).getD 0) dst
    else .atom k sz.toNat v (c.rx (xv.toNat + 1)) dst
  let bad := c.badTile tile || badAtom s sz xa || decide (10 < k) || (k == 9 && xv.toNat == 31) ||
    (if k = 10 then (w.map (fun w => !cellStart w va)).getD true else w.isSome) || level == 2 ||
    (level == 1 && e.ph.inside)
  translated e s en.slot acc [(va, 4 * 2 ^ sz.toNat)]
    { illop := bad, writes := [.tile t.toNat], stall := held s (some g.toNat) none
      eff := fun s =>
        let ps := pagesOk (translate s acc [va])
        startXfer s.cur { emptyXfer with
            kind := 0x0A, tag := some g.toNat, writes := [.tile t.toNat], wbanks := tile.banks 1, readDone := true
            due := if pr.toNat = 0 then none else some (c.lcc.toNat + pr.toNat), promise := pr.toNat != 0
            ph := e.ph.inside, pages := ps } none [((pageOf ps va).place va, va, rop)] s }
/-- ATOM (R294, R297), alone in its bundle. -/
def execAtom (en : CopyEng) (g : TagNo) (t : TNo) (op : BitVec 6) (sz : BitVec 2) (xa xv : XNo) (pr : BitVec 24) (s : State) : Host.Outcome State Fault Refusal :=
  issueAlone (.atom en g t op sz xa xv pr) (semAtom en g t op sz xa xv pr) s

/-- The reduction request of a value: an addend of a cell in a window, or an operation on a word. -/
def redOp (op sz : Nat) (w : Option Window) (v : W64) : ReqOp :=
  match w with
  | some w => .cell w.fmt w.x (sz == 1) v
  | none => .red op sz v

/-- RED (R294, R295, R297): a reduction at a home; held in an open phase. -/
def semRed (en : CopyEng) (g : TagNo) (op : BitVec 6) (sz : BitVec 2) (xa xv : XNo) (e : Env) (s : State) : Sem :=
  let c := me s
  let k := op.toNat
  let va := atomVa s xa
  let w := windowOf s va
  let level := levelOf s c
  let acc : Acc := if k = 11 then .fadd else .red
  let bad := badAtom s sz xa || (decide (7 < k) && k != 11) || e.ph == .sealed ||
    (match w with
     | some w => k != 11 || w.fmt != 8 + sz.toNat || !cellStart w va
     | none => k == 11 && level != 0)
  let v := c.rx xv.toNat
  translated e s en.slot acc [(va, 4 * 2 ^ sz.toNat)]
    { illop := bad, stall := held s (some g.toNat) none
      eff := fun s =>
        let ps := pagesOk (translate s acc [va])
        startXfer s.cur { emptyXfer with kind := 0x0B, tag := some g.toNat, ph := e.ph.inside, pages := ps } (holder e s)
          [((pageOf ps va).place va, va, redOp k sz.toNat w v)] s }
/-- RED (R294, R295, R297), alone in its bundle. -/
def execRed (en : CopyEng) (g : TagNo) (op : BitVec 6) (sz : BitVec 2) (xa xv : XNo) (s : State) : Host.Outcome State Fault Refusal :=
  issueAlone (.red en g op sz xa xv) (semRed en g op sz xa xv) s

/-- A REDT other than FADD into a window, or a FADD outside every window above level 0 (R295, R297). -/
def badReduction (s : State) (op : Nat) (vas : List Nat) : Bool :=
  if vas.any (fun va => (windowOf s va).isSome) then op != 11 else !vas.isEmpty && op == 11 && levelOf s (me s) != 0

/-- A FADD REDT that meets a window and breaks its rule (R296), on the addresses that translated (R97). -/
def badWindows (s : State) (op : Nat) (f : BFmt) (vas : List Nat) : Bool :=
  let ws := vas.map (windowOf s)
  match ws.findSome? id with
  | none => false
  | some w =>
    op == 11 && (w.fmt != (if f == .f64 then 9 else 8) ||
      (vas.zip ws).any (fun p => p.2 != some w || !cellStart w p.1))

/-- REDT (R296, R297): every element of a tile is reduced into a tensor. -/
def semRedt (en : CopyEng) (g : TagNo) (t : TNo) (h : HNo) (sh : ShNo) (sw : Bool) (cb : XNo) (op : BitVec 5) (e : Env) (s : State) : Sem :=
  let c := me s
  let hd := handleOf (c.handleAt h.toNat)
  let n := CopyEng.shape en sh
  let v := c.shape n sw
  let w := c.win t.toNat
  let k := op.toNat
  let sz := if hd.bfmt == .f64 then 1 else 0
  let els := storeEls c hd w (tensorEls hd .tile v (coordsOf s cb hd.rank))
  let pieces := els.map (fun x => (x.va, x.bytes.length))
  let acc : Acc := if k = 11 then .fadd else .red
  let ps := pagesOk (translate s acc (pieces.map Prod.fst))
  let opBad := !((decide (k ≤ 7) && hd.bfmt == .i32) || (k == 11 && (hd.bfmt == .f32 || hd.bfmt == .f64)))
  let reqs := els.map (fun x =>
    ((pageOf ps x.va).place x.va, x.va,
      if x.bad.isSome then ReqOp.write (keepAll x.bytes.length) (upto x.bytes.length)
      else redOp k sz (windowOf s x.va) (n64 (leNat x.bytes))))
  let m := translated e s en.slot acc pieces
    { illop := opBad || badShape hd .tile v cb || tooSmall c hd .tile v w || e.ph == .sealed ||
        badReduction s k (els.map StoreEl.va)
      reads := [.tile t.toNat], stall := held s (some g.toNat) (some h.toNat)
      eff := fun s =>
        let s := consume e (firstBad (els.map StoreEl.bad)) (swapIf n sw s)
        startXfer s.cur { emptyXfer with kind := 0x0C, tag := some g.toNat, reads := [.tile t.toNat]
                                         rbanks := w.banks (shapeRows .tile v), ph := e.ph.inside, pages := ps }
          (holder e s) reqs s }
  { m with late := (if badWindows s k hd.bfmt ((els.map StoreEl.va).filter (hasPage ps)) then [lateIllop en.slot e.word] else []) ++ m.late }
/-- REDT (R296, R297), alone in its bundle. -/
def execRedt (en : CopyEng) (g : TagNo) (t : TNo) (h : HNo) (sh : ShNo) (sw : Bool) (cb : XNo) (op : BitVec 5) (s : State) : Host.Outcome State Fault Refusal :=
  issueAlone (.redt en g t h sh sw cb op) (semRedt en g t h sh sw cb op) s

/-! ## Handles (R298) -/

/-- A tile that cannot hold a handle. -/
def badHandleTile (c : Core) (t : Win) : Bool := c.badTile t || decide (t.len < 128)

/-- Byte offset of HMOD's fields. -/
def handleField (f : Nat) : Nat := [0x00, 0x10, 0x18, 0x20, 0x28, 0x30, 0x38, 0x40, 0x48, 0x50, 0x08].getD f 0

/-- HLD (R298): a handle is taken from a tile. -/
def semHld (en : CopyEng) (t : TNo) (h : HNo) (e : Env) (s : State) : Sem :=
  let _ := en
  let c := me s
  let w := c.win t.toNat
  let v : HandleBits := BitVec.ofNat 1024 (leNat (c.rowBytes w 0 128))
  { illop := badHandleTile c w, reads := [.tile t.toNat], stall := held s none (some h.toNat)
    eff := fun s =>
      let s := consume e (c.poisonIn (w.row 0) 128) s
      startXfer s.cur { emptyXfer with kind := 0x0D, reads := [.tile t.toNat], rbanks := w.banks 1, handle := some h.toNat
                                       newHandle := some (h.toNat, .all v), ph := e.ph.inside } none [] s }
/-- HLD (R298), alone in its bundle. -/
def execHld (en : CopyEng) (t : TNo) (h : HNo) (s : State) : Host.Outcome State Fault Refusal :=
  issueAlone (.hld en t h) (semHld en t h) s

/-- HST (R298): a handle is put into a tile. -/
def semHst (en : CopyEng) (t : TNo) (h : HNo) (e : Env) (s : State) : Sem :=
  let _ := en
  let c := me s
  let w := c.win t.toNat
  { illop := badHandleTile c w, writes := [.tile t.toNat], stall := held s none (some h.toNat)
    eff := startXfer s.cur { emptyXfer with
      kind := 0x0E, writes := [.tile t.toNat], wbanks := w.banks 1, readDone := true, ph := e.ph.inside
      land := [⟨0, .bytes (w.row 0), leBytes 128 (c.handleAt h.toNat).toNat, false⟩] } none [] }
/-- HST (R298), alone in its bundle. -/
def execHst (en : CopyEng) (t : TNo) (h : HNo) (s : State) : Host.Outcome State Fault Refusal :=
  issueAlone (.hst en t h) (semHst en t h) s

/-- HMOD (R298): one field of a handle is written, and nothing else of it. -/
def semHmod (en : CopyEng) (h : HNo) (xv : XNo) (f : BitVec 8) (e : Env) (s : State) : Sem :=
  let _ := en
  let c := me s
  { illop := decide (10 < f.toNat), stall := held s none (some h.toNat)
    eff := startXfer s.cur { emptyXfer with
      kind := 0x0F, handle := some h.toNat, readDone := true, ph := e.ph.inside
      newHandle := some (h.toNat, .field (handleField f.toNat) (c.rx xv.toNat)) } none [] }
/-- HMOD (R298), alone in its bundle. -/
def execHmod (en : CopyEng) (h : HNo) (xv : XNo) (f : BitVec 8) (s : State) : Host.Outcome State Fault Refusal :=
  issueAlone (.hmod en h xv f) (semHmod en h xv f) s

/-! ## Overlays (R149) -/

/-- Overlays of the image that overlap another's destination. -/
def overlaps (l : List Overlay) (o : Overlay) : List Nat :=
  (upto l.length).filter (fun i =>
    let x := l.getD i default
    decide (x.dest < o.dest + o.len) && decide (o.dest < x.dest + x.len))

/-- The reads of the 64 bytes of an overlay's line: those of its source, cut at lines; what they bring is gathered at offsets 0
to 63 (R149). -/
def ovlReads (ps : List Page) (va : Nat) : List (Place × Nat × ReqOp) :=
  ((runs 64 va 64).foldl (fun (acc : List (Place × Nat × ReqOp) × Nat) r =>
    let p := (pageOf ps r.1).place r.1
    (acc.1 ++ [({ p with addr := p.addr / 64 * 64 }, r.1, .read [⟨p.addr % 64, r.2, .bytes acc.2, acc.2⟩])], acc.2 + r.2)) ([], 0)).1

/-- The copy of one line of an overlay begins: the transfer that reads it, whose number the copy keeps. -/
def startOvlLine (n tag line : Nat) (ps : List Page) (va : Nat) (s : State) : State :=
  let xid := s.nextId
  mapCore (startXfer n { emptyXfer with kind := 0x22, readDone := true, pages := ps } none (ovlReads ps va) s) n (fun c =>
    { c with ovls := c.ovls.map (fun o => if o.tag = tag then { o with lines := o.lines ++ [(line, xid)] } else o) })

/-- OVL (R149): copies an overlay into the bundle store unless it is present. DESIGN CHOICE (the notes' log entry 60): of a
length of 0 no line is the last, and the copy holds its tag until another overlay's line lands on the core; of a table entry
that breaks the limits of R107, destination and length are rounded down to whole lines, and lines beyond the store are kept
where no fetch reaches. -/
def semOvl (en : CopyEng) (g : TagNo) (n : BitVec 24) (e : Env) (s : State) : Sem :=
  let _ := en
  let c := me s
  let k := kernelOf s c
  let o := k.overlays.getD n.toNat default
  let src := (k.lr.image + o.off) % 2 ^ 60
  let l := translate s .read ((runs 65536 src o.len).map Prod.fst)
  let ps := pagesOk l
  let there := c.present.contains n.toNat && o.tag != 0
  let ragged := raggedMmio s (ctxNo s c) .read (runs 65536 src o.len) none
  { illop := decide (k.overlays.length ≤ n.toNat) || c.tags.contains g.toNat
    walks := l.map Prod.fst
    sends := ps.any (fun p => (routeOf s (.core s.cur) (p.place p.va)).isSome)
    late := match lowerFault (firstFault l) (ragged.map (fun va => (va, 5))) with
      | some (va, r) => [lateXlate va r]
      | none => []
    eff := fun s =>
      let _ := e
      if there then s else
        let s := mapMe s (fun c => { c with
          bPend := setInsAll ((upto (o.len / 64)).map (o.dest / 64 + ·)) c.bPend
          present := c.present.filter (fun i => !(overlaps k.overlays o).contains i)
          ovls := c.ovls ++ [⟨n.toNat, g.toNat, []⟩] })
        (upto (o.len / 64)).foldl (fun s i => startOvlLine s.cur g.toNat (o.dest / 64 + i) ps (src + 64 * i) s) s }
/-- OVL (R149), alone in its bundle. -/
def execOvl (en : CopyEng) (g : TagNo) (n : BitVec 24) (s : State) : Host.Outcome State Fault Refusal :=
  issueAlone (.ovl en g n) (semOvl en g n) s

end Sys2Proof.Machine
end

