-- ==== Sys2Proof/Machine/LinkSlot.lean ====
section
/-! DEFINITION. The L slot (08_group R159-R161; 13_rank R278, R279; 22_link R401-R410; 23_program_link_exchange R418):
timed messages within a gang and over a port, chained copies and their check. -/

namespace Sys2Proof.Machine

/-! ## Gangs and channels (R159, R403) -/

/-- The gang index of a core. -/
def gangIndex (s : State) (c : Core) : Nat := c.group * 2 ^ (kernelOf s c).lr.gsize + c.cidx

/-- The core of a gang index in a kernel, if there is one. -/
def gangCore (s : State) (k g : Nat) : Option Nat :=
  let n := 2 ^ (kernelAt s k).lr.gsize
  (groupAt s k (g / n)).cores[g % n]?

/-- Conditions of ILLOP reason 5 of every message and receive instruction (R159, R412). -/
def badMessage (e : Env) (s : State) (port peer : Nat) : Bool :=
  let c := me s
  let k := kernelOf s c
  decide (16 < port) || k.lr.nest || !c.aligned || c.tl != 0 || e.ph.inside ||
    (port == 16 && (decide (k.lr.gang * 2 ^ k.lr.gsize ≤ peer) || peer == gangIndex s c))

/-- A window that SEND, RECV and the combining receives accept (R159). -/
def badWindow (c : Core) (t : Win) : Bool := c.badTile t || !([64, 128, 192, 256].contains t.bytes)

/-- The tile of SENDR and RECVR (R278). -/
def badRankTile (c : Core) (t : Win) (k rows : Nat) : Bool :=
  c.badTile t || decide (t.rows < rows) || (c.fmtOf t != .raw && c.fmtOf t != .n8) || decide (1024 < rows * k)

/-- What a port refuses before any stall (R403, R411). -/
def portError (s : State) (port : Nat) : Option (Nat × Nat) :=
  if 16 ≤ port then none
  else
    let c := me s
    let n := ctxNo s c
    let l := linkAt s port
    if !(ctxAt s n).portMask.getLsbD port then some (port, 1)
    else if l.st == .down || l.ctx.toNat != n || !l.v then some (port, 2)
    else if l.claim.isSome && l.claim != c.kernel then some (port, 3)
    else none

/-- The kernel claims the port (R402). -/
def claimPort (port : Nat) (s : State) : State :=
  if 16 ≤ port then s else
    let k := (me s).kernel
    mapLink s port (fun l => { l with claim := if l.claim.isSome then l.claim else k })

/-- Slots in use in a list of messages. -/
def slotsOf (l : List Msg) : Nat := (l.map Msg.slots).foldl (· + ·) 0

/-- Slots that a message of `n` bytes takes in a skid (R401). -/
def skidSlots (n : Nat) : Nat := max 1 ((n + 63) / 64)

/-- A message on its way to the transmit skid of a port. -/
def Req.skidFor (port : Nat) (r : Req) : Option Msg :=
  if r.place.home == .skid port && r.waiting then
    (match r.op with
     | .msg m => some m
     | _ => none)
  else none

/-- Slots of a port's transmit skid that are in use, or that messages on their way to it take (R401). -/
def skidUsed (s : State) (port : Nat) : Nat := slotsOf (linkAt s port).tx + slotsOf (s.reqs.filterMap (Req.skidFor port))

/-- No room for a message (R160, R279, R401). -/
def noRoom (s : State) (port slots : Nat) : Bool :=
  if 16 ≤ port then decide (16 < slotsOf (me s).outbox + slots) else decide (64 < skidUsed s port + slots)

/-- What a message needs of a port's skid (R413). -/
def skidWait (port slots : Nat) (stage : Bool) : Option SkidWait := if port < 16 then some ⟨port, slots, stage⟩ else none

/-- A poisoned byte among rows of a tile. -/
def poisonRows (c : Core) (t : Win) (rows n : Nat) : Option Nat := (upto rows).findSome? (fun j => c.poisonIn (t.row j) n)

/-- Bytes of the first rows of a tile, row after row. -/
def rowStream (c : Core) (t : Win) (rows n : Nat) : List Byte := ((upto rows).map (fun j => c.rowBytes t j n)).flatten

/-- The place that a message for a port travels to. DESIGN CHOICE (the notes' log entry 74): its fabric address is that of the
first line of the port's message window, which decides its plane; the spec gives messages no address (R365, R393). -/
def skidPlace (port : Nat) : Place := ⟨.skid port, 0xF000000000, 0⟩

/-- A message leaves: into the outbox, or on a plane to the transmit skid of a port, for the device `dest` (R365, R405); its tile is
READ until the payload has been copied (R160). -/
def sendMsg (e : Env) (port : Nat) (dest : BitVec 20) (t : TNo) (w : Win) (rows : Nat) (bad : Option Nat) (m : Msg) (s : State) :
    State :=
  let s := consume e bad s
  let s := if 16 ≤ port then mapMe s (fun c => { c with outbox := c.outbox ++ [m] })
    else
      let n := ctxNo s (me s)
      sendReq (claimPort port s) (.core s.cur) n none (skidPlace port) 0
        (.msg { m with sender := some s.cur, from_ := s.devid, dest := dest, ctx := n }) none
  startXfer s.cur { emptyXfer with kind := 0x21, reads := [.tile t.toNat], rbanks := w.banks rows } none [] s

/-- The oldest message of the channel from a peer to this core (R160, R403). -/
def channelHead (s : State) (port peer : Nat) : Option Msg :=
  let c := me s
  let me_ := gangIndex s c
  if 16 ≤ port then
    ((gangCore s (c.kernel.getD 0) peer).bind (fun n => (coreAt s n).outbox.find? (fun m => m.dst == me_)))
  else (linkAt s port).rx.find? (fun m => m.src == peer && m.dst == me_)

/-- The first message that a predicate picks is removed. -/
def dropFirst (p : Msg → Bool) : List Msg → List Msg
  | [] => []
  | m :: r => if p m then r else m :: dropFirst p r

/-- That message is taken from its channel. -/
def takeMsg (port peer : Nat) (s : State) : State :=
  let c := me s
  let me_ := gangIndex s c
  if 16 ≤ port then
    match gangCore s (c.kernel.getD 0) peer with
    | some n => mapCore s n (fun c => { c with outbox := dropFirst (fun m => m.dst == me_) c.outbox })
    | none => s
  else mapLink (claimPort port s) port (fun l => { l with rx := dropFirst (fun m => m.src == peer && m.dst == me_) l.rx })

/-- The stamp that a receive expects (R161). -/
def expectedStamp (s : State) (ts : BitVec 24) : Nat := (((me s).lcc.toInt - ts.toNat) % 2 ^ 40).toNat

/-- The mismatch of a message with what a receive expects: 1 stamp, 2 shape (R161, R279). -/
def mismatch (s : State) (ts : BitVec 24) (m : Msg) (shapeOk : Bool) : List Late :=
  let x := expectedStamp s ts
  let r := if m.stamp != x then 1 else if shapeOk then 0 else 2
  if r = 0 then [] else [⟨rank 7 6, false, 4, n64 (x + r * 2 ^ 40), n64 m.stamp, id⟩]

/-- A receive: waits for its channel, checks the message, and lands rows in its tile (R161). -/
def receive (e : Env) (s : State) (port peer : Nat) (t : TNo) (w : Win) (rows : Nat) (ts : BitVec 24) (illop : Bool)
    (shapeOk : Msg → Bool) (bad : Option Nat) (row : Msg → Nat → List (Option Byte)) : Sem :=
  let m := channelHead s port peer
  let msg := m.getD default
  { illop := illop || badMessage e s port peer || ts == 0, linkerr := portError s port
    writes := [.tile t.toNat], stall := m.isNone
    late := if m.isSome then mismatch s ts msg (shapeOk msg) else []
    eff := fun s =>
      let s := consume e bad (takeMsg port peer s)
      startXfer s.cur { emptyXfer with
        kind := 0x20, writes := [.tile t.toNat], wbanks := w.banks rows, readDone := true
        land := (upto rows).map (fun j => ⟨j, .bytes (w.row j), (row msg j).filterMap id, false⟩) } none [] s }

/-- SEND (R159, R160, R403): sends a tile to a peer. -/
def semSend (port : BitVec 5) (t : TNo) (peer : BitVec 10) (e : Env) (s : State) : Sem :=
  let c := me s
  let w := c.win t.toNat
  let p := port.toNat
  let m : Msg := { src := gangIndex s c, dst := peer.toNat, sendr := false, stamp := c.lcc.toNat % 2 ^ 40, k := 0, rows := 0
                   payload := rowStream c w w.rows w.len, slots := if 16 ≤ p then 1 else skidSlots w.bytes, sender := none
                   from_ := 0, dest := 0, ctx := 0, num := 0, chain := none, pages := [] }
  { illop := badMessage e s p peer.toNat || badWindow c w, linkerr := portError s p, reads := [.tile t.toNat]
    stall := noRoom s p m.slots, skid := skidWait p m.slots false, sends := decide (p < 16)
    eff := sendMsg e p (linkAt s p).peer t w w.rows (poisonRows c w w.rows w.len) m }
/-- SEND (R159, R160, R403), alone in its bundle. -/
def execSend (port : BitVec 5) (t : TNo) (peer : BitVec 10) (s : State) : Host.Outcome State Fault Refusal :=
  issueAlone (.send port t peer) (semSend port t peer) s

/-- RECV (R159, R161, R403): receives a SEND message into a tile. -/
def semRecv (port : BitVec 5) (t : TNo) (peer : BitVec 10) (ts : BitVec 24) (e : Env) (s : State) : Sem :=
  let c := me s
  let w := c.win t.toNat
  receive e s port.toNat peer.toNat t w w.rows ts (badWindow c w) (fun m => !m.sendr && m.payload.length == w.bytes) none
    (fun m j => allBytes ((m.payload.drop (w.len * j)).take w.len))
/-- RECV (R159, R161, R403), alone in its bundle. -/
def execRecv (port : BitVec 5) (t : TNo) (peer : BitVec 10) (ts : BitVec 24) (s : State) : Host.Outcome State Fault Refusal :=
  issueAlone (.recv port t peer ts) (semRecv port t peer ts) s

/-- SENDR (R278, R279, R403): sends the leading rank bytes of rows. -/
def semSendr (port : BitVec 5) (t : TNo) (peer : BitVec 10) (k : BitVec 6) (rows : BitVec 4) (e : Env) (s : State) : Sem :=
  let c := me s
  let w := c.win t.toNat
  let p := port.toNat
  let n := k.toNat + 1
  let r := rows.toNat + 1
  let m : Msg := { src := gangIndex s c, dst := peer.toNat, sendr := true, stamp := c.lcc.toNat % 2 ^ 40, k := n, rows := r
                   payload := rowStream c w r n, slots := if 16 ≤ p then (r * n + 255) / 256 else skidSlots (r * n)
                   sender := none, from_ := 0, dest := 0, ctx := 0, num := 0, chain := none, pages := [] }
  { illop := badMessage e s p peer.toNat || badRankTile c w n r, linkerr := portError s p, reads := [.tile t.toNat]
    stall := noRoom s p m.slots, skid := skidWait p m.slots false, sends := decide (p < 16)
    eff := sendMsg e p (linkAt s p).peer t w r (poisonRows c w r n) m }
/-- SENDR (R278, R279, R403), alone in its bundle. -/
def execSendr (port : BitVec 5) (t : TNo) (peer : BitVec 10) (k : BitVec 6) (rows : BitVec 4) (s : State) : Host.Outcome State Fault Refusal :=
  issueAlone (.sendr port t peer k rows) (semSendr port t peer k rows) s

/-- RECVR (R278, R279, R403): receives the leading rank bytes of rows; 0xFF fills the rest of their 64. -/
def semRecvr (port : BitVec 5) (t : TNo) (peer : BitVec 10) (k : BitVec 6) (rows : BitVec 4) (ts : BitVec 24) (e : Env) (s : State) : Sem :=
  let c := me s
  let w := c.win t.toNat
  let n := k.toNat + 1
  let r := rows.toNat + 1
  receive e s port.toNat peer.toNat t w r ts (badRankTile c w n r) (fun m => m.sendr && m.k == n && m.rows == r) none
    (fun m j => allBytes ((m.payload.drop (n * j)).take n ++ List.replicate (64 - n) 0xFF))
/-- RECVR (R278, R279, R403), alone in its bundle. -/
def execRecvr (port : BitVec 5) (t : TNo) (peer : BitVec 10) (k : BitVec 6) (rows : BitVec 4) (ts : BitVec 24) (s : State) : Host.Outcome State Fault Refusal :=
  issueAlone (.recvr port t peer k rows ts) (semRecvr port t peer k rows ts) s

/-! ## Combining receives (R404) -/

/-- The combination of two elements of a format. -/
inductive Comb where
  | add | max | min
  deriving DecidableEq, Repr

def combine (k : Comb) (f : BFmt) (a b : Nat) : Nat :=
  match f.float? with
  | some g =>
    match k with
    | .add => fAdd g .rne (FVal.ofBits g a) (FVal.ofBits g b)
    | .max => fMax g a b
    | .min => fMin g a b
  | none =>
    let n := 8 * f.bytes
    let rd (v : Nat) : Int := if f = .n8 then (v : Int) else sextI v n
    let r := match k with
      | .add => rd a + rd b
      | .max => max (rd a) (rd b)
      | .min => min (rd a) (rd b)
    (BitVec.ofInt n r).toNat

/-- Formats that a combining receive accepts. -/
def combFmt : BFmt → Bool
  | .raw => false | .b1 => false | .pni => false
  | _ => true

/-- A received row combined with the row as it stands; an element with an uncorrectable error becomes NaN or 0 (R265). -/
def combRow (k : Comb) (c : Core) (w : Win) (j : Nat) (pay : List Byte) : List (Option Byte) :=
  let f := c.fmtOf w
  let old := c.rowBytes w j w.len
  allBytes ((upto (w.len / f.bytes)).map (fun i =>
    if (c.poisonIn (w.row j + f.bytes * i) f.bytes).isSome then leBytes f.bytes ((f.float?.map FFmt.nan).getD 0)
    else leBytes f.bytes (combine k f (leNat ((old.drop (f.bytes * i)).take f.bytes))
      (leNat ((pay.drop (f.bytes * i)).take f.bytes))))).flatten

/-- RADD, RMAX and RMIN (R404). -/
def combining (k : Comb) (e : Env) (s : State) (port : BitVec 5) (t : TNo) (peer : BitVec 10) (ts : BitVec 24) : Sem :=
  let c := me s
  let w := c.win t.toNat
  receive e s port.toNat peer.toNat t w w.rows ts (badWindow c w || !combFmt (c.fmtOf w))
    (fun m => !m.sendr && m.payload.length == w.bytes) (poisonRows c w w.rows w.len)
    (fun m j => combRow k c w j ((m.payload.drop (w.len * j)).take w.len))

/-- RADD (R404): receives a SEND message and combines it into a tile. -/
def semRadd (port : BitVec 5) (t : TNo) (peer : BitVec 10) (ts : BitVec 24) (e : Env) (s : State) : Sem :=
  combining .add e s port t peer ts
/-- RADD (R404), alone in its bundle. -/
def execRadd (port : BitVec 5) (t : TNo) (peer : BitVec 10) (ts : BitVec 24) (s : State) : Host.Outcome State Fault Refusal :=
  issueAlone (.radd port t peer ts) (semRadd port t peer ts) s

/-- RMAX (R404): receives a SEND message and combines it into a tile. -/
def semRmax (port : BitVec 5) (t : TNo) (peer : BitVec 10) (ts : BitVec 24) (e : Env) (s : State) : Sem :=
  combining .max e s port t peer ts
/-- RMAX (R404), alone in its bundle. -/
def execRmax (port : BitVec 5) (t : TNo) (peer : BitVec 10) (ts : BitVec 24) (s : State) : Host.Outcome State Fault Refusal :=
  issueAlone (.rmax port t peer ts) (semRmax port t peer ts) s

/-- RMIN (R404): receives a SEND message and combines it into a tile. -/
def semRmin (port : BitVec 5) (t : TNo) (peer : BitVec 10) (ts : BitVec 24) (e : Env) (s : State) : Sem :=
  combining .min e s port t peer ts
/-- RMIN (R404), alone in its bundle. -/
def execRmin (port : BitVec 5) (t : TNo) (peer : BitVec 10) (ts : BitVec 24) (s : State) : Host.Outcome State Fault Refusal :=
  issueAlone (.rmin port t peer ts) (semRmin port t peer ts) s

/-! ## Chained copies (R405-R410) -/

/-- A finalised CRC-32C (R406). -/
def finalised (c : W32) : W32 := c ^^^ 0xFFFFFFFF

/-- The place behind a PEER leaf of the port, its device and remote address, or the fault that the access takes: any other target
is reason 5, a SCRATCH or VAULT of a core that is not held too, whose lowest reason that is (R348, R350, R405). -/
def peerPlace (s : State) (port va : Nat) : Except Late Place :=
  match xlate s (ctxNo s (me s)) va .write with
  | .error r => .error (lateXlate va (if r = 6 then 5 else r))
  | .ok p =>
    if leafTT p.leaf.toNat != 4 then .error (lateXlate va 5)
    else if fld p.leaf.toNat 43 40 != port then .error ⟨rank 6 (2 ^ 70), false, 0x0A, n64 port, 5, id⟩
    else .ok (p.place va)

def lateOf (r : Except Late Place) : List Late :=
  match r with
  | .ok _ => []
  | .error l => [l]

def placeOf (r : Except Late Place) : Place :=
  match r with
  | .ok p => p
  | .error _ => default

/-- The pages that translate some addresses for a write (R353). -/
def pagesAt (s : State) (vas : List Nat) : List Page := pagesOk (vas.map (fun va => (va, xlate s (ctxNo s (me s)) va .write)))

/-- Bytes that a chain may hold (R405). -/
def chainCap (len8 : BitVec 3) : Nat := 8192 * (len8.toNat + 1)

/-- LCOPY (R405, R406): one command of a chained copy. -/
def semLcopy (port : BitVec 5) (t : TNo) (sh : ShNo) (sw : Bool) (xd xbar xe : XNo) (f st : Bool) (len8 : BitVec 3) (e : Env) (s : State) : Sem :=
  let c := me s
  let w := c.win t.toNat
  let v := c.shape (12 + sh.toNat) sw
  let p := port.toNat
  let rows := dim v 1
  let n := dim v 0 * rows
  let limit := if st then chainCap len8 else (c.chain.map OpenChain.limit).getD 0
  let sent := if st then 0 else (c.chain.map OpenChain.sent).getD 0
  let bytes := rowStream c w rows (dim v 0)
  let dest := peerPlace s p (xv s xd).toNat
  let bar := peerPlace s p (xv s xbar).toNat
  let vas := (xv s xd).toNat :: (if xbar = 0 then [] else [(xv s xbar).toNat])
  let pages := pagesAt s vas
  let slots := skidSlots n
  let waits := noRoom s p slots || (st && !(c.stall.map Stall.staged).getD false)
  { illop := decide (15 < p) || c.badTile w || !within 1 w.len (dim v 0) || !within 1 w.rows rows || dim v 2 != 0 ||
      dim v 3 != 0 || st == c.chain.isSome || (!st && (c.chain.map OpenChain.port) != some p) || decide (limit < sent + n) ||
      e.ph.inside || c.tl != 0
    linkerr := portError s p, reads := [.tile t.toNat], stall := waits
    skid := skidWait p slots st, sends := true
    walks := vas
    late := lateOf dest ++ (if xbar = 0 then [] else lateOf bar)
    eff := fun s =>
      let s := swapIf (12 + sh.toNat) sw s
      let crc := crc32c c.lcrc bytes
      let seed := if st then c.lcrc else (c.chain.map OpenChain.seed).getD 0
      let want := if xe = 0 then finalised crc else (xv s xe).truncate 32
      let cmd : ChainCmd := ⟨(placeOf dest).addr, if xbar = 0 then none else some (placeOf bar).addr, bytes, seed, if st then some len8.toNat else none, if f then some want else none⟩
      let s := mapMe s (fun c => { c with
        lcrc := crc
        chain := if f then none else some ⟨p, seed, limit, sent + n⟩
        chains := if f then c.chains ++ [⟨p, seed, want, none, 0⟩] else c.chains
        cbad := c.cbad && !st, cref := c.cref && !st, ccrc := if st then 0 else c.ccrc })
      let m : Msg := { (default : Msg) with slots := slots, chain := some cmd, pages := pages }
      sendMsg e p (BitVec.ofNat 20 (placeOf dest).dev) t w rows (poisonRows c w rows (dim v 0)) m s }
/-- LCOPY (R405, R406), alone in its bundle. -/
def execLcopy (port : BitVec 5) (t : TNo) (sh : ShNo) (sw : Bool) (xd xbar xe : XNo) (f st : Bool) (len8 : BitVec 3) (s : State) : Host.Outcome State Fault Refusal :=
  issueAlone (.lcopy port t sh sw xd xbar xe f st len8) (semLcopy port t sh sw xd xbar xe f st len8) s

/-- LCRCR (R408): the running CRC, finalised, landing after 2. -/
def semLcrcr (d : XNo) (e : Env) (s : State) : Sem :=
  toX 2 e d (n64 (finalised (me s).lcrc).toNat)
/-- LCRCR (R408), alone in its bundle. -/
def execLcrcr (d : XNo) (s : State) : Host.Outcome State Fault Refusal :=
  issueAlone (.lcrcr d) (semLcrcr d) s

/-- LCRCW (R408): sets the running CRC. -/
def semLcrcw (a : XNo) (e : Env) (s : State) : Sem :=
  let _ := e
  let v := (xv s a).truncate 32
  { eff := fun s => mapMe s (fun c => { c with lcrc := finalised v }) }
/-- LCRCW (R408), alone in its bundle. -/
def execLcrcw (a : XNo) (s : State) : Host.Outcome State Fault Refusal :=
  issueAlone (.lcrcw a) (semLcrcw a) s

/-- What LSTAT, which claims nothing, is refused for: a port outside the mask, one in DOWN, or one of another context (R398,
R402, R411). -/
def statusError (s : State) (port : Nat) : Option (Nat × Nat) := (portError s port).filter (fun r => r.2 != 3)

/-- What LSTAT shows (R409). -/
def linkStatus (s : State) (port : Nat) : W64 :=
  let c := me s
  let l := linkAt s port
  n64 (l.st.code + l.lanes % 16 * 16 + b2n (l.claim.isSome && l.claim == c.kernel) * 2 ^ 8 + b2n c.chain.isSome * 2 ^ 16 +
    b2n c.cbad * 2 ^ 17 + b2n c.cref * 2 ^ 18 + (if c.cbad then c.ccrc.toNat * 2 ^ 32 else 0))

/-- LSTAT (R398, R408, R409, R411): the state of a port and of the chains, landing after 2. -/
def semLstat (port : BitVec 5) (d : XNo) (e : Env) (s : State) : Sem :=
  { toX 2 e d (linkStatus s port.toNat) with illop := decide (15 < port.toNat), linkerr := statusError s port.toNat }
/-- LSTAT (R408, R409), alone in its bundle. -/
def execLstat (port : BitVec 5) (d : XNo) (s : State) : Host.Outcome State Fault Refusal :=
  issueAlone (.lstat port d) (semLstat port d) s

/-- A chain that failed. -/
def ChainRec.failed (r : ChainRec) : Bool := r.verdict == some .bad || r.verdict == some .refused

/-- The report of failed chains: LCRC goes back to the seed of the first, the open chain is closed (R410). -/
def Core.report (c : Core) (r : ChainRec) : Core := { c with chains := [], lcrc := r.seed, chain := none }

/-- A message or a chain command of core `n` that a far port has not accepted: in a transmit skid, or on its way there (R369,
R410). -/
def sending (s : State) (n : Nat) : Bool :=
  s.links.any (fun l => l.2.tx.any (fun m => m.sender == some n)) || s.reqs.any (fun r => r.src == .core n && r.waiting &&
    (match r.op with
     | .msg _ => true
     | _ => false))

/-- LFENCE (R410): waits for acceptances and verdicts, and reports failed chains. -/
def semLfence (q : Bool) (e : Env) (s : State) : Sem :=
  let _ := e
  let c := me s
  let bad := c.chains.find? ChainRec.failed
  { stall := sending s s.cur || c.chains.any (fun r => r.verdict.isNone)
    late := match bad with
      | some r =>
        if q then []
        else if r.verdict == some .refused then
          [⟨rank 7 6, false, 0x0A, n64 r.port, 4, fun s => mapMe s (fun c => c.report r)⟩]
        else [⟨rank 7 6, false, 0x0B, n64 r.expected.toNat, n64 r.crc.toNat, fun s => mapMe s (fun c => c.report r)⟩]
      | none => []
    eff := fun s => mapMe s (fun c =>
      match bad with
      | some r => { c.report r with
          cbad := c.cbad || c.chains.any (fun r => r.verdict == some .bad)
          cref := c.cref || c.chains.any (fun r => r.verdict == some .refused)
          ccrc := ((c.chains.find? (fun r => r.verdict == some .bad)).map ChainRec.crc).getD c.ccrc }
      | none => { c with chains := [] }) }
/-- LFENCE (R410), alone in its bundle. -/
def execLfence (q : Bool) (s : State) : Host.Outcome State Fault Refusal :=
  issueAlone (.lfence q) (semLfence q) s

end Sys2Proof.Machine
end

