-- ==== Sys2Proof/Machine/Phase.lean ====
section
/-! DEFINITION. The group and phase instructions of the X slot (08_group R155, R158, R165; 16_phase R312-R318): each
waits at its rendezvous until the group-level step has let it go. -/

namespace Sys2Proof.Machine

/-- The rendezvous has been completed. -/
def released (s : State) : Bool := ((me s).stall.map Stall.go).getD false

/-- The digits and the work identifier of an ordinal, innermost field first (R142). -/
def fieldsOf (lr : LaunchRec) : Nat → Nat → Nat → List Nat → List Nat → List Nat
  | _, _, 0, _, _ => []
  | i, j, n + 1, exts, order =>
    let ext := exts.headD 1
    let d := if ext = 0 then 0 else i % ext
    let f := if bit1 lr.order j then ext - 1 - d else d
    f :: fieldsOf lr (if ext = 0 then i else i / ext) (j + 1) n (exts.drop 1) order

def wid : List Nat → List Nat → Nat → Nat
  | [], _, _ => 0
  | f :: r, ws, sh => f * 2 ^ sh + wid r (ws.drop 1) (sh + ws.headD 0)

/-- The values of x24-x31 for an ordinal (R142, R164). -/
def preload (lr : LaunchRec) (o : Nat) : List W64 :=
  let f := fieldsOf lr (o - lr.first) 0 lr.nfields lr.ext []
  n64 o :: n64 (wid f lr.w 0) :: ((upto 6).map (fun j => n64 (f.getD j 0)))

/-- LALIGN (R158): aligns the logical time of a timed gang, once. -/
def semLalign (e : Env) (s : State) : Sem :=
  let _ := e
  let c := me s
  { illop := !released s && ((kernelOf s c).lr.nest || c.aligned || c.tl != 0 || (groupOf s c).ph.inside)
    rdv := some .lalign, stall := !released s
    eff := fun t => mapMe t (fun c => { c with aligned := true }) }
/-- LALIGN (R158), alone in its bundle. -/
def execLalign (s : State) : Host.Outcome State Fault Refusal :=
  issueAlone .lalign (semLalign) s

/-- WNEXT (R165): finishes the item and asks for the next. -/
def semWnext (d : PNo) (e : Env) (s : State) : Sem :=
  let _ := e
  let c := me s
  let got := (c.stall.map Stall.got).getD false
  let x := preload (kernelOf s c).lr ((groupOf s c).item.getD 0)
  let eff : State → State := fun t =>
    let t := if got then ((upto 8).zip x).foldl (fun t p => fly false 1 (.x (24 + p.1) p.2) t) t else t
    fly false 1 (.p d.toNat got) t
  { illop := d == 0 || (!released s && (!(kernelOf s c).lr.nest || c.tl != 0 || (groupOf s c).ph.inside))
    rdv := some .wnext, stall := !released s, eff := eff }
/-- WNEXT (R165), alone in its bundle. -/
def execWnext (d : PNo) (s : State) : Host.Outcome State Fault Refusal :=
  issueAlone (.wnext d) (semWnext d) s

/-- PHOPEN (R312, R313): opens a phase and takes the snapshot. -/
def semPhopen (a : XNo) (e1 : Bool) (acc1 : ANo) (e0 : Bool) (acc0 : ANo) (e : Env) (s : State) : Sem :=
  let _ := e
  let c := me s
  let g := groupOf s c
  let accs := (if e0 then [acc0.toNat] else []) ++ (if e1 then [acc1.toNat] else [])
  let area := if e0 then (xv s a).toNat else 0
  { illop := (e0 && e1 && acc0 == acc1) || area % 64 != 0 || decide (0x100000 < area + 26624 * accs.length) ||
      (!released s && (g.ph.inside || c.tl != 0 || (levelOf s c == 2 && g.opened)))
    reads := accs.map Obj.acc, mark := false
    rdv := some .phopen, stall := !released s, after := .snap area accs }
/-- PHOPEN (R312, R313), alone in its bundle. -/
def execPhopen (a : XNo) (e1 : Bool) (acc1 : ANo) (e0 : Bool) (acc0 : ANo) (s : State) : Host.Outcome State Fault Refusal :=
  issueAlone (.phopen a e1 acc1 e0 acc0) (semPhopen a e1 acc1 e0 acc0) s

/-- PHSEAL (R314): ends the storing part of a phase. -/
def semPhseal (e : Env) (s : State) : Sem :=
  let _ := e
  let c := me s
  { illop := !released s && ((groupOf s c).ph != .open_ || c.tl != 0), rdv := some .phseal, stall := !released s }
/-- PHSEAL (R314), alone in its bundle. -/
def execPhseal (s : State) : Host.Outcome State Fault Refusal :=
  issueAlone .phseal (semPhseal) s

/-- PHPUB (R315): commits the phase; it waits until the commit is complete. -/
def semPhpub (e : Env) (s : State) : Sem :=
  let _ := e
  let c := me s
  { illop := !released s && ((groupOf s c).ph == .closed || c.tl != 0), rdv := some .phpub, stall := !released s }
/-- PHPUB (R315), alone in its bundle. -/
def execPhpub (s : State) : Host.Outcome State Fault Refusal :=
  issueAlone .phpub (semPhpub) s

/-- PHACQ (R317): what the core has observed is visible to its later reads; ILLOP with reason 5 in a phase. Every read of the model is served from the home as it stands, so nothing else changes. -/
def semPhacq (e : Env) (s : State) : Sem :=
  let _ := e
  { illop := (groupOf s (me s)).ph.inside }
/-- PHACQ (R317), alone in its bundle. -/
def execPhacq (s : State) : Host.Outcome State Fault Refusal :=
  issueAlone .phacq (semPhacq) s

end Sys2Proof.Machine
end

