-- ==== Sys2Proof/Machine/Bundle.lean ====
section
/-! DEFINITION. Fetching a bundle, what each of its slots brings, and its issue (03_bundle R56-R60, R70-R72, R95-R97). -/

namespace Sys2Proof.Machine

/-- What an instruction brings to its bundle; an event is no slot of one. -/
def semOf (i : Instr) (env : Env) (st : State) : Sem :=
  match i with
  | .add d a b s w => semAdd d a b s w env st
  | .sub d a b s w => semSub d a b s w env st
  | .mul d a b s w => semMul d a b s w env st
  | .mulh d a b => semMulh d a b env st
  | .mulhu d a b => semMulhu d a b env st
  | .div d a b w => semDiv d a b w env st
  | .divu d a b w => semDivu d a b w env st
  | .rem d a b w => semRem d a b w env st
  | .remu d a b w => semRemu d a b w env st
  | .and d a b => semAnd d a b env st
  | .or d a b => semOr d a b env st
  | .xor d a b => semXor d a b env st
  | .sll d a b s w => semSll d a b s w env st
  | .srl d a b w => semSrl d a b w env st
  | .sra d a b w => semSra d a b w env st
  | .min d a b => semMin d a b env st
  | .max d a b => semMax d a b env st
  | .minu d a b => semMinu d a b env st
  | .maxu d a b => semMaxu d a b env st
  | .clz d a w => semClz d a w env st
  | .popc d a w => semPopc d a w env st
  | .cmp p a b w cc => semCmp p a b w cc env st
  | .sel d a b p => semSel d a b p env st
  | .plog d a b t => semPlog d a b t env st
  | .addi d a imm => semAddi d a imm env st
  | .andi d a imm => semAndi d a imm env st
  | .ori d a imm => semOri d a imm env st
  | .xori d a imm => semXori d a imm env st
  | .slli d a sh => semSlli d a sh env st
  | .srli d a sh => semSrli d a sh env st
  | .srai d a sh => semSrai d a sh env st
  | .li d imm => semLi d imm env st
  | .lis d a imm => semLis d a imm env st
  | .cmpi p a cc imm => semCmpi p a cc imm env st
  | .bfx d a se len pos => semBfx d a se len pos env st
  | .bfi d a len pos => semBfi d a len pos env st
  | .br neg p disp => semBr neg p disp env st
  | .call l disp => semCall l disp env st
  | .jr d a => semJr d a env st
  | .loop c disp => semLoop c disp env st
  | .lds d b size off => semLds d b size off env st
  | .ldz d b size off => semLdz d b size off env st
  | .st d b size off => semSt d b size off env st
  | .shw n a f => semShw n a f env st
  | .litr d a imm => semLitr d a imm env st
  | .csrr d csr => semCsrr d csr env st
  | .csrw a csr => semCsrw a csr env st
  | .tdw n a => semTdw n a env st
  | .bfw n a => semBfw n a env st
  | .nop => semNop env st
  | .nopn n => semNopn n env st
  | .endp => semEndp env st
  | .lalign => semLalign env st
  | .wnext d => semWnext d env st
  | .phopen a e1 acc1 e0 acc0 => semPhopen a e1 acc1 e0 acc0 env st
  | .phseal => semPhseal env st
  | .phpub => semPhpub env st
  | .phacq => semPhacq env st
  | .pfence => semPfence env st
  | .trap imm => semTrap imm env st
  | .tret => semTret env st
  | .binit a b => semBinit a b env st
  | .barr a => semBarr a env st
  | .barrG a => semBarrG a env st
  | .bexp a b arr => semBexp a b arr env st
  | .btest a d h => semBtest a d h env st
  | .bwait a b => semBwait a b env st
  | .sbwaitTile f n => semSbwaitTile f n env st
  | .sbwaitAcc f n => semSbwaitAcc f n env st
  | .enq a q => semEnq a q env st
  | .qsig a b o => semQsig a b o env st
  | .qwait a b => semQwait a b env st
  | .pginv a b => semPginv a b env st
  | .pgprobe a d => semPgprobe a d env st
  | .pgmig a b ret => semPgmig a b ret env st
  | .digrd d => semDigrd d env st
  | .evpost a b code => semEvpost a b code env st
  | .vadd c vd va vb p neg ty rnd s => semVadd c vd va vb p neg ty rnd s env st
  | .vsub c vd va vb p neg ty rnd s => semVsub c vd va vb p neg ty rnd s env st
  | .vmul c vd va vb p neg ty rnd s => semVmul c vd va vb p neg ty rnd s env st
  | .vfma c vd va vb vc p neg ty rnd => semVfma c vd va vb vc p neg ty rnd env st
  | .vfms c vd va vb vc p neg ty rnd => semVfms c vd va vb vc p neg ty rnd env st
  | .vmin c vd va vb p ty => semVmin c vd va vb p ty env st
  | .vmax c vd va vb p ty => semVmax c vd va vb p ty env st
  | .vabs c vd va p ty s => semVabs c vd va p ty s env st
  | .vcsgn c vd va vb p ty => semVcsgn c vd va vb p ty env st
  | .vmulh c vd va vb p ty => semVmulh c vd va vb p ty env st
  | .vand c vd va vb p => semVand c vd va vb p env st
  | .vor c vd va vb p => semVor c vd va vb p env st
  | .vxor c vd va vb p => semVxor c vd va vb p env st
  | .vnot c vd va p => semVnot c vd va p env st
  | .vsll c vd va vb p ty i n => semVsll c vd va vb p ty i n env st
  | .vsrl c vd va vb p ty i n => semVsrl c vd va vb p ty i n env st
  | .vsra c vd va vb p ty i n => semVsra c vd va vb p ty i n env st
  | .vcmp c vd va vb p ty cc pd all => semVcmp c vd va vb p ty cc pd all env st
  | .vsel c vd va vb vc p => semVsel c vd va vb vc p env st
  | .vcvt c vd va p ty rnd src h s => semVcvt c vd va p ty rnd src h s env st
  | .vclz c vd va p ty => semVclz c vd va p ty env st
  | .vpopc c vd va p ty => semVpopc c vd va p ty env st
  | .vmov c vd va p => semVmov c vd va p env st
  | .vsplat c vd p ty xs => semVsplat c vd p ty xs env st
  | .viota c vd p ty xs => semViota c vd p ty xs env st
  | .vli c vd p ty imm => semVli c vd p ty imm env st
  | .vrotr c vd va p ty i n xs => semVrotr c vd va p ty i n xs env st
  | .vrotc c vd va p ty i n xs => semVrotc c vd va p ty i n xs env st
  | .vbcr c vd va p ty i n xs => semVbcr c vd va p ty i n xs env st
  | .vbcc c vd va p ty i n xs => semVbcc c vd va p ty i n xs env st
  | .vredr c vd va p ty rnd op => semVredr c vd va p ty rnd op env st
  | .vredc c vd va p ty rnd op => semVredc c vd va p ty rnd op env st
  | .vscanr c vd va p ty rnd op ex => semVscanr c vd va p ty rnd op ex env st
  | .vscanc c vd va p ty rnd op ex => semVscanc c vd va p ty rnd op ex env st
  | .vcompact c vd va vb vc p xc => semVcompact c vd va vb vc p xc env st
  | .vext c va p ty xd row col => semVext c va p ty xd row col env st
  | .vexpQ c vd va p ty => semVexpQ c vd va p ty env st
  | .vexpX c vd va p ty => semVexpX c vd va p ty env st
  | .vexp2Q c vd va p ty => semVexp2Q c vd va p ty env st
  | .vexp2X c vd va p ty => semVexp2X c vd va p ty env st
  | .vlogQ c vd va p ty => semVlogQ c vd va p ty env st
  | .vlogX c vd va p ty => semVlogX c vd va p ty env st
  | .vlog2Q c vd va p ty => semVlog2Q c vd va p ty env st
  | .vlog2X c vd va p ty => semVlog2X c vd va p ty env st
  | .vsinQ c vd va p ty => semVsinQ c vd va p ty env st
  | .vsinX c vd va p ty => semVsinX c vd va p ty env st
  | .vcosQ c vd va p ty => semVcosQ c vd va p ty env st
  | .vcosX c vd va p ty => semVcosX c vd va p ty env st
  | .vtanhQ c vd va p ty => semVtanhQ c vd va p ty env st
  | .vtanhX c vd va p ty => semVtanhX c vd va p ty env st
  | .vsigmQ c vd va p ty => semVsigmQ c vd va p ty env st
  | .vsigmX c vd va p ty => semVsigmX c vd va p ty env st
  | .vrsqrtQ c vd va p ty => semVrsqrtQ c vd va p ty env st
  | .vrsqrtX c vd va p ty => semVrsqrtX c vd va p ty env st
  | .vrecipQ c vd va p ty => semVrecipQ c vd va p ty env st
  | .vrecipX c vd va p ty => semVrecipX c vd va p ty env st
  | .verfQ c vd va p ty => semVerfQ c vd va p ty env st
  | .verfX c vd va p ty => semVerfX c vd va p ty env st
  | .vshawm c vd va p v xc xk => semVshawm c vd va p v xc xk env st
  | .vshawmf c vd va p v xc xk => semVshawmf c vd va p v xc xk env st
  | .vld c vd p xb xs off => semVld c vd p xb xs off env st
  | .vst c va vc p ty m xb xs off => semVst c va vc p ty m xb xs off env st
  | .xmv c vd va p => semXmv c vd va p env st
  | .rank vd va p ty k => semRank vd va p ty k env st
  | .rankt vd va p ty k xt => semRankt vd va p ty k xt env st
  | .rval vd va p xf => semRval vd va p xf env st
  | .vatt va p row => semVatt va p row env st
  | .mma acc tA tB sh sw pa pb sub => semMma acc tA tB sh sw pa pb sub env st
  | .imma acc tA tB sh sw pa pb sub => semImma acc tA tB sh sw pa pb sub env st
  | .pmm acc tA tB sh sw pa pb sub => semPmm acc tA tB sh sw pa pb sub env st
  | .pmms acc tA tB sh sw pa pb sub => semPmms acc tA tB sh sw pa pb sub env st
  | .bmm acc tA tB sh sw pa pb sub => semBmm acc tA tB sh sw pa pb sub env st
  | .mmas acc tA tB sh sw pa pb sub => semMmas acc tA tB sh sw pa pb sub env st
  | .racc acc tA tB sh sw pb sub => semRacc acc tA tB sh sw pb sub env st
  | .anch acc => semAnch acc env st
  | .norm acc => semNorm acc env st
  | .azero acc => semAzero acc env st
  | .accrd acc td ts sh sw sc rnd fmt => semAccrd acc td ts sh sw sc rnd fmt env st
  | .accadd acc src => semAccadd acc src env st
  | .accmv acc src => semAccmv acc src env st
  | .accsv acc t => semAccsv acc t env st
  | .accld acc t => semAccld acc t env st
  | .ttrn tA tB sh sw => semTtrn tA tB sh sw env st
  | .tzero t => semTzero t env st
  | .kchk seed => semKchk seed env st
  | .tld e g t h sh sw cb pr => semTld e g t h sh sw cb pr env st
  | .tst e g t h sh sw cb => semTst e g t h sh sw cb env st
  | .pref e g h sh sw cb => semPref e g h sh sw cb env st
  | .tgath e g t h sh sw cb xi pr => semTgath e g t h sh sw cb xi pr env st
  | .tscat e g t h sh sw cb xi => semTscat e g t h sh sw cb xi env st
  | .tldb e g t h sh sw cb pr => semTldb e g t h sh sw cb pr env st
  | .scopyLd e g t sh sw xa xs pr => semScopyLd e g t sh sw xa xs pr env st
  | .scopySt e g t sh sw xa xs => semScopySt e g t sh sw xa xs env st
  | .vtld e t sh sw xo xs => semVtld e t sh sw xo xs env st
  | .vtst e t sh sw xo xs => semVtst e t sh sw xo xs env st
  | .tfill e t sh sw xv => semTfill e t sh sw xv env st
  | .atom e g t op sz xa xv pr => semAtom e g t op sz xa xv pr env st
  | .red e g op sz xa xv => semRed e g op sz xa xv env st
  | .redt e g t h sh sw cb op => semRedt e g t h sh sw cb op env st
  | .hld e t h => semHld e t h env st
  | .hst e t h => semHst e t h env st
  | .hmod e h xv f => semHmod e h xv f env st
  | .ovl e g n => semOvl e g n env st
  | .send port t peer => semSend port t peer env st
  | .recv port t peer ts => semRecv port t peer ts env st
  | .sendr port t peer k rows => semSendr port t peer k rows env st
  | .recvr port t peer k rows ts => semRecvr port t peer k rows ts env st
  | .radd port t peer ts => semRadd port t peer ts env st
  | .rmax port t peer ts => semRmax port t peer ts env st
  | .rmin port t peer ts => semRmin port t peer ts env st
  | .lcopy port t sh sw xd xbar xe f s len8 => semLcopy port t sh sw xd xbar xe f s len8 env st
  | .lcrcr d => semLcrcr d env st
  | .lcrcw a => semLcrcw a env st
  | .lstat port d => semLstat port d env st
  | .lfence q => semLfence q env st
  | .resultLanding .. => {}
  | .stallRelease .. => {}
  | .engineReadFinished .. => {}
  | .engineOpDone .. => {}
  | .transferDone .. => {}
  | .ovlLineLanded .. => {}
  | .promise .. => {}
  | .injectedCheck .. => {}
  | .kchkComplete .. => {}
  | .boundaryTrapEntry .. => {}
  | .handlerBudgetExceeded .. => {}
  | .coreRetire .. => {}
  | .groupRendezvous .. => {}
  | .dispatch .. => {}
  | .workSteal .. => {}
  | .kernelPreempt .. => {}
  | .kernelResume .. => {}
  | .kernelLoadDone .. => {}
  | .kernelFinish .. => {}
  | .kernelRetire .. => {}
  | .phasePrepare .. => {}
  | .homePrepareVote .. => {}
  | .homeCommitApply .. => {}
  | .phaseCommitComplete .. => {}
  | .phaseCancel .. => {}
  | .lateFault .. => {}
  | .suppliesValid .. => {}
  | .perstDeassert .. => {}
  | .perstAssert .. => {}
  | .firmwareSignatureCheck .. => {}
  | .measureDone .. => {}
  | .selftestDone .. => {}
  | .powerWindowCheck .. => {}
  | .globalIssueGateClose .. => {}
  | .globalIssueGateOpen .. => {}
  | .apbaseWrite .. => {}
  | .attgo .. => {}
  | .attestationReportDone .. => {}
  | .registerWrite .. => {}
  | .ctxCreate .. => {}
  | .ctxSuspend .. => {}
  | .ctxResume .. => {}
  | .ctxKill .. => {}
  | .ctxDestroy .. => {}
  | .doorbellWrite .. => {}
  | .queueEnable .. => {}
  | .queueDisable .. => {}
  | .queueReset .. => {}
  | .queueArbitrate .. => {}
  | .packetNop .. => {}
  | .launch .. => {}
  | .copy .. => {}
  | .signal .. => {}
  | .wait .. => {}
  | .mode .. => {}
  | .checkpoint .. => {}
  | .checkpointComplete .. => {}
  | .query .. => {}
  | .packetComplete .. => {}
  | .homeRequest .. => {}
  | .homeAck .. => {}
  | .reductionAddend .. => {}
  | .reductionPartialTimeout .. => {}
  | .sectorDelivery .. => {}
  | .remoteArrival .. => {}
  | .flitRetryExhausted .. => {}
  | .planeAckTimeout .. => {}
  | .planeBufferError .. => {}
  | .planeIslandFault .. => {}
  | .plcmdRetire .. => {}
  | .rehashDrained .. => {}
  | .translationWalkDone .. => {}
  | .migrationPull .. => {}
  | .pgicmdInvalidate .. => {}
  | .pgicmdMigrate .. => {}
  | .pgicmdMigrateRetire .. => {}
  | .profileMaskWrite .. => {}
  | .devidWrite .. => {}
  | .lpcfgWrite .. => {}
  | .lpcmdTrain .. => {}
  | .lpcmdQuiesce .. => {}
  | .lpcmdResume .. => {}
  | .lpcmdDisable .. => {}
  | .trainingComplete .. => {}
  | .trainingTimeout .. => {}
  | .flitError .. => {}
  | .replayComplete .. => {}
  | .replayFail .. => {}
  | .laneRepairTrigger .. => {}
  | .repairComplete .. => {}
  | .repairTimeout .. => {}
  | .incomingRequest .. => {}
  | .stackLinkRequest .. => {}
  | .incomingMessage .. => {}
  | .messageAccepted .. => {}
  | .chainCommandArrival .. => {}
  | .chainVerdictReturn .. => {}
  | .receivePayloadLanded .. => {}
  | .chainStagingReserved .. => {}
  | .bar2Access .. => {}

/-! ## Fetch (R56-R60) -/

/-- What stands at the address of the next bundle. -/
def fetched (c : Core) : Fetched :=
  decodeBundle (64 - c.bpc % 64) (c.bundle.readN c.bpc (64 - c.bpc % 64))

/-- The phase state that the slots of a bundle meet: those of a PHOPEN or PHPUB bundle are outside the phase, those of
a PHSEAL bundle belong to it while it is OPEN (R312, R314, R315). -/
def bundlePhase (s : State) (c : Core) (slots : List (Slot × Nat × Except Nat Instr)) : PhState :=
  if c.tl != 0 then .closed
  else if slots.any (fun p => match p.2.2 with
      | .ok (.phopen ..) => true
      | .ok .phpub => true
      | _ => false) then .closed
  else if slots.any (fun p => match p.2.2 with
      | .ok .phseal => true
      | _ => false) then .open_
  else phaseOf s c

/-- The slots of a bundle with what each brings: all read the state before the bundle. DESIGN CHOICE (the notes' log entry 67):
so does a CSRR of a shape register beside an engine operation that exchanges its copies (R85). -/
def itemsOf (s : State) (size : Nat) (slots : List (Slot × Nat × Except Nat Instr)) : List Item :=
  let c := me s
  let ph := bundlePhase s c slots
  slots.map (fun p => ⟨p.1, p.2.1, p.2.2.map (fun i => semOf i ⟨ph, c.bpc + size, p.2.1⟩ s)⟩)

/-- The fetch line that holds an address. -/
def fetchLine (bpc : Nat) : Nat := bpc / 64

/-- Fetch stalls: an overlay in flight will write the line (R60). -/
def fetchHeld (c : Core) : Bool := c.bPend.contains (fetchLine c.bpc)

/-- Fetch has left the bundle store: ILLOP with reason 9, TEPC naming the last line (R59). -/
def fetchBeyond (s : State) : State := trapOn s s.cur 1 9 0 0x1FFC0 (me s).lpc false

/-- Fetch reaches the end of a poisoned line of the bundle store: a precise machine check of source 5 (R151, R383). -/
def fetchPoisoned (s : State) : State := fault s 7 5 (n64 (64 * fetchLine (me s).bpc))

/-- A line of the bundle store that fetch reaches is poisoned. -/
def linePoisoned (c : Core) : Bool := c.bPoison.contains (fetchLine c.bpc)

/-- The budget of the core's handler has run out: its context is about to be killed, and it issues nothing (R390, R392). -/
def Core.spent (c : Core) : Bool := c.tl != 0 && decide (65536 < c.budg)

/-- A bundle would cross its fetch line: ILLOP with reason 8 (R57). -/
def fetchCrosses (s : State) : State := fault s 1 8 0

/-- The line-end marker: fetch goes on with the next line (R58). -/
def nextLine (s : State) : State := mapMe s (fun c => { c with bpc := 64 * (fetchLine c.bpc + 1) })

/-- The current core takes its next bundle boundary: fetch, checks, stall or issue. -/
def boundary (s : State) : State :=
  let c := me s
  if c.spent then s
  else if 0x20000 ≤ c.bpc then fetchBeyond s
  else if fetchHeld c then s
  else match fetched c with
    | .lineEnd => if linePoisoned c then fetchPoisoned s else nextLine s
    | .crosses => fetchCrosses s
    | .bundle _ size slots =>
      if linePoisoned c then attemptPoisoned (itemsOf s size slots) (fetchLine c.bpc) s
      else attempt (itemsOf s size slots) (c.bpc + size) s

/-- The bundle that the current core waits with is still held. -/
def stillHeld (s : State) : Bool :=
  let c := me s
  decide (c.bpc < 0x20000) && (fetchHeld c ||
    match fetched c with
    | .bundle _ size slots =>
      !linePoisoned c && waitsOn (todoOf c (itemsOf s size slots)) s
    | _ => false)

end Sys2Proof.Machine
end

