-- ==== Sys2Proof/Machine/Group.lean ====
section
/-! DEFINITION. Groups (08_group R152-R171, R176-R178): how they are formed, their rendezvous, walkers and dispatch,
ordered commits, suspect and fenced cores, and the dissolving of a group. -/

namespace Sys2Proof.Machine

/-! ## Cores and groups of a kernel (R152) -/

/-- A step of core `n`, taken as the current one. -/
def asCore (n : Nat) (f : State → State) (s : State) : State := { f { s with cur := n } with cur := s.cur }

/-- All cores of a bay and of several bays, fenced ones among them (R12). -/
def bayCores (bay : Nat) : List Nat := (upto 16).map (16 * bay + ·)
def coresOfBays (bays : List Nat) : List Nat := bays.flatMap bayCores

/-- Cores of a group (R152). -/
def groupSize (k : Kernel) : Nat := 2 ^ k.lr.gsize

/-- The cores of a bay that are not fenced, in ascending order. -/
def unfenced (s : State) (bay : Nat) : List Nat := ((upto 16).map (16 * bay + ·)).filter (fun n => !s.fenced.contains n)

/-- A list cut into runs of `n`; a shorter remainder is left out. -/
def runsOf (n : Nat) : Nat → List Nat → List (List Nat)
  | 0, _ => []
  | f + 1, l => if l.length < n || n = 0 then [] else l.take n :: runsOf n f (l.drop n)

/-- The groups that a list of bays gives, each with its bay, in the order of their numbers (R152). -/
def formGroups (s : State) (n : Nat) (bays : List Nat) : List (Nat × List Nat) :=
  (bays.map (fun b => (runsOf n 16 (unfenced s b)).map (fun l => (b, l)))).flatten

/-- A group just formed. -/
def freshGroup (bay : Nat) (cores : List Nat) (st : GState) (since : Nat) : Group :=
  { bay := bay, cores := cores, st := st, back := st, item := none, since := since, committed := false, opened := false
    ph := .closed, step := .none, canc := 0, ncommit := 0, sig := 0, held := [] }

/-- A core brought to its start state (R145), keeping what belongs to the core and not to the kernel: its counters,
its marks, its overlays' image. -/
def Core.renew (c start : Core) (k g cidx : Nat) : Core :=
  { start with
    life := .idle, kernel := some k, group := g, cidx := cidx, suspect := c.suspect, chkcnt := c.chkcnt
    seccnt := c.seccnt, uecnt := c.uecnt, walks := c.walks, pulls := c.pulls, replays := c.replays
    gateclk := c.gateclk, lbpclk := c.lbpclk }

/-- A core of a group that dissolves, brought to its start state within the same kernel: its check count goes on, and so do the
checks that are due or running, which belong to no phase any more (R146, R177). -/
def Core.again (c start : Core) (k g cidx : Nat) : Core :=
  { c.renew start k g cidx with
    kcount := c.kcount, inject := c.inject.map (fun _ => false)
    kchks := c.kchks.map (fun x => { x with ph := false }) ++ (c.mops.filterMap MatOp.kchk).map (fun good => ⟨false, good⟩) }

/-! ## Walkers (R162-R166) -/

def Walker.left (w : Walker) : Nat := w.hi - w.lo
def Walker.hasWork (w : Walker) : Bool := !w.pending.isEmpty || decide (w.lo < w.hi)

/-- The kernel has undispatched items (R165). -/
def Kernel.hasWork (k : Kernel) : Bool := k.walkers.any Walker.hasWork

/-- The ordinal that a walker hands out next: its pending list first, then the low end of its range (R163). -/
def Walker.next (w : Walker) : Option Nat :=
  match w.pending with
  | (o, _) :: _ => some o
  | [] => if w.lo < w.hi then some w.lo else none
def Walker.take (w : Walker) : Walker :=
  match w.pending with
  | (o, h) :: r => { w with pending := if o + 1 < h then (o + 1, h) :: r else r }
  | [] => { w with lo := w.lo + 1 }

/-- A range put into the pending list, which rises. -/
def Walker.put (w : Walker) (r : Nat × Nat) : Walker :=
  if r.1 < r.2 then
    { w with pending := w.pending.filter (fun q => decide (q.1 < r.1)) ++ [r] ++ w.pending.filter (fun q => decide (r.1 ≤ q.1)) }
  else w

def Kernel.walkerOf (k : Kernel) (bay : Nat) : Option Walker := k.walkers.find? (fun w => w.bay == bay)
def Kernel.mapWalker (k : Kernel) (bay : Nat) (f : Walker → Walker) : Kernel :=
  { k with walkers := k.walkers.map (fun w => if w.bay = bay then f w else w) }

/-- The ranges of the walkers at admission (R162). -/
def armWalkers (lr : LaunchRec) (bays : List Nat) : List Walker :=
  let n := bays.length
  (bays.zip (upto n)).map (fun p =>
    ⟨p.1, lr.first + p.2 * lr.count / n, lr.first + (p.2 + 1) * lr.count / n, []⟩)

/-- The largest LCC among cores that wait at a rendezvous. -/
def maxLcc (s : State) (cores : List Nat) : Nat := cores.foldl (fun m n => max m (coreAt s n).lcc.toNat) 0

/-- Cores changed by their numbers. -/
def mapCores (s : State) (cores : List Nat) (f : Core → Core) : State := cores.foldl (fun t n => mapCore t n f) s

/-- A rendezvous lets a core go on. -/
def Core.release (c : Core) (got : Bool) (next : Option W64) : Core :=
  { c with stall := c.stall.map (fun t => { t with go := true, got := got, lccNext := next }) }

/-- A group waits before another of its bay: earlier, or with the lower number (R163). -/
def waitsFirst (k : Kernel) (bay g : Nat) (gr : Group) : Bool :=
  k.groups.all (fun p => p.1 == g || p.2.st != .waiting || p.2.bay != bay ||
    decide (gr.since < p.2.since) || (gr.since == p.2.since && decide (g < p.1)))

/-- A core takes an item: the preloads of the first one stand at LCC 0; those of a later one come with its WNEXT (R164). -/
def Core.dispatch (c : Core) (lr : LaunchRec) (o : Nat) (m : Nat) : Core :=
  let c := { c with digest := 0, runLog := [] }
  if c.stall.isSome then { c.release true (some (n64 (m + 1))) with ld := n64 (m + 1) }
  else
    let c := ((upto 8).zip (preload lr o)).foldl (fun c p => c.wx (24 + p.1) p.2) c
    { c with life := .running, lcc := 0, ld := 0 }

/-- A kernel that is being pre-empted, or stopped for a checkpoint (R172, R417). -/
def halting (s : State) (k : Kernel) : Bool := k.preempt || s.ckpt.isSome

/-- DISPATCH (R163, R164): a walker hands its next ordinal to the group of its bay that has waited longest. -/
def evDispatch (kn bay g : Nat) (s : State) : State :=
  let k := kernelAt s kn
  let gr := groupAt s kn g
  match (k.walkerOf bay).bind Walker.next with
  | none => s
  | some o =>
    if k.st == .running && !halting s k && gr.st == .waiting && gr.bay == bay && waitsFirst k bay g gr &&
        (k.level != 2 || decide (o < k.luo + 4096)) then
      let m := maxLcc s gr.cores
      let s := mapKernel s kn (fun k => k.mapWalker bay Walker.take)
      let s := mapGroup s kn g (fun gr => { freshGroup gr.bay gr.cores .running gr.since with item := some o })
      mapCores s gr.cores (fun c => c.dispatch k.lr o m)
    else s
/-- DISPATCH, as an event. -/
def execDispatch (k bay g : Nat) (s : State) : Host.Outcome State Fault Refusal := .next (evDispatch k bay g s)

/-- The walker with the largest range, the lowest bay first among equals (R166). -/
def largest : List Walker → Option Walker
  | [] => none
  | w :: r => match largest r with
    | some v => if w.left < v.left || (w.left == v.left && decide (v.bay < w.bay)) then some v else some w
    | none => some w

/-- WORK_STEAL (R166): an empty walker with a waiting group takes the upper half of the largest range. -/
def evWorkSteal (kn bay : Nat) (s : State) : State :=
  let k := kernelAt s kn
  match k.walkerOf bay, largest k.walkers with
  | some w, some v =>
    if k.st == .running && !halting s k && !w.hasWork && decide (2 ≤ v.left) &&
        k.groups.any (fun p => p.2.st == .waiting && p.2.bay == bay) then
      let cut := v.lo + (v.left + 1) / 2
      mapKernel s kn (fun k => (k.mapWalker v.bay (fun u => { u with hi := cut })).mapWalker bay
        (fun u => { u with lo := cut, hi := v.hi }))
    else s
  | _, _ => s
/-- WORK_STEAL, as an event. -/
def execWorkSteal (k bay : Nat) (s : State) : Host.Outcome State Fault Refusal := .next (evWorkSteal k bay s)

/-! ## Items finished (R165, R167, R306) -/

/-- LUO moved past every committed ordinal. -/
def advanceLuo : Nat → Nat → List Nat → Nat × List Nat
  | 0, luo, l => (luo, l)
  | f + 1, luo, l => if l.contains luo then advanceLuo f (luo + 1) (setDel luo l) else (luo, l)

/-- An ordinal commits (R167). -/
def commitOrdinal (s : State) (kn o : Nat) : State :=
  mapKernel s kn (fun k =>
    let l := setIns o k.committed
    let r := advanceLuo l.length k.luo l
    { k with luo := r.1, committed := r.2 })

/-- The digest of an item: over the index and running digest of every core of its group (R306). -/
def itemDigest (s : State) (cores : List Nat) : W64 :=
  crc64 0 ((cores.zip (upto cores.length)).map (fun p =>
    leBytes 8 p.2 ++ leBytes 8 (coreAt s p.1).digest.toNat)).flatten

/-- The item of a group finishes: its digest is taken, and unless its phase has committed it, it commits (R165). -/
def finishItem (s : State) (kn g : Nat) : State :=
  let gr := groupAt s kn g
  match gr.item with
  | none => s
  | some o =>
    let s := mapKernel s kn (fun k => { k with digests := tabPut k.digests o (itemDigest s gr.cores) })
    let s := if gr.committed then s else commitOrdinal s kn o
    mapGroup s kn g (fun gr => { gr with item := none })

/-- A level-2 item that has not committed waits until it is the lowest (R165, R168). -/
def turnOf (k : Kernel) (gr : Group) : Bool :=
  k.level != 2 || gr.committed || (gr.item.map (fun o => o == k.luo)).getD true

/-! ## Rendezvous (R155) -/

/-- A core has reached a rendezvous and has not passed it; at WNEXT the other slots of its bundle have issued (R165). -/
def atRdv (s : State) (r : Rdv) (n : Nat) : Bool :=
  let c := coreAt s n
  match c.stall with
  | some t => c.life == .running && t.rdv == some r && !t.go && (r != .wnext || t.early)
  | none => false

/-- Every core of a list has. -/
def allAt (s : State) (r : Rdv) (l : List Nat) : Bool := !l.isEmpty && l.all (atRdv s r)

/-- The slots that the bundle of the current core still has to issue; none where it fetches no bundle. -/
def waitingItems (s : State) : List Item :=
  match fetched (me s) with
  | .bundle _ size slots => todoOf (me s) (itemsOf s size slots)
  | _ => []

/-- The bundle that a core waits with is held by its rendezvous alone: no result is due, no boundary cause is pending, and no other
stall holds it (R97, R155, R384). -/
def heldByRdv (s : State) (n : Nat) : Bool :=
  let s := { s with cur := n }
  (me s).nextDue.isNone && (me s).pend.isEmpty && rdvOnly s (waitingItems s)

/-- What the second check of the bundle that a core waits with finds (R97). -/
def rdvCause (s : State) (n : Nat) : Option Late :=
  let s := { s with cur := n }
  takenCause (me s) (waitingItems s)

/-- Such a bundle, on which nothing would trap. -/
def readyRdv (s : State) (n : Nat) : Bool := heldByRdv s n && (rdvCause s n).isNone

/-- Every core of a list has reached a rendezvous and is ready to issue its bundle. -/
def allReady (s : State) (r : Rdv) (l : List Nat) : Bool := allAt s r l && l.all (readyRdv s)

/-- Every core has reached a rendezvous, which alone holds their bundles: those on which something traps make their second checks,
and the others wait on (R97, R155). -/
def rdvTraps (s : State) (r : Rdv) (l : List Nat) : State :=
  if allAt s r l && l.all (heldByRdv s) then
    (l.filter (fun n => (rdvCause s n).isSome)).foldl (fun t n => asCore n (fun t => secondCheck (waitingItems t) t id) t) s
  else s

/-- The bundles of some cores come to issue, one after another. -/
def issueAll (s : State) (l : List Nat) : State := l.foldl (fun t n => asCore n boundary t) s

def releaseAll (s : State) (l : List Nat) (got : Bool) (next : Option W64) : State := mapCores s l (fun c => c.release got next)

/-- LALIGN: the whole gang goes on at one LCC, and its LALIGN bundles issue (R158). -/
def meetAlign (kn : Nat) (s : State) : State :=
  let k := kernelAt s kn
  let gang := (k.groups.map (fun p => p.2.cores)).flatten
  if allReady s .lalign gang then
    issueAll (mapKernel (releaseAll s gang false (some (n64 (maxLcc s gang + 1)))) kn (fun k => { k with aligned := true })) gang
  else rdvTraps s .lalign gang

/-- WNEXT: the item is finished and the group waits (R154, R165). -/
def meetNext (kn g : Nat) (s : State) : State :=
  let k := kernelAt s kn
  if turnOf k (groupAt s kn g) then
    let s := finishItem s kn g
    mapKernel (mapGroup s kn g (fun gr => { gr with st := .waiting, since := k.waits })) kn
      (fun k => { k with waits := k.waits + 1 })
  else s

/-- A waiting group of a kernel without undispatched items: its WNEXT completes with false, or, before its first item,
it retires (R154, R165). -/
def noItem (kn g : Nat) (s : State) : State :=
  let gr := groupAt s kn g
  if allAt s .wnext gr.cores then
    mapGroup (releaseAll s gr.cores false (some (n64 (maxLcc s gr.cores + 1)))) kn g (fun gr => { gr with st := .running })
  else if gr.cores.any (fun n => (coreAt s n).life != .idle || !(coreAt s n).inject.isEmpty || !(coreAt s n).kchks.isEmpty) then s
  else
    mapGroup (mapCores s gr.cores (fun c => { c with life := .retired })) kn g (fun gr => { gr with st := .retired })

/-- PHOPEN opens the phase, and with the issue of the PHOPEN bundles every core takes its snapshot and rotates its logs
(R311, R313, R318, R169). -/
def meetOpen (kn g : Nat) (s : State) : State :=
  let l := (groupAt s kn g).cores
  issueAll (mapGroup (releaseAll s l false none) kn g (fun gr =>
    { gr with ph := .open_, step := .none, opened := true, sig := 0 })) l

/-- PHSEAL seals the phase, and the PHSEAL bundles issue (R311, R314). -/
def meetSeal (kn g : Nat) (s : State) : State :=
  let l := (groupAt s kn g).cores
  issueAll (mapGroup (releaseAll s l false none) kn g (fun gr => { gr with ph := .sealed })) l

/-- PHPUB: the phase is sealed and its drain begins (R311, R315). -/
def meetPub (kn g : Nat) (s : State) : State := mapGroup s kn g (fun gr => { gr with ph := .prepare })

/-- A phase that nothing has asked to cancel. -/
def Group.steady (g : Group) : Bool :=
  match g.step with
  | .none => true
  | .waiting _ => true
  | _ => false

/-- The host, or a link peer. -/
def Src.outside : Src → Bool
  | .host => true | .port _ => true | .link _ => true
  | _ => false

/-- A write of the host or of a link peer that has waited for a core while it was away (R328, R356). -/
def Req.owed (r : Req) : Bool := r.parked && r.waiting && !r.op.isLoad && r.src.outside

/-- Such a write, or the update of a barrier by a chain's command, has not come to a core that is back: the core goes on after it, so
that it sees what was released to what it observes next (R328, R422). DEDUCED (the notes' log entry 93). -/
def owed (s : State) (n : Nat) : Bool :=
  s.reqs.any (fun r => r.owed && r.place.home.core? == some n) ||
    s.deliveries.any (fun d => d.parked && (d.bar.map Prod.fst) == some n && d.sectors.any (fun q => allServed s q.2))

/-- GROUP_RENDEZVOUS (R97, R155): every core of the group, or of the gang, has reached the same rendezvous; where a bundle of
theirs traps at its second check, that comes first. Or a waiting group finds no item left. -/
def evGroupRendezvous (kn g : Nat) (s : State) : State :=
  let k := kernelAt s kn
  let gr := groupAt s kn g
  if k.st != .running || halting s k || gr.cores.any (owed s) then s
  else if gr.st == .waiting then (if k.lr.nest && !k.hasWork then noItem kn g s else s)
  else if gr.st != .running || !gr.steady then s
  else if allAt s .lalign gr.cores then meetAlign kn s
  else if allAt s .wnext gr.cores then meetNext kn g s
  else if allReady s .phopen gr.cores then meetOpen kn g s
  else if allReady s .phseal gr.cores then meetSeal kn g s
  else if gr.ph.inside && allAt s .phpub gr.cores then meetPub kn g s
  else rdvTraps (rdvTraps s .phopen gr.cores) .phseal gr.cores
/-- GROUP_RENDEZVOUS, as an event. -/
def execGroupRendezvous (k g : Nat) (s : State) : Host.Outcome State Fault Refusal := .next (evGroupRendezvous k g s)

/-! ## Dissolving and re-forming (R177) -/

/-- Requests held with a phase are discarded, with its tokens. -/
def dropHeld (s : State) (kn g : Nat) : State :=
  mapGroup { s with reqs := s.reqs.filter (fun r => !r.inPhaseOf kn (· == g)) } kn g (fun gr => { gr with held := [] })

/-- The loads of some cores land nowhere; those that were sent run to their homes (R308). -/
def dropLoads (s : State) (cores : List Nat) : State :=
  { s with reqs := s.reqs.map (fun r => if (r.core?.map cores.contains).getD false then r.orphan else r) }

/-- The free cores of a bay: not fenced, of the kernel, in no group and not retired. -/
def freeOf (s : State) (kn bay : Nat) : List Nat :=
  (unfenced s bay).filter (fun n =>
    let c := coreAt s n
    c.kernel == some kn && c.life == .idle && !(kernelAt s kn).groups.any (fun p => p.2.cores.contains n))

/-- Groups formed anew of the free cores of a bay, waiting; they take the numbers that follow. -/
def reform (s : State) (kn bay : Nat) : State :=
  let k := kernelAt s kn
  ((runsOf (groupSize k) 16 (freeOf s kn bay)).zip (upto 16)).foldl (fun t p =>
    let g := k.groups.length + p.2
    let t := (p.1.zip (upto p.1.length)).foldl (fun t q => mapCore t q.1 (fun c => c.again k.start kn g q.2)) t
    mapKernel t kn (fun kk => { kk with
      groups := tabPut kk.groups g (freshGroup bay p.1 .waiting kk.waits), waits := kk.waits + 1 })) s

/-- A group of a nest kernel dissolves: its uncommitted item goes back to its walker, a committed one is finished, its other
cores are freed, and the groups of its bay are re-formed (R167, R177, R306). -/
def dissolve (s : State) (kn g : Nat) : State :=
  let gr := groupAt s kn g
  let k := kernelAt s kn
  let s := dropLoads (dropHeld s kn g) gr.cores
  let s := match gr.item with
    | some o => if gr.committed then finishItem s kn g else
        mapKernel s kn (fun k => k.mapWalker gr.bay (fun w => w.put (o, o + 1)))
    | none => s
  let s := mapCores s gr.cores (fun c =>
    if c.life == .retired then { c with stall := none } else c.again k.start kn c.group c.cidx)
  let s := mapGroup s kn g (fun gr => { gr with st := .retired, cores := [], item := none, ph := .closed, step := .none })
  reform s kn gr.bay

/-- The group of a core, if it is in one. -/
def groupNo? (s : State) (n : Nat) : Option (Nat × Nat) :=
  let c := coreAt s n
  match c.kernel with
  | some k => if (groupAt s k c.group).cores.contains n then some (k, c.group) else none
  | none => none

/-! ## Suspect and fenced cores (R176, R178) -/

/-- Groups that the grant of a kernel's context can still form for it (R144). -/
def canForm (s : State) (kn : Nat) : Nat :=
  let k := kernelAt s kn
  (((upto 64).filter (fun b => (ctxAt s k.ctx).grant.getLsbD b)).map (fun b =>
    (runsOf (groupSize k) 16 (unfenced s b)).length)).foldl (· + ·) 0

/-- A pre-empted gang that the grant of its context cannot form any more is killed (R178). -/
def gangLost (s : State) (kn : Nat) : State :=
  let k := kernelAt s kn
  if k.st == .preempted && !k.lr.nest && decide (canForm s kn < k.lr.gang) then killOne s kn 0x0102 else s

/-- A core is fenced (R176): its group dissolves, or its gang is pre-empted whole, or too few cores are left, for it or for a gang that
has been pre-empted (R178). -/
def fence (s : State) (n : Nat) : State :=
  let s := mapCore { s with fenced := setIns n s.fenced } n (fun c => { c with suspect := false })
  let s := postAll s (fun x => x.grant.getLsbD (bayOf n)) 4 (n64 n) 0
  let s := (s.kernels.map Prod.fst).foldl gangLost s
  match groupNo? s n with
  | none => s
  | some (k, g) =>
    let kn := kernelAt s k
    if kn.lr.nest then dissolve s k g
    else if canForm s k < kn.lr.gang then killOne s k 0x0102
    else mapKernel s k (fun k => { k with preempt := true })

/-- A known-answer mismatch (R176, R267): it cancels the phase that the check was issued in, and the core becomes suspect,
or is fenced if it is so already. -/
def mismatchOn (s : State) (n : Nat) (ph : Bool) : State :=
  let s := if ph then cancelOf s n else s
  if (coreAt s n).suspect then fence s n else mapCore s n (fun c => { c with suspect := true })

end Sys2Proof.Machine
end

