-- ==== Sys2Proof/Machine/CoreEvents.lean ====
section
/-! DEFINITION. What comes about on a core besides the issue of bundles: landings, the release of stalls, engine
operations and transfers done, promises, known-answer checks, boundary traps, retirement, late faults and walks
(03_bundle R63, R69, R72; 07_kernel R146-R151; 12_tile R263-R267; 14_tensor R286, R287; 18_page R349-R351, R359;
20_trap R380-R390). An event whose condition does not hold changes nothing. -/

namespace Sys2Proof.Machine

/-! ## Landings (R63, R64) -/

/-- Of a core that has ended, logical time passes up to the next landing (R148). -/
def Core.hasten (c : Core) : Core :=
  if c.life == .ended then
    match minRem c.pipe with
    | some m => if 0 < m then c.elapse m.toNat else c
    | none => c
  else c

/-- RESULT_LANDING (R63, R64): the result that is due lands. -/
def evResultLanding (n : Nat) (s : State) : State :=
  let c := (coreAt s n).hasten
  if c.life == .running || c.life == .ended then
    match c.nextDue with
    | some (f, r) => setCore s n ({ c with pipe := r }.land f.dst)
    | none => s
  else s
/-- RESULT_LANDING, as an event. -/
def execResultLanding (core : Nat) (s : State) : Host.Outcome State Fault Refusal := .next (evResultLanding core s)

/-! ## Stalls -/

/-- A core that another of its group waits for at the phase entry: in a handler, or with a cause pending (R323, R324). -/
def Core.away (c : Core) : Bool := c.tl != 0 || !c.pend.isEmpty

/-- The group of a core lets it issue no bundle: its phase is to be cancelled (R320), or others have to return from
their traps first (R323, R324). -/
def groupHolds (s : State) (n : Nat) : Bool :=
  match (groupOf s (coreAt s n)).step with
  | .cancel .. => true
  | .waiting l => l.any (fun m => m != n && (coreAt s m).away)
  | _ => false

/-- The rendezvous of a waiting bundle has been completed: the bundle issues before anything else comes about (R155). -/
def Core.going (c : Core) : Bool := (c.stall.map Stall.go).getD false

/-- It is a PHOPEN, which takes the snapshot. -/
def Core.opening (c : Core) : Bool := c.going && (c.stall.bind Stall.rdv) == some .phopen

/-- TRAP (R388). -/
def Sem.traps (m : Sem) : Bool :=
  match m.after with
  | .trap _ => true
  | _ => false

/-- The bundle at the core's boundary comes to issue without a stall and takes a precise fault other than ILLOP, or it is a TRAP, or
what stands beside a WNEXT takes such a fault: that trap comes first when the core is to be taken there, while ILLOP is raised when
the bundle is fetched again (R165, R175, R391). -/
def trapsNow (s : State) (n : Nat) : Bool :=
  let s := { s with cur := n }
  let c := me s
  let todo := waitingItems s
  let others := todo.filter (fun it => it.sem.rdv != some .wnext)
  let found := checks c todo ++ (if stalled s todo then [] else (todo.map (fun it => it.sem.late)).flatten)
  let taken (l : Option Late) : Bool := (l.map (fun l => !l.cancel && l.cause != 1)).getD false
  c.life == .running && decide (c.bpc < 0x20000) && !fetchHeld c &&
    if linePoisoned c then found.all (fun l => l.cause != 1)
    else if stalled s todo then
      (c.stall.isNone && ((firstLate found).map (fun l => l.cause != 1)).getD false) ||
        ((firstCheck c todo).isNone && decide (others.length < todo.length) && !stalled s others && taken (takenCause c others))
    else taken (firstLate found) || ((firstLate found).isNone && todo.any (fun it => it.sem.traps))

/-- A core at TL0 that issues no bundle for now: its kernel is being pre-empted or stopped (R172, R417), or its group holds it.
One whose rendezvous is complete still issues that bundle, and one whose bundle traps takes that trap before it is pre-empted. A core
that comes back waits for the writes that waited for it. -/
def frozen (s : State) (n : Nat) : Bool :=
  let c := coreAt s n
  (c.tl == 0 && c.kernel.isSome && !c.going && ((halting s (kernelOf s c) && !trapsNow s n) || groupHolds s n)) || owed s n

/-! ## The engines (R69, R263, R287) -/

/-- Operations with several steps: MMA, IMMA and MMAS (R263). -/
def MatOp.stepped (m : MatOp) : Bool := m.op == 0x00 || m.op == 0x01 || m.op == 0x05

/-- The objects that a reader no longer holds. -/
def Core.readDone (c : Core) (reads : List Obj) : Core := reads.foldl Core.sbReadDone c

/-- The head of the engine has finished reading. -/
def Core.matRead (c : Core) : Core :=
  match c.mops with
  | m :: r => if m.stepped && !m.readDone then { c.readDone m.reads with mops := { m with readDone := true } :: r } else c
  | [] => c

/-- A transfer has finished reading its tile; a message's stream is done with that (R160). -/
def Core.xferRead (c : Core) (id : Nat) : Core :=
  match c.xfers.find? (fun x => x.id == id && !x.readDone && x.kind != 0x0D) with
  | none => c
  | some x =>
    let c := c.readDone x.reads
    if x.kind = 0x21 then { c with xfers := c.xfers.filter (fun y => y.id != id) }
    else { c with xfers := c.xfers.map (fun y => if y.id = id then { y with readDone := true } else y) }

/-- ENGINE_READ_FINISHED (R69): number 0 names the oldest matrix operation, the others a transfer of the core. -/
def evEngineReadFinished (n id : Nat) (s : State) : State :=
  mapCore s n (fun c => if id = 0 then c.matRead else c.xferRead id)
/-- ENGINE_READ_FINISHED, as an event. -/
def execEngineReadFinished (core id : Nat) (s : State) : Host.Outcome State Fault Refusal :=
  .next (evEngineReadFinished core id s)

/-- The elements of an accumulator replaced; what is written holds no error any more. -/
def Core.accWrite (c : Core) (a : Nat) (els : Tab AccEl) : Core :=
  els.foldl (fun c p => { c with
    acc := tabSet AccEl.zero c.acc (1024 * a + p.1) p.2, accPoison := setDel (1024 * a + p.1) c.accPoison }) c

/-- Bits of a byte of the scratchpad replaced. -/
def Core.putBits (c : Core) (a : Nat) (mask v : Byte) : Core :=
  c.spWrite a [some ((BitVec.ofNat 8 (c.sp.readLE a 1) &&& ~~~mask) ||| (v &&& mask))] true

/-- The rows of a matrix operation land one after another, each followed by the bytes of which it replaces bits (R262). -/
def Core.landRows (c : Core) (m : MatOp) : Core :=
  (m.land.zip (upto m.land.length)).foldl (fun c r =>
    (m.bits.filter (fun b => b.1 == r.2)).foldl (fun c b => c.putBits b.2.1 b.2.2.1 b.2.2.2) (c.spWrite r.1.1 r.1.2 false)) c

/-- The results of a matrix operation land, and its objects are free (R263). -/
def Core.matDone (c : Core) (m : MatOp) : Core :=
  let c := if m.readDone then c else c.readDone m.reads
  let c := match m.acc with
    | some (a, els) => c.accWrite a els
    | none => c
  let c := m.writes.foldl Core.sbFree (c.landRows m)
  match m.kchk with
  | some good => { c with kchks := c.kchks ++ [⟨m.ph, good⟩] }
  | none => c

/-- ENGINE_OP_DONE (R263, R265): the oldest matrix operation is done; an error that it consumed cancels the phase it was
issued in, or is a pending machine check. -/
def evEngineOpDone (n : Nat) (s : State) : State :=
  match (coreAt s n).mops with
  | [] => s
  | m :: r =>
    let s := mapCore s n (fun c => { c with mops := r }.matDone m)
    match m.bad with
    | none => s
    | some a => if m.ph then cancelOf s n else mapCore s n (fun c => { c with pend := c.pend ++ [.mchk 3 a none] })
/-- ENGINE_OP_DONE, as an event. -/
def execEngineOpDone (core : Nat) (s : State) : Host.Outcome State Fault Refusal := .next (evEngineOpDone core s)

/-- Bytes replaced in a handle. -/
def handlePut (h : HandleBits) (off : Nat) (v : W64) : HandleBits :=
  let b := h.toNat
  BitVec.ofNat 1024 (b - b / 2 ^ (8 * off) % 2 ^ 64 * 2 ^ (8 * off) + v.toNat * 2 ^ (8 * off))

/-- A handle after an edit (R298). -/
def HandleEdit.put (e : HandleEdit) (h : HandleBits) : HandleBits :=
  match e with
  | .all v => v
  | .field off v => handlePut h off v

/-- A transfer is done: its bytes land, its handle is written, its objects are free (R287). -/
def Core.xferDone (c : Core) (x : Xfer) : Core :=
  let c := if x.readDone then c else c.readDone x.reads
  let c := c.bringAll (sortBrought x.land)
  let c := match x.newHandle with
    | some (h, e) => { c with handle := tabSet 0 c.handle h (e.put (c.handleAt h)) }
    | none => c
  let rest := c.xfers.filter (fun y => y.id != x.id)
  let c := x.writes.foldl (fun (c : Core) o => if rest.any (fun y => y.writes.contains o) then c else c.sbFree o) c
  { c with xfers := rest }

/-- No replayed load of the same tile was reissued before (R320, step 6). -/
def inTurn (l : List Xfer) (x : Xfer) : Bool :=
  !x.replay || !l.any (fun y => y.replay && decide (y.id < x.id) && y.writes.any x.writes.contains)

/-- A transfer of the core that is done once its requests have been served. -/
def Core.finished? (c : Core) (id : Nat) : Option Xfer :=
  c.xfers.find? (fun x => x.id == id && x.left.isEmpty && inTurn c.xfers x)

/-- TRANSFER_DONE (R287): a copy-slot transfer whose requests have all been served or accepted. -/
def evTransferDone (n id : Nat) (s : State) : State :=
  match (coreAt s n).finished? id with
  | some x => if x.kind < 0x20 then mapCore s n (fun c => c.xferDone x) else s
  | none => s
/-- TRANSFER_DONE, as an event. -/
def execTransferDone (core id : Nat) (s : State) : Host.Outcome State Fault Refusal := .next (evTransferDone core id s)

/-- RECEIVE_PAYLOAD_LANDED (R161, R279, R404): the payload of a receive has landed in its tile. -/
def evReceivePayloadLanded (n id : Nat) (s : State) : State :=
  match (coreAt s n).finished? id with
  | some x => if x.kind = 0x20 then mapCore s n (fun c => c.xferDone x) else s
  | none => s
/-- RECEIVE_PAYLOAD_LANDED, as an event. -/
def execReceivePayloadLanded (core id : Nat) (s : State) : Host.Outcome State Fault Refusal :=
  .next (evReceivePayloadLanded core id s)

/-! ## Overlays (R149) -/

/-- The 64 bytes that a line's reads have brought, and whether any of them is poisoned. -/
def gathered (l : List Brought) : List Byte × Bool :=
  ((sortBrought l).flatMap Brought.bytes, l.any Brought.poison)

/-- A line lands in the bundle store; the last line of an overlay makes it present and frees its tag. -/
def Core.ovlLand (c : Core) (line : Nat) (bs : List Byte) (bad : Bool) (tag : Nat) : Core :=
  let ovls := c.ovls.map (fun o => if o.tag = tag then { o with lines := o.lines.filter (fun l => l.1 != line) } else o)
  let done := (ovls.filter (fun o => o.lines.isEmpty)).map OvlCopy.n
  let ovls := ovls.filter (fun o => !o.lines.isEmpty)
  { c with
    bundle := c.bundle.writeN (64 * line) bs
    bPoison := if bad then setIns line c.bPoison else setDel line c.bPoison
    bPend := if ovls.any (fun o => o.lines.any (fun l => l.1 == line)) then c.bPend else setDel line c.bPend
    ovls := ovls, present := setInsAll done c.present }

/-- OVL_LINE_LANDED (R149): one line of the oldest overlay copy that still has it lands, its reads having been served. -/
def evOvlLineLanded (n line : Nat) (s : State) : State :=
  let c := coreAt s n
  match c.ovls.find? (fun o => o.lines.any (fun l => l.1 == line)) with
  | none => s
  | some o =>
    match (o.lines.find? (fun l => l.1 == line)).bind (fun l => c.finished? l.2) with
    | some x =>
      let r := gathered x.land
      setCore s n ({ c with xfers := c.xfers.filter (fun y => y.id != x.id) }.ovlLand line r.1 r.2 o.tag)
    | none => s
/-- OVL_LINE_LANDED, as an event. -/
def execOvlLineLanded (core line : Nat) (s : State) : Host.Outcome State Fault Refusal := .next (evOvlLineLanded core line s)

/-! ## Known-answer checks (R146, R266, R267) -/

/-- INJECTED_CHECK (R146): the check that fell due runs on the fixed pattern, with its built-in digest. -/
def evInjectedCheck (n : Nat) (s : State) : State :=
  mapCore s n (fun c => match c.inject with
    | [] => c
    | ph :: r => { c with inject := r, kchks := c.kchks ++ [⟨ph, true⟩] })
/-- INJECTED_CHECK, as an event. -/
def execInjectedCheck (core : Nat) (s : State) : Host.Outcome State Fault Refusal := .next (evInjectedCheck core s)

/-- A mismatch would fence a core whose group's phase is committing: the decided commit ends first (R176, R311). -/
def fenceWaits (s : State) (n : Nat) : Bool :=
  let c := coreAt s n
  c.suspect && (match c.kernel with
    | some k => (groupAt s k c.group).step == .committing
    | none => false)

/-- KCHK_COMPLETE (R267): the oldest check completes; it fails when its literal is not the digest of its pattern, or
when the engine computed another one. -/
def evKchkComplete (n : Nat) (ok : Bool) (s : State) : State :=
  match (coreAt s n).kchks with
  | [] => s
  | k :: r =>
    let t := mapCore s n (fun c => { c with kchks := r, chkcnt := c.chkcnt + 1 })
    if k.good && ok then t else if fenceWaits s n then s else mismatchOn t n k.ph
/-- KCHK_COMPLETE, as an event. -/
def execKchkComplete (core : Nat) (ok : Bool) (s : State) : Host.Outcome State Fault Refusal :=
  .next (evKchkComplete core ok s)

/-! ## Boundary traps (R380, R384, R385) -/

def Pending.isMchk : Pending → Bool
  | .mchk .. => true
  | .homeflt .. => false

/-- A cause that names a phase entry belongs to TL0: machine checks of source 4 and 6, and home faults (R323, R324, R382). -/
def Pending.atEntry : Pending → Bool
  | .mchk _ _ e => e.isSome
  | .homeflt .. => true

/-- The pending cause taken first at the core's level: machine checks before home faults, the earliest of each (R384). -/
def Core.firstPend (c : Core) : Option Pending :=
  let l := c.pend.filter (fun p => c.tl == 0 || !p.atEntry)
  (l.find? Pending.isMchk).orElse (fun _ => l.head?)

/-- One element of a list removed. -/
def dropPend (p : Pending) : List Pending → List Pending
  | [] => []
  | q :: r => if q = p then r else q :: dropPend p r

/-- The core stands at a boundary where a pending cause is taken: not in a PHPUB whose commit is under way (R315), nor
between a rendezvous and the issue of its bundle (R155), nor between the two parts of a WNEXT bundle (R165), nor with its
group about to be cancelled. -/
def trapBoundary (s : State) (n : Nat) : Bool :=
  let c := coreAt s n
  c.life == .running && c.nextDue.isNone && !(c.stall.map Stall.early).getD false && !c.going &&
    !(c.tl == 0 && ((groupOf s c).ph == .prepare && (c.stall.bind Stall.rdv) == some .phpub)) &&
    !(c.tl == 0 && (match (groupOf s c).step with
      | .cancel .. => true
      | _ => false))

/-- BOUNDARY_TRAP_ENTRY (R385): the first pending cause is taken; TEPC names the bundle due to issue, or the phase entry
that the cause names. DEDUCED (the notes' log entry 88): where BPC stands at a line-end marker, TEPC gets the marker's address, at which
the bundle after it is found. -/
def evBoundaryTrapEntry (n : Nat) (s : State) : State :=
  let c := coreAt s n
  if c.spent then s else
  match c.firstPend with
  | none => s
  | some p =>
    if trapBoundary s n then
      let s := setCore s n { c with pend := dropPend p c.pend }
      match p with
      | .mchk src a entry => trapOn s n 7 (n64 src) (n64 a) (entry.getD c.bpc) c.lpc false
      | .homeflt va r entry => trapOn s n 8 (n64 va) (n64 r) entry c.lpc false
    else s
/-- BOUNDARY_TRAP_ENTRY, as an event. -/
def execBoundaryTrapEntry (core : Nat) (s : State) : Host.Outcome State Fault Refusal := .next (evBoundaryTrapEntry core s)

/-! ## Stalls released -/

/-- STALL_RELEASE (R72, R97): a stalled bundle whose conditions have cleared is checked again and issues, or traps; a pending
boundary cause is taken first (R384). -/
def evStallRelease (n : Nat) (s : State) : State :=
  let c := coreAt s n
  if c.life == .running && c.stall.isSome && !c.spent && c.nextDue.isNone && !(c.firstPend.isSome && trapBoundary s n) && !frozen s n then
    asCore n (fun s => if stillHeld s then s else boundary s) s
  else s
/-- STALL_RELEASE, as an event. -/
def execStallRelease (core : Nat) (s : State) : Host.Outcome State Fault Refusal := .next (evStallRelease core s)

/-! ## PROMISE (R286) -/

/-- The tile, among those that a stalled bundle waits for, that a transfer past its promise writes. -/
def Core.promised (c : Core) : Option (Xfer × Nat) :=
  ((c.stall.map Stall.waits).getD []).findSome? (fun o => match o with
    | .tile t => (c.xfers.find? (fun x => x.promise && x.writes.contains o &&
        (x.due.map (fun d => decide (d ≤ c.lcc.toNat))).getD false)).map (fun x => (x, t))
    | .acc _ => none)

/-- PROMISE (R286): the clk of a stall past a promise exceed SLACK. A pending boundary cause comes first (R384), and a PHPUB
whose phase is in PREPARE takes none (R391). -/
def evPromise (n : Nat) (s : State) : State :=
  let c := coreAt s n
  let slack := (kernelOf s c).lr.slack
  match c.stall, c.promised with
  | some t, some (x, tile) =>
    if slack != 0 && decide (slack < t.clk) && !c.spent && c.firstPend.isNone && trapBoundary s n then
      asCore n (fun s => fault s 5 (n64 (x.tag.getD 0 + tile * 2 ^ 16)) (n64 t.clk)) s
    else s
  | _, _ => s
/-- PROMISE, as an event. -/
def execPromise (core : Nat) (s : State) : Host.Outcome State Fault Refusal := .next (evPromise core s)

/-! ## The handler budget (R390, R392) -/

/-- HANDLER_BUDGET_EXCEEDED (R390, R392): BUDG has passed 65,536, and the context is killed with cause 0x0104. -/
def evHandlerBudgetExceeded (n : Nat) (s : State) : State :=
  let c := coreAt s n
  if c.life == .running && c.spent then
    killCtx s (ctxNo s c) 0x0104 (256 * c.tl) n c.kernel (n64 c.bank1.epc)
  else s
/-- HANDLER_BUDGET_EXCEEDED, as an event. -/
def execHandlerBudgetExceeded (core : Nat) (s : State) : Host.Outcome State Fault Refusal :=
  .next (evHandlerBudgetExceeded core s)

/-! ## Retirement (R148) -/

/-- Nothing of a core is outstanding: results, objects, tags, transfers, checks, messages (R146, R148). DEDUCED (the notes' log entry
90): a message of port 16 is accepted at its port when its receiver takes it from the outbox, so that one in the outbox is outstanding. -/
def quiet (s : State) (n : Nat) : Bool :=
  let c := coreAt s n
  c.pipe.isEmpty && c.sb.all (fun p => p.2.isNone) && c.tags.isEmpty && c.xfers.isEmpty && c.mops.isEmpty &&
    c.inject.isEmpty && c.kchks.isEmpty && c.outbox.isEmpty && fenceDone s n

/-- The gang index of a core (R159). -/
def gangNo (k : Kernel) (c : Core) : Nat := c.group * groupSize k + c.cidx

/-- What the retirement of a core does to its group: a timed core gives its digest; a nest group dissolves while its walker
holds work, and finishes its item with its last core (R148, R177, R306). -/
def retired (kn g n : Nat) (s : State) : State :=
  let k := kernelAt s kn
  let gr := groupAt s kn g
  if !k.lr.nest then
    let c := coreAt s n
    let s := mapKernel s kn (fun k => { k with digests := tabPut k.digests (gangNo k c) c.digest })
    if gr.cores.all (fun m => (coreAt s m).life == .retired) then mapGroup s kn g (fun gr => { gr with st := .retired }) else s
  else if ((k.walkerOf gr.bay).map Walker.hasWork).getD false then dissolve s kn g
  else if gr.cores.all (fun m => (coreAt s m).life == .retired) then
    mapGroup (finishItem s kn g) kn g (fun gr => { gr with st := .retired })
  else s

/-- The last core of a level-2 group whose item has not committed waits for its turn, as a WNEXT would (R165). -/
def mayRetire (s : State) (n kn g : Nat) : Bool :=
  let k := kernelAt s kn
  let gr := groupAt s kn g
  turnOf k gr || ((k.walkerOf gr.bay).map Walker.hasWork).getD false ||
    gr.cores.any (fun m => m != n && (coreAt s m).life != .retired)

/-- CORE_RETIRE (R148): a core that has ended, with nothing outstanding, retires. -/
def evCoreRetire (n : Nat) (s : State) : State :=
  if (coreAt s n).life == .ended && quiet s n then
    match groupNo? s n with
    | some (k, g) => if mayRetire s n k g then retired k g n (mapCore s n (fun c => { c with life := .retired })) else s
    | none => mapCore s n (fun c => { c with life := .retired })
  else s
/-- CORE_RETIRE, as an event. -/
def execCoreRetire (core : Nat) (s : State) : Host.Outcome State Fault Refusal := .next (evCoreRetire core s)

/-! ## Late faults (R151, R359) -/

/-- LATE_FAULT (R151): a line of DRAM turns out poisoned after an operation on it was accepted; the record goes to the context
that issued it. -/
def evLateFault (who : Origin) (addr : Nat) (s : State) : State :=
  if addr < 2 ^ 40 then
    let s := { s with hbmPoison := setIns (addr / 64) s.hbmPoison }
    poisonFound s addr (if who.ctx < 4096 then some (who.ctx, if who.core < 1024 then who.core else noCore, who.va) else none)
  else s
/-- LATE_FAULT, as an event. -/
def execLateFault (who : Origin) (addr : Nat) (s : State) : Host.Outcome State Fault Refusal := .next (evLateFault who addr s)

/-! ## Walks (R349-R351) -/

/-- The entries that the walks of a stalled bundle read, with the address of each walk. -/
def stallEntries (s : State) (x : Nat) (t : Stall) : List (Nat × Nat) :=
  t.walks.flatMap (fun va => (walkReads s va walkLevels (ctxAt s x).root).map (fun a => (a, va)))

/-- The read of an entry leaves for its home (R346, R365). -/
def sendEntry (n x : Nat) (s : State) (e : Nat × Nat) : State :=
  let s := sendReq s (.core n) x none (entryPlace e.1) e.2 .fetch none
  mapCore s n (fun c => { c with stall := c.stall.map (fun t => { t with reads := t.reads ++ [(e.1, s.nextId - 1)] }) })

/-- TRANSLATION_WALK_DONE (R346, R349, R351): the walks of a stalled bundle begin, and are counted (R363), with the reads of their
entries, which no closed gate holds (R375); they complete once those have been served at their homes. A first leaf over window cells
initialises them. -/
def evTranslationWalkDone (n : Nat) (s : State) : State :=
  let c := coreAt s n
  match c.stall with
  | none => s
  | some t =>
    let x := ctxNo s c
    let unread := (stallEntries s x t).filter (fun e => !t.reads.any (fun r => r.1 == e.1))
    if c.life != .running || t.walked || t.walks.isEmpty then s
    else if !unread.isEmpty then
      if gateClosed s then s
      else
        let begun := if t.reads.isEmpty then BitVec.ofNat 32 t.walks.length else 0
        unread.foldl (sendEntry n x) (setCore s n { c with walks := c.walks + begun })
    else if allServed s (t.reads.map Prod.snd) then
      t.walks.foldl (fun s va => warm s x va) (setCore s n { c with stall := some { t with walked := true } })
    else s
/-- TRANSLATION_WALK_DONE, as an event. -/
def execTranslationWalkDone (core : Nat) (s : State) : Host.Outcome State Fault Refusal := .next (evTranslationWalkDone core s)

end Sys2Proof.Machine
end

