-- ==== Sys2Proof/Machine/Cancel.lean ====
section
/-! DEFINITION. The cancellation of a phase and its restart (16_phase R319-R325), which pre-emption uses too
(08_group R173). -/

namespace Sys2Proof.Machine

/-! ## The snapshot restored (R320, steps 2 and 5) -/

/-- Results bound for x and p, which the snapshot latches (R313). -/
def Flight.latched (f : Flight) : Bool :=
  match f.dst with
  | .x .. => true | .p .. => true
  | _ => false

/-- A tile held WRITE by a discarded TDW returns to FREE. -/
def Core.dropFlight (c : Core) (f : Flight) : Core :=
  match f.dst with
  | .tile n _ => c.sbFree (.tile n)
  | _ => c

/-- Base of a named accumulator's part of the snapshot area. -/
def snapBase (sn : Snap) (i : Nat) : Nat := sn.area + 26624 * i

/-- The first poisoned snapshot word. -/
def Core.snapPoison (c : Core) (sn : Snap) : Option Nat :=
  (upto sn.accs.length).findSome? (fun i => c.poisonIn (snapBase sn i) 26624)

/-- An accumulator written back from its area; an element of a poisoned word becomes NaN (R265). -/
def Core.accBack (c : Core) (a base : Nat) : Core :=
  c.accWrite a ((upto 1024).map (fun i =>
    (i, if (c.poisonIn (base + 26 * i) 26).isSome then .nan else AccEl.ofNat (c.sp.readLE (base + 26 * i) 26))))

/-- A result that was in flight before the PHOPEN lands at the logical cycle of the first attempt (R321): LCC goes back, and what
remains of its latency grows by as much. -/
def Flight.back (by_ : Nat) (f : Flight) : Flight := { f with rem := f.rem + by_ }

/-- What a cancellation restores in a core. -/
def Core.restart (c : Core) : Core :=
  match c.snap with
  | none => c
  | some sn =>
    let c := (c.pipe.filter Flight.ph).foldl Core.dropFlight c
    let c := { c with
      x := sn.x, p := sn.p, lpc := sn.lpc, bpc := sn.bpc, lcc := sn.lcc + 1, units := sn.units, runLog := [], stall := none
      pipe := sn.latch ++ (c.pipe.filter (fun f => !f.ph && !f.latched)).map (Flight.back (c.lcc - (sn.lcc + 1)).toNat) }
    (sn.accs.zip (upto sn.accs.length)).foldl (fun c p => c.accBack p.1 (snapBase sn p.2)) c

/-! ## The input log replayed (R320, step 6) -/

/-- A load of the log is reissued as it was captured; a TGATH reads its index list again, and a line that none of its
captured pages holds is translated then, by walks that its core starts (R351, R363), landing poisoned where it faults. -/
def replayLoad (n : Nat) (s : State) (d : LoadDesc) : State :=
  let c := coreAt s n
  let els := loadEls c d
  let x := ctxNo s c
  let lost := (els.filterMap LoadEl.va).filter (fun va => d.kind != 0x07 && !hasPage d.pages va)
  let more := pagesOk ((chunkLows lost).map (fun p => (p.2, xlate s x p.2 .read)))
  let pages := d.pages ++ more
  let there (va : Nat) : Bool := d.kind == 0x07 || hasPage pages va
  let gone (e : LoadEl) : Bool := (e.va.map (fun va => !there va)).getD false
  let els' := els.map (fun e => if gone e then { e with va := none, pad := List.replicate e.n 0 } else e)
  let lands := (padLands els').map (fun b => { b with poison := ((els[b.seq]?).map gone).getD false })
  let place (va : Nat) : Place := if d.kind = 0x07 then ⟨.vault n, va, 0⟩ else (pageOf pages va).place va
  let t := winOf d.tile
  let starts := (chunkLows lost).map Prod.snd
  let s := starts.foldl (fun s va => warm s x va) s
  let entries := starts.flatMap (fun va => (walkReads s va walkLevels (ctxAt s x).root).map (fun a => (entryPlace a, va, ReqOp.fetch)))
  let s := mapCore s n (fun c => { c.sbWrite (.tile d.tileNo) with walks := c.walks + BitVec.ofNat 32 starts.length })
  let x : Xfer := { emptyXfer with
    kind := d.kind, writes := [.tile d.tileNo], wbanks := t.banks (min t.rows (shapeRows .tile d.shape)), readDone := true
    land := lands, ph := true, replay := true, pages := pages }
  startXfer n x none (entries ++ lineReads place els') s

/-- The input log of a core, in its order. -/
def replayLog (s : State) (n : Nat) : State := (coreAt s n).inLog.foldl (replayLoad n) s

/-! ## A group at its phase entry -/

/-- The cores of a group go back to the phase entry, what its phase holds is discarded, and the phase is OPEN. What some of
them have to return from first stays (R323, R324). -/
def rollBack (s : State) (kn g : Nat) : State :=
  let gr := groupAt s kn g
  let s := dropHeld s kn g
  let s := mapCores s gr.cores Core.restart
  mapGroup s kn g (fun gr => { gr with ph := .open_, sig := 0, step := match gr.step with
    | .waiting l => .waiting l
    | _ => .none })

/-- Cores of a group whose snapshot cannot be restored, each with the poisoned word. -/
def badSnaps (s : State) (cores : List Nat) : List (Nat × Nat) :=
  cores.filterMap (fun n => ((coreAt s n).snap.bind (coreAt s n).snapPoison).map (fun a => (n, a)))

/-- The phase entry of a core. -/
def entryOf (s : State) (n : Nat) : Nat := ((coreAt s n).snap.map Snap.bpc).getD 0

/-- A machine check pending at the phase entry: source 6 where a snapshot word is poisoned, else source 4 (R323, R383). -/
def escalated (bad : List (Nat × Nat)) (s : State) (n : Nat) : State :=
  let b := entryOf s n
  let p : Pending := match bad.find? (fun q => q.1 == n) with
    | some q => .mchk 6 q.2 (some b)
    | none => .mchk 4 b (some b)
  mapCore s n (fun c => { c with pend := c.pend ++ [p] })

/-- A phase escalates: an error record, and a machine check on every core of the group (R323). -/
def escalate (s : State) (kn g : Nat) (bad : List (Nat × Nat)) : State :=
  let gr := groupAt s kn g
  let n0 := gr.cores.headD noCore
  let s := postError s (kernelAt s kn).ctx 0x0102 0 n0 (n64 (entryOf s n0)) 0
  let s := gr.cores.foldl (escalated bad) s
  mapGroup s kn g (fun gr => { gr with canc := 0, step := .waiting gr.cores })

/-- A home fault is left pending on the core that issued the faulting store (R324). -/
def faultTo (s : State) (kn g : Nat) (flt : Option (Nat × Nat × Nat)) : State :=
  match flt with
  | none => s
  | some (n, va, r) =>
    let b := entryOf s n
    mapGroup (mapCore s n (fun c => { c with pend := c.pend ++ [.homeflt va r b] })) kn g (fun gr =>
      { gr with step := match gr.step with
          | .waiting l => .waiting (setIns n l)
          | _ => .waiting [n] })

/-- Every engine of a core is at rest: operations and checks done, transfers and overlay copies landed (R320, step 3). -/
def Core.idleEngines (c : Core) : Bool :=
  c.mops.isEmpty && c.xfers.isEmpty && c.ovls.isEmpty && c.kchks.isEmpty && c.inject.isEmpty

/-- PHASE_CANCEL (R320, R323, R324): once every core of the group is at TL0 and its engines are at rest, the attempt is
discarded, the snapshot restored, the input log replayed, and the phase restarts. -/
def evPhaseCancel (kn g : Nat) (s : State) : State :=
  let gr := groupAt s kn g
  match gr.step with
  | .cancel count flt =>
    if gr.cores.all (fun n => (coreAt s n).tl == 0 && (coreAt s n).idleEngines && !(coreAt s n).opening) then
      let bad := badSnaps s gr.cores
      let esc := !bad.isEmpty || (count && decide (2 ≤ gr.canc))
      let s := mapKernel (rollBack s kn g) kn (fun k => { k with cancels := k.cancels + BitVec.ofNat 64 (b2n count) })
      let s := mapGroup s kn g (fun gr => { gr with canc := if count then gr.canc + 1 else gr.canc })
      let s := gr.cores.foldl replayLog s
      let s := if esc then escalate s kn g bad else s
      faultTo s kn g flt
    else s
  | _ => s
/-- PHASE_CANCEL, as an event. -/
def execPhaseCancel (k g : Nat) (s : State) : Host.Outcome State Fault Refusal := .next (evPhaseCancel k g s)

end Sys2Proof.Machine
end

