-- ==== Sys2Proof/Machine/KernelEvents.lean ====
section
/-! DEFINITION. The life of a kernel after its admission (07_kernel R145-R150; 08_group R172-R175; 14_tensor R306):
loading, pre-emption, resumption, finishing and retirement. -/

namespace Sys2Proof.Machine

/-! ## Reading the image (04_assembly R106, R107, R424; 07_kernel R140, R145) -/

/-- Field of a record or header: `n` bytes at an offset. -/
def at_ (bs : List Byte) (o n : Nat) : Nat := leNat ((bs.drop o).take n)

/-- A preset entry: kind, index, value. -/
abbrev Preset := Nat × Nat × W64

/-- The entries of a preset table before its all-zero entry, among the first 256. -/
def presetsOf : Nat → List Byte → List Preset
  | 0, _ => []
  | f + 1, bs =>
    let e := bs.take 16
    if e.length < 16 || leNat e = 0 then [] else (at_ e 0 1, at_ e 1 1, n64 (at_ e 8 8)) :: presetsOf f (bs.drop 16)

/-- The format that a preset leaves in bank format register `i`: FMT 11 to 15 is never held (R243), and what a preset of such
a value leaves is a format that the spec does not name, a free one (the notes' log entry 58). -/
def presetFmt (ctr i : Nat) (v : W64) : BitVec 4 :=
  if v.toNat % 16 < 11 then v.truncate 4 else BitVec.ofNat 4 ((Config.freeValue (ctr + i)).toNat % 11)

/-- One entry applied (R140). -/
def Core.preset (ctr : Nat) (c : Core) (e : Preset) : Core :=
  let (k, i, v) := e
  match k with
  | 1 => { c with tile := tabSet 0 c.tile (i % 64) (v.truncate 40) }
  | 2 => { c with bf := tabSet 0 c.bf (i % 16) (presetFmt ctr (i % 16) v) }
  | 3 => { c with shLive := tabSet 0 c.shLive (i % 16) v, shShadow := tabSet 0 c.shShadow (i % 16) v }
  | _ => c

/-- A table read entry by entry up to its end, so that nothing beyond it is read. -/
def readPresets (s : State) (own : FetchFor) (x : Nat) : Nat → Nat → Option (List Byte)
  | 0, _ => some []
  | f + 1, va => match fetchBytes s own x va 16 with
    | none => none
    | some e => if leNat e = 0 then some e else (readPresets s own x f (va + 16)).map (e ++ ·)

/-- The stretches that this reads, as far as what has been read tells. -/
def presetReads (s : State) (own : FetchFor) (x : Nat) : Nat → Nat → List (Nat × Nat)
  | 0, _ => []
  | f + 1, va => (va, 16) :: (match fetchBytes s own x va 16 with
    | none => []
    | some e => if leNat e = 0 then [] else presetReads s own x f (va + 16))

/-- The words of the literal store. -/
def literalsOf : Nat → Nat → List Byte → Tab W64
  | 0, _, _ => []
  | f + 1, i, bs => if bs.isEmpty then [] else
      let r := literalsOf f (i + 1) (bs.drop 8)
      if leNat (bs.take 8) = 0 then r else (i, n64 (leNat (bs.take 8))) :: r

/-- The handles of a table. -/
def handlesOf (bs : List Byte) : Tab HandleBits :=
  (upto 64).foldl (fun t i => tabSet 0 t i (BitVec.ofNat 1024 (leNat ((bs.drop (128 * i)).take 128)))) []

/-- The overlays and the declared points that an image's tables list. DESIGN CHOICE (the notes' log entry 60): the reserved field at
0xE of an overlay's entry is not looked at; the spec gives no outcome where it is not zero (R107). -/
def overlaysOf (n : Nat) (bs : List Byte) : List Overlay :=
  (upto n).map (fun i => let e := bs.drop (16 * i); ⟨at_ e 4 4, at_ e 8 4, at_ e 0 4, at_ e 12 2⟩)
def pointsOf (n : Nat) (bs : List Byte) : List Nat := (upto n).map (fun i => at_ bs (4 * i) 4)

/-- What loading an image gives. -/
structure Loaded where
  start : Core
  section_ : List Byte
  overlays : List Overlay
  points : List Nat

/-- The start state of R145 from the image and the record, or none where a read meets a fault or poison. DESIGN CHOICE (the
notes' log entry 59): of a header that breaks R106, for which the spec gives no outcome, a wrong magic, nonzero reserved
bytes, misaligned sections, an image size below the end of a section and declared points that do not rise are ignored, and a bundle
section over 128 KiB and more than 4,096 literals are clamped. -/
def loadImage (s : State) (k : Nat) : Option Loaded := do
  let own : FetchFor := .image k
  let x := (kernelAt s k).ctx
  let lr := (kernelAt s k).lr
  let hd ← fetchBytes s own x lr.image 128
  let sec (o n : Nat) : Option (List Byte) := fetchBytes s own x (lr.image + at_ hd o 4) n
  let code ← sec 0x10 (min (at_ hd 0x14 4) 0x20000)
  let lits ← sec 0x18 (8 * min (at_ hd 0x1C 4) 4096)
  let ovl ← sec 0x20 (16 * at_ hd 0x24 4)
  let pts ← sec 0x34 (4 * at_ hd 0x38 4)
  let tab ← readPresets s own x 256 (lr.image + at_ hd 0x28 4)
  let rec_ ← if lr.presets = 0 then some [] else readPresets s own x 256 lr.presets
  let n := (presetsOf 256 tab).length
  let hoff := at_ hd 0x28 4 + (16 * (n + 1) + 127) / 128 * 128
  let hs ← fetchBytes s own x (if lr.handles = 0 then lr.image + hoff else lr.handles) 8192
  let c : Core := { Core.reset with
    bundle := Memory.writeN [] 0 code, lit := literalsOf 4096 0 lits
    bpc := if lr.entry = 0xFFFFFFFF then at_ hd 0x0C 4 else lr.entry
    lpc := BitVec.ofNat 12 lr.lpc0, handle := handlesOf hs, image := lr.digest }
  let c := (lr.arg.zip (upto 8)).foldl (fun c p => c.wx (1 + p.2) p.1) c
  let c := (presetsOf 256 tab ++ presetsOf 256 rec_).foldl (Core.preset s.freeCtr) c
  some ⟨c, code, overlaysOf (at_ hd 0x24 4) ovl, pointsOf (at_ hd 0x38 4) pts⟩

/-- The stretches that loading reads, as far as what has been read tells: header, sections, preset tables up to their ends, then
handles. -/
def imageReads (s : State) (k : Nat) : List (Nat × Nat) :=
  let own : FetchFor := .image k
  let x := (kernelAt s k).ctx
  let lr := (kernelAt s k).lr
  (lr.image, 128) :: (match fetchBytes s own x lr.image 128 with
    | none => []
    | some hd =>
      let tab := lr.image + at_ hd 0x28 4
      [(lr.image + at_ hd 0x10 4, min (at_ hd 0x14 4) 0x20000), (lr.image + at_ hd 0x18 4, 8 * min (at_ hd 0x1C 4) 4096),
        (lr.image + at_ hd 0x20 4, 16 * at_ hd 0x24 4), (lr.image + at_ hd 0x34 4, 4 * at_ hd 0x38 4)] ++
      presetReads s own x 256 tab ++ (if lr.presets = 0 then [] else presetReads s own x 256 lr.presets) ++
      (match readPresets s own x 256 tab with
       | none => []
       | some l =>
         [(if lr.handles = 0 then tab + (16 * ((presetsOf 256 l).length + 1) + 127) / 128 * 128 else lr.handles, 8192)]))

/-- The overlays that a core keeps: present, with a resident tag, of the same image, and not under the new bundle
section (R150). -/
def keptOverlays (c : Core) (l : Loaded) : List Nat :=
  if c.image = l.start.image then
    c.present.filter (fun i =>
      let o := l.overlays.getD i default
      o.tag != 0 && decide ((l.section_.length + 63) / 64 * 64 ≤ o.dest))
  else []

/-- A core brought to its start state (R145, R150): every core of the kernel's bays, a fenced one too. DESIGN CHOICE (the notes' log
entry 83): R150 gives every other core 0x00 in the bytes of its bundle store outside the section and the overlays that are kept, and
says nothing of one whose last kernel had the same digest; there they are 0x00 too. -/
def loadCore (l : Loaded) (kn : Nat) (s : State) (n : Nat) : State :=
  mapCore s n (fun c =>
    let keep := keptOverlays c l
    let d := c.renew l.start kn 0 0
    let lines (o : Overlay) : List Nat := (upto (o.len / 64)).map (o.dest / 64 + ·)
    let all := (keep.map (fun i => lines (l.overlays.getD i default))).flatten
    { d with
      bundle := keep.foldl (fun m i => let o := l.overlays.getD i default; m.writeN o.dest (c.bundle.readN o.dest o.len)) d.bundle
      bPoison := c.bPoison.filter all.contains, present := keep })

/-- The groups of a kernel that starts, and the places of their cores (R152, R154). -/
def startGroups (kn : Nat) (s : State) : State :=
  let k := kernelAt s kn
  let all := formGroups s (groupSize k) k.bays
  let gs := if k.lr.nest then all else all.take k.lr.gang
  (gs.zip (upto gs.length)).foldl (fun s p =>
    let g := p.2
    let s := (p.1.2.zip (upto p.1.2.length)).foldl (fun s q => mapCore s q.1 (fun c =>
      let c := { c with group := g, cidx := q.2 }
      if k.lr.nest then c else { (c.wx 24 (n64 g)).wx 25 (n64 q.2) with life := .running })) s
    mapKernel s kn (fun k => { k with
      groups := tabPut k.groups g (freshGroup p.1.1 p.1.2 (if k.lr.nest then .waiting else .running) k.waits)
      waits := k.waits + 1 })) s

/-- KERNEL_LOAD_DONE (R145, R147, R154, R162): the reads of the image leave, each stretch as soon as what has come tells where it
stands; with all of them every core holds the start state, groups are formed and walkers armed. A fault or poison met on the way kills
the kernel with cause 0x0101. -/
def evKernelLoadDone (kn : Nat) (s : State) : State :=
  let k := kernelAt s kn
  let own : FetchFor := .image kn
  let reads := imageReads s kn
  if k.st == .loading then
    if !fetchesIn s own k.ctx reads then startFetches own k.ctx reads s else
    match loadImage s kn with
    | none => killOne s kn 0x0101
    | some l =>
      let s := (coresOfBays k.bays).foldl (loadCore l kn) (dropFetches s (· == own))
      let s := mapKernel { s with freeCtr := s.freeCtr + 16 } kn (fun k => { k with
        st := .running, start := l.start, overlays := l.overlays, points := l.points, luo := k.lr.first
        walkers := if k.lr.nest then armWalkers k.lr k.bays else [] })
      startGroups kn s
  else s
/-- KERNEL_LOAD_DONE, as an event. -/
def execKernelLoadDone (k : Nat) (s : State) : Host.Outcome State Fault Refusal := .next (evKernelLoadDone k s)

/-! ## Pre-emption (R172, R173) -/

/-- The live groups of a kernel, with their numbers. -/
def Kernel.liveGroups (k : Kernel) : List (Nat × Group) := k.groups.filter (fun p => p.2.st != .retired)

/-- The cores that its groups hold. -/
def Kernel.cores (k : Kernel) : List Nat := (k.liveGroups.map (fun p => p.2.cores)).flatten

/-- A core can be taken at its boundary (R172, R173, R175, R391): it is at TL0 with no boundary trap to take first (in a phase
that PREPARE holds those wait for the cancellation; at a WNEXT whose other slots have issued, for the end of its bundle; a core that
has ended takes none), its copies, checks and one-step operations are done; of a phase that
is to be cancelled every operation is (R264, R320). -/
def takeable (c : Core) (ph : PhState) : Bool :=
  c.tl == 0 && (c.pend.isEmpty || ph == .prepare || c.life != .running || (c.stall.map Stall.early).getD false) && !c.opening && c.xfers.isEmpty && c.ovls.isEmpty && c.kchks.isEmpty &&
    c.inject.isEmpty && c.mops.all (fun m => m.stepped && ph == .closed)

/-- A message of a core is on its way to a transmit skid. -/
def messageAway (s : State) (n : Nat) : Bool :=
  s.reqs.any (fun r => r.src == .core n && r.waiting && (match r.op with
    | .msg _ => true
    | _ => false))

/-- The cores of a kernel that no live group holds are at rest too: those that a dissolved group has freed, with the checks that fell
due on them (R146, R177). -/
def restIdle (s : State) (kn : Nat) : Bool :=
  let held := (kernelAt s kn).cores
  s.cores.all (fun p => p.2.kernel != some kn || held.contains p.1 || p.2.idleEngines)

/-- Every core of a kernel can be taken, with no trap of its bundle to take first and its messages in the skids, and no commit is
under way (R172, R175). -/
def mayPreempt (s : State) (kn : Nat) : Bool :=
  restIdle s kn && (kernelAt s kn).liveGroups.all (fun p => p.2.steady && p.2.cores.all (fun n =>
    takeable (coreAt s n) p.2.ph && !trapsNow s n && !messageAway s n))

/-- The phase of a group is cancelled by pre-emption, without counting; it restarts at its entry after the resume. -/
def preemptGroup (kn : Nat) (s : State) (p : Nat × Group) : State :=
  if p.2.ph == .closed then s else
    let bad := badSnaps s p.2.cores
    let s := rollBack s kn p.1
    if bad.isEmpty then s else escalate s kn p.1 bad

/-- A core left to other kernels, with what belongs to it and not to the kernel. -/
def Core.vacate (c : Core) : Core :=
  { c with life := .idle, kernel := none, stall := none, snap := none, pend := [], pipe := [], mops := [], inject := [], kchks := []
           tl := 0, chain := none, chains := [] }

/-- KERNEL_PREEMPT (R172, R173, R118): the state of every core of the saved bays is saved, and the bays are free. A gang that its
context's grant cannot form any more is killed (R178). DESIGN CHOICE (the
notes' log entry 75): what is saved stands in the kernel; the save area in memory holds the bays that a suspend has found held, and
where the saved form of a pre-emption for an admission stands the spec does not say. -/
def evKernelPreempt (kn : Nat) (s : State) : State :=
  let k := kernelAt s kn
  if k.st == .running && k.preempt && mayPreempt s kn then
    let s := k.liveGroups.foldl (preemptGroup kn) s
    let saved := (coresOfBays k.bays).map (fun n => (n, coreAt s n))
    let s := mapKernel s kn (fun k => { k with
      st := .preempted, preempt := false, saved := saved
      groups := tabMap (fun _ g => if g.st == .retired then g else { g with back := g.st, st := .preempted }) k.groups })
    gangLost { s with cores := tabMap (fun _ c => if c.kernel == some kn then c.vacate else c) s.cores } kn
  else s
/-- KERNEL_PREEMPT, as an event. -/
def execKernelPreempt (k : Nat) (s : State) : Host.Outcome State Fault Refusal := .next (evKernelPreempt k s)

/-! ## Resumption (R174, R356) -/

/-- A bay that no kernel holds. -/
def bayFree (s : State) (b : Nat) : Bool := !s.kernels.any (fun p => p.2.st.holds && p.2.bays.contains b)

/-- Strictly rising. -/
def rising : List Nat → Bool
  | [] => true
  | [_] => true
  | a :: b :: r => decide (a < b) && rising (b :: r)

/-- The new bay that takes over an old one's walker: the same one, or, when their number is the same, the one in its place (R174). -/
def heirOf (old bays : List Nat) (b : Nat) : Option Nat :=
  if old.length = bays.length then ((old.zip bays).find? (fun p => p.1 == b)).map Prod.snd
  else if bays.contains b then some b else none

/-- The walkers of a nest kernel on its new bays, of which `live` hold groups of it: those of bays that it keeps, or all of them in
their order when their number is the same; the ranges of the others become pending in turn at those with groups (R174). DESIGN CHOICE
(the notes' log entry 84): so do the ranges of a walker whose bay holds no group any more, which no other could take. -/
def moveWalkers (ws : List Walker) (bays live : List Nat) : List Walker :=
  let old := ws.map Walker.bay
  let held := bays.map (fun b => ((ws.find? (fun w => heirOf old bays w.bay == some b)).map (fun w => { w with bay := b })).getD ⟨b, 0, 0, []⟩)
  let takers := bays.filter live.contains
  let gives (w : Walker) : Bool := !takers.isEmpty && !takers.contains w.bay
  let lost := (ws.filter (fun w => (heirOf old bays w.bay).isNone) ++ held.filter gives).map (fun w => w.pending ++ [(w.lo, w.hi)])
  let heirs := if takers.isEmpty then bays else takers
  held.map (fun w =>
    let w := if gives w then { w with hi := w.lo, pending := [] } else w
    match (heirs.zip (upto heirs.length)).find? (fun h => h.1 == w.bay) with
    | none => w
    | some h => ((lost.zip (upto lost.length)).filter (fun q => q.2 % heirs.length == h.2)).foldl
        (fun w q => q.1.foldl Walker.put w) w)

/-- The first of some runs of cores in a bay, and the others. -/
def takeRun (b : Nat) : List (Nat × List Nat) → Option ((Nat × List Nat) × List (Nat × List Nat))
  | [] => none
  | r :: l => if r.1 = b then some (r, l) else (takeRun b l).map (fun p => (p.1, r :: p.2))

/-- The runs that some groups take: each one of the bay that takes over its bay's walker, or, where that has none left, of any other. -/
def takeRuns (old bays : List Nat) : List (Nat × Group) → List (Nat × List Nat) → List ((Nat × Group) × (Nat × List Nat))
  | [], _ => []
  | p :: l, runs =>
    match (heirOf old bays p.2.bay).bind (fun b => takeRun b runs) with
    | some (r, left) => (p, r) :: takeRuns old bays l left
    | none => takeRuns old bays l runs

/-- Where the live groups of a kernel go: those of a timed kernel in the order of their numbers. -/
def placements (k : Kernel) (bays : List Nat) (runs : List (Nat × List Nat)) : List ((Nat × Group) × (Nat × List Nat)) :=
  if !k.lr.nest then k.liveGroups.zip runs else
    let first := takeRuns k.bays bays k.liveGroups runs
    first ++ (k.liveGroups.filter (fun p => !first.any (fun q => q.1.1 == p.1))).zip
      (runs.filter (fun r => !first.any (fun q => q.2 == r)))

/-- The new number of a saved core. -/
def movedTo (mv : List (Nat × Nat)) (n : Nat) : Nat := ((mv.find? (fun p => p.1 == n)).map Prod.snd).getD n

def Home.moved (mv : List (Nat × Nat)) : Home → Home
  | .vault c => .vault (movedTo mv c)
  | .scratch c => .scratch (movedTo mv c)
  | h => h

/-- A core that has been away is the home. -/
def Home.wasAway (mv : List (Nat × Nat)) (h : Home) : Bool := (h.core?.map (fun c => mv.any (fun p => p.1 == c))).getD false

/-- A request of the context follows the cores that moved (R337, R356): it goes on from its source. -/
def Req.follow (mv : List (Nat × Nat)) (ctx : Nat) (r : Req) : Req :=
  if r.ctx = ctx then
    let src := match r.src with
      | .core n => .core (movedTo mv n)
      | x => x
    { r with src := src, place := { r.place with home := r.place.home.moved mv }, parked := r.parked || r.place.home.wasAway mv }
  else r

/-- So does a partial cell in a reduction unit. -/
def Partial.follow (mv : List (Nat × Nat)) (ctx : Nat) (p : Partial) : Partial :=
  if p.ctx = ctx then { p with place := { p.place with home := p.place.home.moved mv } } else p

/-- A captured page of a vault or a scratchpad follows them (R356). -/
def Page.follow (mv : List (Nat × Nat)) (p : Page) : Page :=
  if leafTT p.leaf.toNat = 1 || leafTT p.leaf.toNat = 2 then { p with core := movedTo mv p.core } else p

/-- So do a chain's command, a packet, and the loads that a core has logged. -/
def Delivery.follow (mv : List (Nat × Nat)) (d : Delivery) : Delivery :=
  { d with
    bar := d.bar.map (fun b => (movedTo mv b.1, b.2)), pages := d.pages.map (Page.follow mv)
    parked := d.parked || (d.bar.map (fun b => mv.any (fun p => p.1 == b.1))).getD false }
def Packet.follow (mv : List (Nat × Nat)) (k : Packet) : Packet := { k with pages := k.pages.map (Page.follow mv) }
def LoadDesc.follow (mv : List (Nat × Nat)) (d : LoadDesc) : LoadDesc := { d with pages := d.pages.map (Page.follow mv) }
def Core.follow (mv : List (Nat × Nat)) (c : Core) : Core :=
  { c with runLog := c.runLog.map (LoadDesc.follow mv), inLog := c.inLog.map (LoadDesc.follow mv) }

/-- Requests held at their source are sent, if nothing holds them any more. -/
def sendWaiting (s : State) : State :=
  { s with reqs := s.reqs.map (fun r => if r.st == .source then { r with st := sentSt s r.src r.ctx r.place r.id } else r) }

/-- The relocation map after the cores of a kernel have moved (R356). -/
def relocate (x : Ctx) (mv : List (Nat × Nat)) : List (Nat × Nat) :=
  ((upto 1024).map (fun d => (d, movedTo mv (resolve x d)))).filter (fun p => p.1 != p.2)

/-- What a context has under way follows the cores that moved. -/
def followAll (mv : List (Nat × Nat)) (x : Nat) (s : State) : State :=
  let s := mapCtx s x (fun c => { c with
    reloc := relocate c mv, queues := c.queues.map (fun q => { q with packets := q.packets.map (Packet.follow mv) }) })
  { s with
    cores := tabMap (fun _ c => if c.kernel.isSome && ctxNo s c == x then c.follow mv else c) s.cores
    kernels := tabMap (fun _ k => if k.ctx = x then { k with saved := k.saved.map (fun v => (v.1, v.2.follow mv)) } else k) s.kernels
    reqs := s.reqs.map (Req.follow mv x)
    partials := s.partials.map (Partial.follow mv x)
    deliveries := s.deliveries.map (fun d => if d.ctx = x then d.follow mv else d) }

/-- A saved core comes back on a core: what describes the hardware is that of the new place (R249, R301, R363, R379, R413). -/
def Core.settle (saved now : Core) (kn g i : Nat) : Core :=
  { saved with
    kernel := some kn, group := g, cidx := i, suspect := now.suspect, chkcnt := now.chkcnt, seccnt := now.seccnt
    uecnt := now.uecnt, walks := now.walks, pulls := now.pulls, replays := now.replays, gateclk := now.gateclk
    lbpclk := now.lbpclk }

/-- The groups of a kernel placed onto runs of cores, one after another. -/
def placeGroups (kn : Nat) (saved : List SavedCore) (l : List ((Nat × Group) × (Nat × List Nat))) (s : State) : State :=
  l.foldl (fun s p =>
    let g := p.1.1
    let s := ((p.1.2.cores.zip p.2.2).zip (upto p.2.2.length)).foldl (fun s q =>
      match saved.find? (fun v => v.1 == q.1.1) with
      | some v => setCore s q.1.2 (v.2.settle (coreAt s q.1.2) kn g q.2)
      | none => s) s
    mapGroup s kn g (fun gr => { gr with
      st := gr.back, bay := p.2.1, cores := p.2.2
      step := match gr.step with
        | .waiting l => .waiting (l.map (movedTo (p.1.2.cores.zip p.2.2)))
        | x => x })) s

/-- The saved cores that no live group holds, and the cores of the new bays that none takes: the former follow, in order, as
far as there are cores (R118, R356). -/
def restMoves (k : Kernel) (bays taken : List Nat) : List (Nat × Nat) :=
  ((k.saved.map Prod.fst).filter (fun n => !k.cores.contains n)).zip ((coresOfBays bays).filter (fun n => !taken.contains n))

/-- Those cores restored at their new places. -/
def placeRest (kn : Nat) (saved : List SavedCore) (mv : List (Nat × Nat)) (s : State) : State :=
  mv.foldl (fun s m =>
    match saved.find? (fun v => v.1 == m.1) with
    | some v => setCore s m.2 (v.2.settle (coreAt s m.2) kn v.2.group v.2.cidx)
    | none => s) s

/-- A launch of a higher priority waits for bays, or one is being admitted (R130, R172). -/
def outranked (s : State) (k : Kernel) : Bool :=
  s.ctxs.any (fun p => p.2.st != .suspended && p.2.queues.any (fun q =>
    (q.claims && decide (q.prio < k.prio)) || q.packets.any (fun p => p.kind == 1 && !p.begun && p.fin.isNone)))

/-- The bays are free, granted, and hold enough groups, and the context is not being suspended (R116, R174). -/
def mayResume (s : State) (k : Kernel) (bays : List Nat) : Bool :=
  k.st == .preempted && !outranked s k && (ctxAt s k.ctx).st == .active && s.ctxpend != some k.ctx && rising bays &&
    bays.all (fun b => decide (b < 64) && (ctxAt s k.ctx).grant.getLsbD b && bayFree s b) &&
    decide ((if k.lr.nest then k.liveGroups.length else k.lr.gang) ≤ (formGroups s (groupSize k) bays).length) &&
    (!k.lr.nest || (decide (k.minBays ≤ bays.length) && decide (bays.length ≤ k.bays.length)))

/-- KERNEL_RESUME (R174): every saved group is restored whole on cores of the granted bays; restarted phases replay. -/
def evKernelResume (kn : Nat) (bays : List Nat) (s : State) : State :=
  let k := kernelAt s kn
  if mayResume s k bays then
    let l := placements k bays (formGroups s (groupSize k) bays)
    let mine := (l.map (fun p => p.1.2.cores.zip p.2.2)).flatten
    let rest := restMoves k bays (mine.map Prod.snd)
    let mv := mine ++ rest
    let s := { s with cores := (coresOfBays bays).foldl (fun cs n =>
        tabPut cs n ((coreAt s n).renew k.start kn 0 0)) s.cores }
    let s := placeRest kn k.saved rest (placeGroups kn k.saved l s)
    let s := mapKernel s kn (fun k => { k with
      st := .running, bays := bays, saved := [], inSave := false, walkers := if k.lr.nest then moveWalkers k.walkers bays (l.map (fun p => p.2.1)) else []
      groups := tabMap (fun _ g => if g.st == .retired then { g with cores := g.cores.map (movedTo mv) } else g) k.groups })
    let s := followAll mv k.ctx s
    let s := sendWaiting { s with
      links := tabMap (fun _ l => if l.claim == some kn then
          { l with tx := l.tx.map (fun m => { m with sender := m.sender.map (movedTo mv) }) } else l) s.links }
    l.foldl (fun s p => if (groupAt s kn p.1.1).ph.inside then p.2.2.foldl replayLog s else s) s
  else s
/-- KERNEL_RESUME, as an event. -/
def execKernelResume (k : Nat) (bays : List Nat) (s : State) : Host.Outcome State Fault Refusal :=
  .next (evKernelResume k bays s)

/-! ## The end (R147, R306) -/

/-- KERNEL_FINISH (R147): every group has retired and, of a nest kernel, every ordinal has committed. -/
def evKernelFinish (kn : Nat) (s : State) : State :=
  let k := kernelAt s kn
  if k.st == .running && k.groups.all (fun p => p.2.st == .retired) &&
      (!k.lr.nest || k.luo == k.lr.first + k.lr.count) then
    mapKernel s kn (fun k => { k with st := .finishing })
  else s
/-- KERNEL_FINISH, as an event. -/
def execKernelFinish (k : Nat) (s : State) : Host.Outcome State Fault Refusal := .next (evKernelFinish k s)

/-- The kernel digest: over its pairs in ascending order (R306). -/
def kernelDigest (k : Kernel) : W64 :=
  crc64 0 (k.digests.map (fun p => leBytes 8 p.1 ++ leBytes 8 p.2.toNat)).flatten

/-- A write, or another request that leaves something at its home, of a kernel's cores has not been accepted there. -/
def writesAway (s : State) (kn : Nat) : Bool := s.reqs.any (fun r => r.waiting && !r.op.onlyReads && r.kn == some kn)

/-- KERNEL_RETIRE (R147, R134): the outstanding writes of its cores have been accepted, and the checks on those that a dissolved group
has freed are done (R146); the digest is final, the bays are free, and the packet finishes with status OK. -/
def evKernelRetire (kn : Nat) (s : State) : State :=
  let k := kernelAt s kn
  if k.st == .finishing && !writesAway s kn && restIdle s kn then
    let s := dropClaims s kn
    let s := mapKernel s kn (fun k => { k with st := .retired, bays := [] })
    let s : State := { s with cores := tabMap (fun _ c => if c.kernel == some kn then c.vacate else c) s.cores }
    let s := finishPacket s k.ctx k.queue k.pk 0 (kernelDigest k) k.cancels
    if (ctxAt s k.ctx).st == .active && s.kernels.all (fun p => p.2.ctx != k.ctx || !p.2.st.alive) then
      mapCtx s k.ctx (fun x => { x with st := .idle }) else s
  else s
/-- KERNEL_RETIRE, as an event. -/
def execKernelRetire (k : Nat) (s : State) : Host.Outcome State Fault Refusal := .next (evKernelRetire k s)

end Sys2Proof.Machine
end

