-- ==== Sys2Proof/Machine/Context.lean ====
section
/-! DEFINITION. Contexts (05_context R113-R119, R425): the commands of CTXCMD. A command that the state of the context
does not allow completes with status 1; one written while CTXSTAT shows busy is ignored. -/

namespace Sys2Proof.Machine

/-- CTXSTAT: status and offset of the rejected byte (R113). -/
def ctxDone (s : State) (status off : Nat) : State := { s with ctxstat := n64 (16 * status + 65536 * off) }

/-- A power of two within bounds. -/
def powerIn (lo hi n : Nat) : Bool := decide (lo ≤ n) && decide (n ≤ hi) && n == 2 ^ n.log2

/-! ## The descriptor (R114, R115) -/

/-- A field that breaks its limit, or a reserved one that is not zero: its offset and the status. -/
def broken (bad : Bool) (off status : Nat) : List (Nat × Nat) := if bad then [(off, status)] else []

/-- Base, cells, format and anchor of window `j` of a descriptor. -/
def descWindow (d : List Byte) (j : Nat) : Window :=
  let o := 0x40 + 16 * j
  { base := at_ d o 8 % 2 ^ 60 / 32 * 32, size := at_ d (o + 8) 4, fmt := at_ d (o + 13) 1
    x := BitVec.ofNat 16 (at_ d (o + 14) 2) }

/-- A window with a format and cells. DESIGN CHOICE (the notes' log entry 76): one of a format that the create rejects counts as no
enabled window where overlaps are looked for; the spec does not say. -/
def Window.enabled (w : Window) : Bool := (w.fmt == 8 || w.fmt == 9) && w.size != 0

/-- Two enabled windows that share a cell. -/
def overlap (a b : Window) : Bool :=
  a.enabled && b.enabled && decide (a.base < b.base + 32 * b.size) && decide (b.base < a.base + 32 * a.size)

/-- The offences of window `j`. -/
def windowBad (d : List Byte) (j : Nat) : List (Nat × Nat) :=
  let o := 0x40 + 16 * j
  let w := descWindow d j
  let on := w.fmt != 0
  broken (at_ d o 1 % 32 != 0 || (upto j).any (fun i => overlap (descWindow d i) w)) o 2 ++
    broken (at_ d (o + 7) 1 / 16 != 0) (o + 7) 3 ++ broken (on && w.size == 0) (o + 8) 2 ++
    broken (at_ d (o + 12) 1 != 0) (o + 12) 3 ++ broken (on && w.fmt != 8 && w.fmt != 9) (o + 13) 2 ++
    broken (w.x == 0x8000) (o + 14) 2

/-- A limit of R124 is broken in an entry of the queue table. -/
def entryBad (e : List Byte) : Bool :=
  at_ e 0 8 % 64 != 0 || !(decide (4 ≤ at_ e 8 1) && decide (at_ e 8 1 ≤ 16)) || decide (3 < at_ e 9 1) ||
    at_ e 10 1 == 0 || decide (4 ≤ at_ e 11 1) || decide (2047 < at_ e 12 2) || at_ e 14 2 != 0 ||
    at_ e 0x10 8 % 32 != 0 || !(decide (4 ≤ at_ e 0x18 1) && decide (at_ e 0x18 1 ≤ 16)) || at_ e 0x19 7 != 0

/-- The offences of a descriptor; `table` are the entries of its queue table. -/
def descBad (d : List Byte) (table : List (List Byte)) : List (Nat × Nat) :=
  broken (at_ d 0 8 % 4096 != 0) 0 2 ++ broken (at_ d 8 8 == 0) 8 2 ++ broken (at_ d 0x14 1 % 2 == 0) 0x14 2 ++
    broken (decide (2 < at_ d 0x15 1)) 0x15 2 ++
    broken (at_ d 0x16 2 == 0 || decide (1024 < at_ d 0x16 2)) 0x16 2 ++
    broken (at_ d 0x18 8 % 64 != 0 || table.any entryBad) 0x18 2 ++ broken (at_ d 0x20 8 % 4096 != 0) 0x20 2 ++
    broken (!powerIn 64 65536 (at_ d 0x28 4)) 0x28 2 ++ broken (!powerIn 64 65536 (at_ d 0x2C 4)) 0x2C 2 ++
    broken (at_ d 0x30 8 % 4096 != 0) 0x30 2 ++ broken (at_ d 0x38 8 % 65536 != 0) 0x38 2 ++
    ((upto 8).map (windowBad d)).flatten ++ ((upto 64).map (fun i => broken (at_ d (0xC0 + i) 1 != 0) (0xC0 + i) 3)).flatten

/-- The offence of the lowest offset. -/
def lowest : List (Nat × Nat) → Option (Nat × Nat)
  | [] => none
  | p :: r => match lowest r with
    | some q => if q.1 < p.1 then some q else some p
    | none => some p

/-! ## Queues of a new context (R124, R128) -/

/-- A queue with unread packets is READY (R128). -/
def Queue.wake (q : Queue) : Queue := if q.st == .idle && q.qtail != q.qcons then { q with st := .ready } else q

/-- The queue of an entry at an address. -/
def queueOf (at_e : Nat) (e : List Byte) : Queue :=
  { ring := at_ e 0 8, lg := at_ e 8 1, prio := at_ e 9 1, weight := at_ e 10 1, device := bit1 (at_ e 11 1) 1
    vector := at_ e 12 2, cring := at_ e 0x10 8, clg := at_ e 0x18 1, entry := at_e, qtail := 0, qcons := 0, qcomp := 0
    cprod := 0, st := if bit1 (at_ e 11 1) 0 then .idle else .off, age := 0, turn := 0, level := 0xFF, claims := false, poll := .idle
    packets := [], comps := [] }

/-- The context of a descriptor. -/
def ctxOf (d : List Byte) (qs : List Queue) : Ctx :=
  { Ctx.reset with
    st := .idle, root := at_ d 0 8, grant := n64 (at_ d 8 8), portMask := BitVec.ofNat 16 (at_ d 0x10 2)
    stackMask := BitVec.ofNat 16 (at_ d 0x12 2), profMask := BitVec.ofNat 8 (at_ d 0x14 1), level := at_ d 0x15 1
    evBase := at_ d 0x20 8, evSize := at_ d 0x28 4, erSize := at_ d 0x2C 4, erBase := at_ d 0x30 8
    saveBase := at_ d 0x38 8, windows := (upto 8).map (descWindow d), queues := qs }

/-- The cells of enabled windows in pages that are mapped, initialised 64 KiB by 64 KiB, each page with its first walk (R115). DESIGN
CHOICE (the notes' log entry 82): the create does not wait for the reads of those walks. -/
def initWindow (n : Nat) (s : State) (w : Window) : State :=
  if w.fmt = 0 then s else
    let lo := w.base / 65536
    (upto ((w.base + 32 * w.size + 65535) / 65536 - lo)).foldl (fun s i =>
      let va := 65536 * (lo + i)
      if (ctxAt s n).winInit.contains va then s else (sendWalk (.part n) n none (s, []) va).1) s

/-- CTX_CREATE (R113-R116): the descriptor at CTXDESC is read and checked once. -/
def evCtxCreate (n : Nat) (s : State) : State :=
  if s.ctxpend.isSome then s
  else if (ctxAt s n).st != .free then ctxDone s 1 0
  else
    let d := s.hostMem.readN s.ctxdesc.toNat 256
    let count := min (at_ d 0x16 2) 1024
    let entries := (upto count).map (fun i => (at_ d 0x18 8 + 64 * i, s.hostMem.readN (at_ d 0x18 8 + 64 * i) 64))
    match lowest (descBad d (entries.map Prod.snd)) with
    | some (off, st) => ctxDone s st off
    | none =>
      let s := setCtx s n (ctxOf d (entries.map (fun e => queueOf e.1 e.2)))
      ctxDone ((ctxAt s n).windows.foldl (initWindow n) s) 0 0
/-- CTX_CREATE, as an event. -/
def execCtxCreate (ctx : Nat) (s : State) : Host.Outcome State Fault Refusal := .next (evCtxCreate ctx s)

/-! ## Suspend and resume (R116-R119) -/

/-- Bytes of the save area (R119). -/
def saveBytes (x : Ctx) : Nat :=
  56 * 2 ^ 20 * ((upto 64).filter (fun b => x.grant.getLsbD b)).length + 65536

/-! ### The save area (R118, R119) -/

/-- The bytes that a saved core's record holds, in the order of R118: scratchpad, vault, bundle and literal stores, vector
registers, the words of the accumulators as they stand (R173, R264), and the core state block, whose layout the spec does not give (free values, the notes' log entry 8).
`o` is a multiple of 64 KiB below 3,584 KiB. -/
def coreChunk (c : Core) (ctr o : Nat) : List Byte :=
  let kib (n : Nat) : Nat := 1024 * n
  let lits := (upto 4096).flatMap (fun i => leBytes 8 (tabGet 0 c.lit i).toNat)
  let vecs := (upto 16).flatMap (fun i => leBytes 4096 (c.rv .a i).toNat) ++ (upto 16).flatMap (fun i => leBytes 4096 (c.rv .b i).toNat)
  let accs := (upto 8192).flatMap (fun i => accBytes (tabGet AccEl.zero c.acc i))
  if o < kib 1024 then c.sp.readN o 65536
  else if o < kib 3072 then c.vault.readN (o - kib 1024) 65536
  else if o < kib 3200 then c.bundle.readN (o - kib 3072) 65536
  else ((lits ++ vecs ++ accs ++ freeBytes (kib 16) (ctr + 212992)).drop (o - kib 3200)).take 65536

/-- A kernel of a context that held bays at the suspend, and has been pre-empted for it (R119). -/
def Kernel.saves (n : Nat) (k : Kernel) : Bool := k.ctx == n && k.st == .preempted && k.inSave

/-- The bays that held kernels of a context at the suspend, rising. -/
def savedBays (s : State) (n : Nat) : List Nat :=
  (upto 64).filter (fun b => s.kernels.any (fun k => k.2.saves n && k.2.bays.contains b))

/-- The saved state of a core of those bays. -/
def savedCore (s : State) (n core : Nat) : Core :=
  ((s.kernels.findSome? (fun k =>
    if k.2.saves n && k.2.bays.contains (bayOf core) then
      (k.2.saved.find? (fun v => v.1 == core)).map Prod.snd else none))).getD (coreAt s core)

/-- Stretches of 64 KiB that the save area takes for the bays saved: one for the context block, 896 for each bay (R119). -/
def saveChunks (s : State) (n : Nat) : Nat := 1 + 896 * (savedBays s n).length

/-- The bytes of a stretch: the context block, whose layout the spec does not give (free values), or 64 KiB of a core's record. -/
def saveChunk (s : State) (n i : Nat) : List Byte :=
  if i = 0 then freeBytes 65536 s.freeCtr
  else
    let b := (savedBays s n).getD ((i - 1) / 896) 0
    coreChunk (savedCore s n (16 * b + (i - 1) % 896 / 56)) s.freeCtr ((i - 1) % 56 * 65536)

/-- A stretch leaves for its homes; of a line that does not translate nothing is written. -/
def saveStep (s : State) (n : Nat) : State :=
  let i := s.savePos
  let t := sendSave n ((ctxAt s n).saveBase + 65536 * i) (saveChunk s n i) s
  { t with savePos := i + 1, freeCtr := t.freeCtr + 262144 }

/-- A LAUNCH of a context has been consumed and its kernel is not there yet. -/
def launchComing (s : State) (n : Nat) : Bool :=
  (ctxAt s n).queues.any (fun q => q.packets.any (fun p => p.kind == 1 && !p.begun && p.fin.isNone))

/-- The kernels of a context that hold bays are asked to be pre-empted, and belong to what the suspend saves (R119, R172). -/
def askPreempt (s : State) (n : Nat) : State :=
  { s with kernels := tabMap (fun _ k =>
      if k.ctx = n then
        let on := k.st == .loading || k.st == .running
        { k with preempt := k.preempt || on, inSave := on }
      else k) s.kernels }

/-- A suspended context's head packets are read anew when it comes back. -/
def dropHeads (s : State) (n : Nat) : State :=
  dropFetches s (fun o => match o with
    | .head c _ => c == n
    | _ => false)

/-- The suspend that is under way goes on: once no kernel of the context holds bays, the save area is written, 64 KiB at a time,
each when the one before is at its homes, and then the context is SUSPENDED. When the context has been killed meanwhile the save stops, and what it has written stays
(R116, R117). DESIGN CHOICE (the notes' log entry 64): of a suspend that a kill has beaten CTXSTAT shows status 1 and offset 0. -/
def endSuspend (s : State) (n : Nat) : State :=
  if (ctxAt s n).st == .killed || (ctxAt s n).st == .free then ctxDone { s with ctxpend := none, savePos := 0 } 1 0
  else if s.kernels.all (fun p => p.2.ctx != n || !p.2.st.holds) && !launchComing s n then
    if partWriting s n then s
    else if s.savePos < saveChunks s n then saveStep s n
    else ctxDone { mapCtx (dropHeads s n) n (fun x => { x with st := .suspended }) with ctxpend := none, savePos := 0 } 0 0
  else s

/-- The probe of a suspend's save area that is under way. -/
def probeOf (s : State) (n : Nat) : Option Fetch := s.fetches.find? (fun f => f.own == .probe n)

/-- A suspend whose probe has passed saves the context. -/
def suspending (s : State) (n : Nat) : Bool := s.ctxpend == some n && (probeOf s n).isNone

/-- A suspend goes on: with the walk of its probe, whose fault ends it with status 2, then with the kernels and the saving. -/
def goSuspend (s : State) (n : Nat) : State :=
  match probeOf s n with
  | none => endSuspend s n
  | some f =>
    if !allServed s f.ids then s
    else
      let s := dropFetches s (· == .probe n)
      if f.fault.isSome then ctxDone { s with ctxpend := none } 2 0x38 else askPreempt s n

/-- CTX_SUSPEND (R116, R119): the last byte of the save area is probed, the kernels are pre-empted, and the state is saved; the
same event goes on with the saving and ends it. -/
def evCtxSuspend (n : Nat) (s : State) : State :=
  match s.ctxpend with
  | some m => if m = n then goSuspend s n else s
  | none =>
    let x := ctxAt s n
    if x.st != .idle && x.st != .active then ctxDone s 1 0
    else startWalk (.probe n) n (x.saveBase + saveBytes x - 1) .write { s with ctxpend := some n, ctxstat := 1, savePos := 0 }
/-- CTX_SUSPEND, as an event. -/
def execCtxSuspend (ctx : Nat) (s : State) : Host.Outcome State Fault Refusal := .next (evCtxSuspend ctx s)

/-- CTX_RESUME (R116): the context is ACTIVE when a kernel of it was saved, and those come back with KERNEL_RESUME; its
queues are read again (R117). -/
def evCtxResume (n : Nat) (s : State) : State :=
  if s.ctxpend.isSome then s
  else if (ctxAt s n).st != .suspended then ctxDone s 1 0
  else
    let any := s.kernels.any (fun p => p.2.ctx == n && p.2.st.alive)
    ctxDone (mapCtx s n (fun x => { x with
      st := if any then .active else .idle, queues := x.queues.map Queue.wake })) 0 0
/-- CTX_RESUME, as an event. -/
def execCtxResume (ctx : Nat) (s : State) : Host.Outcome State Fault Refusal := .next (evCtxResume ctx s)

/-! ## Kill and destroy (R116, R425) -/

/-- CTX_KILL (R116, R425): cause 0x0100. A kill that arrives while a suspend is saving wins, and ends the suspend
(R117). -/
def evCtxKill (n : Nat) (s : State) : State :=
  match s.ctxpend with
  | some m => if m = n && (ctxAt s n).live then endSuspend (killCtx s n 0x0100 0 noCore none allOnes64) n else s
  | none => if (ctxAt s n).live then ctxDone (killCtx s n 0x0100 0 noCore none allOnes64) 0 0 else ctxDone s 1 0
/-- CTX_KILL, as an event. -/
def execCtxKill (ctx : Nat) (s : State) : Host.Outcome State Fault Refusal := .next (evCtxKill ctx s)

/-- CTX_DESTROY (R116): the number is FREE, and its queues are OFF. DESIGN CHOICE (the notes' log entry 85): packets other than LAUNCHes
that an IDLE context still runs take no further step and never complete; the spec does not say what becomes of them. -/
def evCtxDestroy (n : Nat) (s : State) : State :=
  if s.ctxpend.isSome then s
  else
    let x := ctxAt s n
    if x.st == .killed || x.st == .idle then
      ctxDone (setCtx (ckptDead (dropHeads s n) n) n { x with st := .free, queues := x.queues.map (fun q => { q with st := .off }), reloc := [] }) 0 0
    else ctxDone s 1 0
/-- CTX_DESTROY, as an event. -/
def execCtxDestroy (ctx : Nat) (s : State) : Host.Outcome State Fault Refusal := .next (evCtxDestroy ctx s)

/-! ## Doorbells and QCTL (R126-R128) -/

/-- A dropped write is counted (R19). -/
def dropWrite (s : State) : State := { s with dbdrop := s.dbdrop + 1 }

/-- The sequence number that a doorbell announces, if any lies in its window (R126). -/
def tailFor (q : Queue) (d : Nat) : Option Nat :=
  let step := (d + 2 ^ 32 - q.qtail % 2 ^ 32) % 2 ^ 32
  if step ≤ (q.qcons + 2 ^ q.lg + 2 ^ 48 - q.qtail) % 2 ^ 48 then some ((q.qtail + step) % 2 ^ 48) else none

/-- DOORBELL_WRITE (R18, R22, R117, R126). DESIGN CHOICE (the notes' log entry 56): a doorbell that R22 drops because BOOTSTAT
has not read 1 yet is counted in DBDROP like one of a context that is not live. DESIGN CHOICE (log entry 72): a write rings the doorbell
of four bytes at its offset with the low 32 bits of its value, so that an aligned write of eight bytes rings the even queue's alone. -/
def evDoorbellWrite (off : Nat) (v : W64) (s : State) : State :=
  let n := (off - 0x1000000) / 4096
  let i := off % 4096 / 4
  let x := ctxAt s n
  if !s.listed || !x.live then dropWrite s
  else match x.queues[i]? with
    | none => dropWrite s
    | some q =>
      if q.device then dropWrite s
      else match tailFor q (v.toNat % 2 ^ 32) with
        | none => dropWrite s
        | some t => mapQueue s n i (fun q =>
            let q := { q with qtail := t }
            if x.st == .suspended then q else q.wake)
/-- DOORBELL_WRITE, as an event. -/
def execDoorbellWrite (off : Nat) (v : W64) (s : State) : Host.Outcome State Fault Refusal := .next (evDoorbellWrite off v s)

/-- Context and queue that QSEL selects. -/
def selCtx (s : State) : Nat := fld s.qsel.toNat 11 0
def selQueue (s : State) : Nat := fld s.qsel.toNat 21 12

/-- QUEUE_ENABLE (R128): from OFF; a queue of a KILLED context too, which consumes nothing. -/
def evQueueEnable (s : State) : State :=
  let x := ctxAt s (selCtx s)
  if x.st != .free then
    mapQueue s (selCtx s) (selQueue s) (fun q =>
      if q.st == .off then
        let q := { q with st := .idle, poll := .idle }
        if x.st == .suspended then q else q.wake
      else q)
  else s
/-- QUEUE_ENABLE, as an event. -/
def execQueueEnable (s : State) : Host.Outcome State Fault Refusal := .next (evQueueEnable s)

/-- What has been read of a queue's head packet is given up: the packet may be another when the queue runs again (R127). -/
def dropHead (s : State) (n q : Nat) : State := dropFetches s (· == .head n q)

/-- QUEUE_DISABLE (R128): consumed packets run on; a queue of a KILLED context goes OFF too. -/
def evQueueDisable (s : State) : State :=
  if (ctxAt s (selCtx s)).st != .free then
    mapQueue (dropHead s (selCtx s) (selQueue s)) (selCtx s) (selQueue s) (fun q =>
      { q with st := .off, claims := false, poll := .idle })
  else s
/-- QUEUE_DISABLE, as an event. -/
def execQueueDisable (s : State) : Host.Outcome State Fault Refusal := .next (evQueueDisable s)

/-- QUEUE_RESET (R127, R128): in OFF and HALTED, in every context that is not FREE. DESIGN CHOICE (the notes' log entries 62 and
63): neither a reset nor a create writes the status area, which keeps its bytes until the next consumption or completion; and
consumed packets that still run when their queue is reset complete with the numbers that they had, which count no more toward QCOMP. -/
def evQueueReset (base : Nat) (s : State) : State :=
  if (ctxAt s (selCtx s)).st != .free then
    mapQueue (dropHead s (selCtx s) (selQueue s)) (selCtx s) (selQueue s) (fun q =>
      if q.st == .off || q.st == .halted then
        let b := base % 2 ^ 48
        { q with
          st := .off, qtail := b, qcons := b, qcomp := b, comps := [], poll := .idle
          packets := q.packets.map (fun p => { p with old := true }) }
      else q)
  else s
/-- QUEUE_RESET, as an event. -/
def execQueueReset (base : Nat) (s : State) : Host.Outcome State Fault Refusal := .next (evQueueReset base s)

end Sys2Proof.Machine
end

