-- ==== Sys2Proof/Machine/Packet.lean ====
section
/-! DEFINITION. What the part checks of a packet (06_queue R131, R132; 07_kernel R138-R140): header, bodies, launch
records and preset tables, and the bays that a launch is given (R143, R144). -/

namespace Sys2Proof.Machine

/-! ## Packets (R131, R132) -/

/-- SEQ, KIND and the flags of a header. -/
def pkSeq (p : List Byte) : Nat := at_ p 0 6
def pkKind (p : List Byte) : Nat := at_ p 6 1
def pkB (p : List Byte) : Bool := bit1 (at_ p 7 1) 0
def pkI (p : List Byte) : Bool := bit1 (at_ p 7 1) 1

/-- SIGNAL, CHECKPOINT and a draining MODE imply B. -/
def impliesB (p : List Byte) : Bool :=
  pkKind p == 3 || pkKind p == 6 || (pkKind p == 5 && bit1 (at_ p 9 1) 0)

/-- Offsets of the bytes from `a` to below `b` that are not zero. -/
def nonzero (p : List Byte) (a b : Nat) : List Nat := ((upto (b - a)).map (a + ·)).filter (fun i => at_ p i 1 != 0)

/-- A field of the packet that breaks its limit. -/
def offs (bad : Bool) (off : Nat) : List Nat := if bad then [off] else []

/-- Offsets of the offences of a body. -/
def bodyBad (p : List Byte) : List Nat :=
  match pkKind p with
  | 0 => nonzero p 8 64
  | 1 =>
    let lo := at_ p 0x18 2
    let hi := at_ p 0x1A 2
    offs (at_ p 8 8 % 256 != 0) 8 ++ offs (lo == 0 || decide (64 < lo)) 0x18 ++
      offs (decide (hi < lo) || decide (64 < hi)) 0x1A ++ nonzero p 0x1C 64
  | 2 => offs (at_ p 0x18 8 == 0 || decide (2 ^ 40 < at_ p 0x18 8)) 0x18 ++ nonzero p 0x28 64
  | 3 => offs (at_ p 8 8 % 8 != 0) 8 ++ offs (decide (1 < at_ p 0x18 1)) 0x18 ++ nonzero p 0x19 64
  | 4 => offs (at_ p 8 8 % 8 != 0) 8 ++ nonzero p 0x18 64
  | 5 =>
    let l := at_ p 8 1
    offs (decide (2 < l) && l != 0xFF) 8 ++ offs (decide (1 < at_ p 9 1)) 9 ++ nonzero p 0x0A 64
  | 6 => nonzero p 0x10 64
  | _ =>
    offs (at_ p 8 8 != 1 && at_ p 8 8 != 2) 8 ++ offs (at_ p 0x10 8 % 64 != 0) 0x10 ++ nonzero p 0x18 64

/-- The least of a list of offsets. -/
def least : List Nat → Option Nat
  | [] => none
  | a :: r => some (r.foldl min a)

/-! ## Launch records (R138, R139) -/

/-- The fields of a record. -/
def recOf (r : List Byte) : LaunchRec :=
  { image := at_ r 0 8, entry := at_ r 8 4, lpc0 := at_ r 0x0C 2, nest := at_ r 0x0E 1 == 1, gsize := at_ r 0x0F 1
    level := at_ r 0x10 1, nfields := at_ r 0x11 1, order := at_ r 0x12 1, kdens := at_ r 0x13 1, slack := at_ r 0x14 4
    w := (upto 6).map (fun j => at_ r (0x18 + j) 1), gang := at_ r 0x1E 2, first := at_ r 0x20 8, count := at_ r 0x28 8
    ext := (upto 6).map (fun j => at_ r (0x30 + 8 * j) 8), presets := at_ r 0x60 8, handles := at_ r 0x68 8
    arg := (upto 8).map (fun j => n64 (at_ r (0x80 + 8 * j) 8)), digest := BitVec.ofNat 256 (at_ r 0xC0 32) }

/-- The width at which the running sum first exceeds 64. -/
def widthOver (lr : LaunchRec) : List Nat :=
  match (upto 6).find? (fun j => decide (64 < (lr.w.take (j + 1)).foldl (· + ·) 0)) with
  | some j => [0x18 + j]
  | none => []

/-- The product of the extents in use. -/
def items (lr : LaunchRec) : Nat := (lr.ext.take lr.nfields).foldl (· * ·) 1

/-- Offsets of the offences of a record, but for its digest's, which the image decides. -/
def recBad (r : List Byte) (maxBays : Nat) : List Nat :=
  let lr := recOf r
  let n := lr.nfields
  let perField (j : Nat) : List Nat :=
    let w := lr.w.getD j 0
    let e := lr.ext.getD j 0
    if j < n then
      offs (w == 0 || decide (64 < w)) (0x18 + j) ++ offs (e == 0 || decide (2 ^ min w 64 < e)) (0x30 + 8 * j)
    else offs (w != 0) (0x18 + j) ++ offs (e != 0) (0x30 + 8 * j)
  offs (lr.image % 64 != 0) 0 ++ offs (lr.entry != 0xFFFFFFFF && decide (0x20000 ≤ lr.entry)) 8 ++
    offs (decide (4095 < lr.lpc0)) 0x0C ++ offs (decide (1 < at_ r 0x0E 1)) 0x0E ++ offs (decide (4 < lr.gsize)) 0x0F ++
    offs (decide (2 < lr.level) && lr.level != 0xFF || lr.level == 2 && !lr.nest) 0x10 ++
    offs (if lr.nest then n == 0 || decide (6 < n) else n != 0) 0x11 ++
    offs (lr.order / 2 ^ min n 6 != 0) 0x12 ++ offs (decide (15 < lr.kdens)) 0x13 ++
    ((upto 6).map perField).flatten ++ widthOver lr ++
    offs (if lr.nest then lr.gang != 0 else lr.gang == 0 || decide (16 * maxBays / 2 ^ lr.gsize < lr.gang)) 0x1E ++
    offs (!lr.nest && lr.first != 0) 0x20 ++
    offs (if lr.nest then lr.count == 0 || decide (items lr < lr.count) || decide (2 ^ 64 < lr.first + lr.count)
      else lr.count != 0) 0x28 ++
    offs (lr.presets % 16 != 0) 0x60 ++ offs (lr.handles % 128 != 0) 0x68 ++ nonzero r 0x70 0x80 ++
    nonzero r 0xE0 0x100

/-- Offsets of the offences of a preset table whose entries were read up to its end (R140). -/
def presetBad : Nat → Nat → List Byte → List Nat
  | 0, _, _ => [0xFF0]
  | f + 1, o, bs =>
    let e := bs.take 16
    if leNat e = 0 then [] else
      let k := at_ e 0 1
      let i := at_ e 1 1
      offs (k == 0 || decide (3 < k)) o ++
        offs (if k = 1 then decide (64 ≤ i) else (k == 2 || k == 3) && decide (16 ≤ i)) (o + 1) ++
        (nonzero e 2 8).map (o + ·) ++ presetBad f (o + 16) (bs.drop 16)

/-- What the part finds when it reads a launch record and what the record names. -/
inductive Launchable where
  /-- Malformed, with payload A (R139, R140). -/
  | bad (payload : Nat)
  /-- A translation fault or poison on the way (R147). -/
  | faulty
  | good (lr : LaunchRec)

/-- A preset table read and checked; the payload of an offence. -/
def tableBad (s : State) (own : FetchFor) (x va base : Nat) : Option (List Nat) :=
  (readPresets s own x 256 va).map (fun bs => (presetBad 256 0 bs).map (base + ·))

/-- The lowest offence of a record beside the header of its image, if that could be read: a digest that is not the header's is one
at the digest's offset (R139). -/
def recordOffence (r : List Byte) (maxBays : Nat) (hd : Option (List Byte)) : Option Nat :=
  let wrong := (hd.map (fun h => at_ h 0x40 32 != (recOf r).digest.toNat)).getD false
  least (recBad r maxBays ++ offs wrong 0xC0)

/-- The record at an address, read and checked with the image header and the preset tables. DESIGN CHOICE (the notes' log entry 86): a
fault or poison in the record's table goes before every offence of the tables, an offence of the record's table before a fault or
poison in the image's, and within one table a fault or poison before an offence; the spec gives no order. -/
def readLaunch (s : State) (own : FetchFor) (x va maxBays : Nat) : Launchable :=
  match fetchBytes s own x va 256 with
  | none => .faulty
  | some r =>
    let lr := recOf r
    match recordOffence r maxBays (fetchBytes s own x lr.image 128) with
    | some o => .bad (0x100 + o)
    | none =>
      match fetchBytes s own x lr.image 128 with
      | none => .faulty
      | some hd =>
        match (if lr.presets = 0 then some [] else tableBad s own x lr.presets 0x10000),
            tableBad s own x (lr.image + at_ hd 0x28 4) 0x20000 with
          | some a, some b => match least (a ++ b) with
            | some o => .bad o
            | none => .good lr
          | some a, none => match least a with
            | some o => .bad o
            | none => .faulty
          | none, _ => .faulty

/-- The stretches that this reads, as far as what has been read tells. -/
def launchReads (s : State) (own : FetchFor) (x va : Nat) : List (Nat × Nat) :=
  (va, 256) :: (match fetchBytes s own x va 256 with
    | none => []
    | some r =>
      let lr := recOf r
      (lr.image, 128) :: (match fetchBytes s own x lr.image 128 with
        | none => []
        | some hd => (if lr.presets = 0 then [] else presetReads s own x 256 lr.presets) ++
            presetReads s own x 256 (lr.image + at_ hd 0x28 4)))

/-- The status and payload A of a malformed head packet (R131, R134). DESIGN CHOICE (the notes' log entry 77): of several conditions a
wrong SEQ is reported before a wrong KIND, and that before a field; the spec gives no order. -/
def malformed (s : State) (x qn : Nat) (q : Queue) (p : List Byte) : Option (Nat × Nat) :=
  if pkSeq p != q.qcons then some (2, pkSeq p)
  else if decide (8 ≤ pkKind p) then some (3, pkKind p)
  else match least (offs (decide (4 ≤ at_ p 7 1)) 7 ++ bodyBad p) with
    | some o => some (4, o)
    | none =>
      if pkKind p = 1 then match readLaunch s (.head x qn) x (at_ p 8 8) (at_ p 0x1A 2) with
        | .bad a => some (4, a)
        | _ => none
      else none

/-! ## The bay manager (R143, R144) -/

/-- Groups that a bay can form (R144). -/
def bayGroups (s : State) (gsize b : Nat) : Nat := (unfenced s b).length / 2 ^ gsize

/-- The usable bays of a context's grant, rising. -/
def usableBays (s : State) (n gsize : Nat) : List Nat :=
  (upto 64).filter (fun b => (ctxAt s n).grant.getLsbD b && decide (0 < bayGroups s gsize b))

/-- Groups of a list of bays. -/
def groupsIn (s : State) (gsize : Nat) (l : List Nat) : Nat := (l.map (bayGroups s gsize)).foldl (· + ·) 0

/-- The shortest beginning of a list of bays with enough groups and bays, if it has one. -/
def enough (s : State) (gsize gang least_ : Nat) (l : List Nat) : Option (List Nat) :=
  ((upto (l.length + 1)).find? (fun i => decide (least_ ≤ i) && decide (gang ≤ groupsIn s gsize (l.take i)))).map (l.take ·)

/-- The grant can never hold the kernel. -/
def neverFits (s : State) (n minB maxB : Nat) (lr : LaunchRec) : Bool :=
  let us := usableBays s n lr.gsize
  if lr.nest then decide (us.length < minB) else decide (groupsIn s lr.gsize (us.take maxB) < lr.gang)

/-- The minimum of a launch; that of a timed kernel is raised to what its gang needs of bays without fenced cores (R139). -/
def minOf (lr : LaunchRec) (minB : Nat) : Nat :=
  if lr.nest then minB else max minB ((lr.gang * 2 ^ lr.gsize + 15) / 16)

/-- The bays given among `free` usable ones, of `all` granted ones that are free; a launch that has pre-empted takes its minimum (R143,
R144). A timed one is admitted when at least its minimum of granted bays is free, and is given those that its gang needs (R132, R139,
R144). -/
def choose (s : State) (minB maxB : Nat) (claims : Bool) (lr : LaunchRec) (free : List Nat) (all : Nat) : Option (List Nat) :=
  if lr.nest then (if free.length < minB then none else some (free.take (if claims then minB else maxB)))
  else if all < minOf lr minB then none
  else (enough s lr.gsize lr.gang 0 free).bind (fun l => if l.length ≤ maxB then some l else none)

/-- The granted bays of a context, rising. -/
def grantedBays (s : State) (n : Nat) : List Nat := (upto 64).filter (fun b => (ctxAt s n).grant.getLsbD b)

/-- The bays that the manager gives now. -/
def bayChoice (s : State) (n minB maxB : Nat) (claims : Bool) (lr : LaunchRec) : Option (List Nat) :=
  choose s minB maxB claims lr ((usableBays s n lr.gsize).filter (bayFree s)) ((grantedBays s n).filter (bayFree s)).length

/-- The kernel that holds a bay, when a launch of a priority may pre-empt it (R130, R132). -/
def victimOf (s : State) (prio b : Nat) : Option Nat :=
  (s.kernels.find? (fun p => p.2.st.holds && p.2.bays.contains b && decide (prio < p.2.prio) &&
    (p.2.st == .loading || p.2.st == .running))).map Prod.fst

/-- The bays that a launch lacks, those of the lowest numbers that it may free by pre-emption, usable ones first; none when they would
not do (R132, R143). -/
def lacking (s : State) (n minB maxB prio : Nat) (lr : LaunchRec) : Option (List Nat) :=
  let us := usableBays s n lr.gsize
  let free := us.filter (bayFree s)
  let victims (l : List Nat) : List Nat := l.filter (fun b => !bayFree s b && (victimOf s prio b).isSome)
  let more := victims us
  if lr.nest then (if minB ≤ free.length + more.length then some (more.take (minB - free.length)) else none)
  else
    let all := ((grantedBays s n).filter (bayFree s)).length
    let more := more ++ victims ((grantedBays s n).filter (fun b => !us.contains b))
    ((upto (more.length + 1)).find? (fun i =>
      let l := us.filter (fun b => free.contains b || (more.take i).contains b)
      decide (minOf lr minB ≤ all + i) &&
        ((enough s lr.gsize lr.gang 0 l).map (fun l => decide (l.length ≤ maxB))).getD false)).map (more.take ·)

/-- The kernels that hold them are asked to be pre-empted. -/
def askVictims (s : State) (n minB maxB prio : Nat) (lr : LaunchRec) : Option State :=
  (lacking s n minB maxB prio lr).map (fun l =>
    let ks := l.filterMap (victimOf s prio)
    { s with kernels := tabMap (fun k v => if ks.contains k then { v with preempt := true } else v) s.kernels })

end Sys2Proof.Machine
end

