-- ==== Sys2Proof/Machine/QueueEvents.lean ====
section
/-! DEFINITION. The queues at work (06_queue R125-R135; 07_kernel R139, R143, R144; 22_link R416, R417): arbitration, the
packets, and their completion records. -/

namespace Sys2Proof.Machine

/-! ## The status area (R124) -/

/-- A position written to the status area of a queue. -/
def statusOut (s : State) (n q off v : Nat) : State :=
  { s with hostMem := s.hostMem.writeN ((queueAt s n q).entry + off) (leBytes 8 v) }

/-- The completion ring has no free slot (R129). -/
def ringFull (s : State) (q : Queue) : Bool :=
  (q.cprod + 2 ^ 64 - s.hostMem.readLE (q.entry + 0x38) 8) % 2 ^ 64 == 2 ^ q.clg

/-! ## Acceptance (R129) -/

/-- The head packet of a queue, once it has been read; none where its slot could not be. -/
def headPacket (s : State) (n qn : Nat) : Option (List Byte) :=
  let q := queueAt s n qn
  fetchBytes s (.head n qn) n (ringSlot q q.qcons) 64

/-- Bays for the LAUNCH at the head of a queue: given now, or it is killed at once for want of them or for a load fault. -/
def launchFits (s : State) (n qn : Nat) (q : Queue) (p : List Byte) : Bool :=
  match readLaunch s (.head n qn) n (at_ p 8 8) (at_ p 0x1A 2) with
  | .good lr => neverFits s n (at_ p 0x18 2) (at_ p 0x1A 2) lr || (bayChoice s n (at_ p 0x18 2) (at_ p 0x1A 2) q.claims lr).isSome
  | _ => true

/-- The address and the threshold of a WAIT. -/
def waitVa (p : List Byte) : Nat := at_ p 8 8 % 2 ^ 60
def waitLeast (p : List Byte) : Nat := at_ p 0x10 8

/-- The token that a WAIT names was at or above its threshold when it was read last; where it does not translate, the WAIT ends once its
walk has been made (R132, R351). -/
def waitMet (s : State) (n : Nat) (q : Queue) (p : List Byte) : Bool :=
  match xlate s n (waitVa p) .read with
  | .ok _ => (q.poll.value.map (fun v => decide (waitLeast p ≤ v))).getD false
  | .error _ => q.poll.value.isSome

/-- The read that a queue's WAIT awaits has been lost, or there has been none. -/
def Poll.unasked (s : State) (t : Poll) : Bool :=
  match t with
  | .idle => true
  | .asked id => allServed s [id]
  | .got _ => false

/-- The token is walked to and read at its home when that is due (R132, R365); of one that does not translate the walk alone is
made. -/
def askToken (s : State) (n qn : Nat) (p : List Byte) : State :=
  let asked (s : State) : State := mapQueue s n qn (fun q => { q with poll := .asked (s.nextId - 1) })
  let t := (queueAt s n qn).poll
  if pkKind p != 4 then s
  else match xlate s n (waitVa p) .read with
    | .ok pg =>
      if t.again s (pg.place (waitVa p)) (waitLeast p) then
        let w := sendWalks (.queue n qn) n none (waitVa p) 8 s
        asked (sendPoll (.queue n qn) n pg (waitVa p) w.2 w.1)
      else s
    | .error _ => if t.unasked s then asked (sendWalks (.queue n qn) n none (waitVa p) 8 s).1 else s

/-- The stretches that are read to judge the packet at the head, as far as what has been read tells: the packet, a launch record with
what it names, a checkpoint's descriptor. -/
def headReads (s : State) (n qn : Nat) : List (Nat × Nat) :=
  let q := queueAt s n qn
  (ringSlot q q.qcons, 64) :: (match headPacket s n qn with
    | none => []
    | some p =>
      if pkSeq p != q.qcons then []
      else if pkKind p = 1 then launchReads s (.head n qn) n (at_ p 8 8)
      else if pkKind p = 6 then [(at_ p 8 8, 256)]
      else [])

/-- They have all been read. -/
def headRead (s : State) (n qn : Nat) : Bool := fetchesIn s (.head n qn) n (headReads s n qn)

/-- The slot of the head packet could not be read, and could be now: it is to be read again. DESIGN CHOICE (the notes' log entry 82): the
spec does not say how often a queue whose ring cannot be read tries again. -/
def slotAgain (s : State) (n qn : Nat) : Bool :=
  let va := ringSlot (queueAt s n qn) (queueAt s n qn).qcons
  match fetchOf s (.head n qn) n va 64 with
  | none => false
  | some f => allServed s f.ids && f.failed.isSome && wouldRead s n va 64

/-- The reads of the head packet, and of what it names, leave. -/
def readHead (s : State) (n qn : Nat) : State :=
  let s := if slotAgain s n qn then dropHead s n qn else s
  startFetches (.head n qn) n (headReads s n qn) s

/-- The head packet is acceptable (R129); a CHECKPOINT also waits for the end of another. -/
def acceptable (s : State) (n qn : Nat) (q : Queue) (p : List Byte) : Bool :=
  !((pkB p || impliesB p) && q.qcomp != q.qcons) && !ringFull s q &&
    match pkKind p with
    | 1 => launchFits s n qn q p
    | 4 => waitMet s n q p
    | 6 => s.ckpt.isNone
    | _ => true

/-- The head packet has been read with all that it names, and is malformed or acceptable: a BLOCKED queue becomes READY (R128). -/
def clears (s : State) (n qn : Nat) (q : Queue) : Bool :=
  match headPacket s n qn with
  | none => false
  | some p => (malformed s n qn q p).isSome && !ringFull s q || (malformed s n qn q p).isNone && acceptable s n qn q p

/-- What the head of a queue that it blocks asks for: a LAUNCH that does not fit, bays of kernels of lower priority (R143); a WAIT,
its token. -/
def askBays (s : State) (n qn : Nat) : State :=
  let q := queueAt s n qn
  match headPacket s n qn with
  | none => s
  | some p =>
    if pkKind p = 4 then (if (malformed s n qn q p).isNone then askToken s n qn p else s) else
    if pkKind p = 1 && (malformed s n qn q p).isNone then
      match readLaunch s (.head n qn) n (at_ p 8 8) (at_ p 0x1A 2) with
      | .good lr =>
        if launchFits s n qn q p then s else
          match askVictims s n (at_ p 0x18 2) (at_ p 0x1A 2) q.prio lr with
          | some t => mapQueue t n qn (fun q => { q with claims := true })
          | none => s
      | _ => s
    else s

/-! ## Arbitration (R130) -/

/-- The queues that are served: those of live contexts that are not SUSPENDED and not being suspended, with their context
and number. -/
def served (s : State) : List (Nat × Nat × Queue) :=
  (s.ctxs.map (fun p =>
    if p.2.live && p.2.st != .suspended && s.ctxpend != some p.1 then
      (p.2.queues.zip (upto p.2.queues.length)).map (fun q => (p.1, q.2, q.1))
    else [])).flatten

def readyQueues (s : State) : List (Nat × Nat × Queue) := (served s).filter (fun t => t.2.2.st == .ready)

/-- The priority at which a queue is served: 0 once its age is 4,096. -/
def Queue.rankNow (q : Queue) : Nat := if 4096 ≤ q.age then 0 else q.prio

/-- The round-robin order after the queue served last. -/
def afterLast (last : Nat × Nat) (l : List (Nat × Nat × Queue)) : List (Nat × Nat × Queue) :=
  let later (t : Nat × Nat × Queue) : Bool := decide (last.1 < t.1) || (t.1 == last.1 && decide (last.2 < t.2.1))
  l.filter later ++ l.filter (fun t => !later t)

/-- The scheduler's choice. -/
def schedule (s : State) : Option (Nat × Nat × Queue) :=
  let l := readyQueues s
  match least (l.map (fun t => t.2.2.rankNow)) with
  | none => none
  | some p =>
    let l := l.filter (fun t => t.2.2.rankNow == p)
    let last := tabFind s.lastQ p
    match last with
    | none => l.head?
    | some q =>
      match l.find? (fun t => (t.1, t.2.1) == q && t.2.2.prio == p && decide (t.2.2.turn < t.2.2.weight)) with
      | some t => some t
      | none => (afterLast q l).head?

/-- A packet of a suspended context waits (R128). -/
def packetWaits (s : State) (n : Nat) : Bool := (ctxAt s n).st == .suspended

/-- A consumed packet whose own step has not begun, and that waits for nothing. -/
def unbegun (s : State) : Bool :=
  s.ctxs.any (fun p => p.2.live && p.2.queues.any (fun q => q.packets.any (fun k =>
    !k.begun && k.fin.isNone && !packetWaits s p.1)))

/-- The ages and turns after a queue has been served; one served at priority 0 for its age takes its place in that priority's
round (R130). -/
def serve (s : State) (n qn : Nat) : State :=
  let q := queueAt s n qn
  let aged := decide (4096 ≤ q.age) && q.prio != 0
  let again := tabFind s.lastQ q.prio == some (n, qn) && decide (q.turn < q.weight)
  let s := (readyQueues s).foldl (fun t r => mapQueue t r.1 r.2.1 (fun u => { u with age := u.age + 1 })) s
  let s := mapQueue s n qn (fun u => { u with age := 0, turn := if aged then u.turn else if again then u.turn + 1 else 1 })
  { s with lastQ := tabPut s.lastQ (if aged then 0 else q.prio) (n, qn) }

/-- The packet at the head is consumed (R125). -/
def takeHead (s : State) (n qn : Nat) (p desc : List Byte) (fin : Option (Nat × W64 × W64)) (halt : Bool) : State :=
  let id := s.nextId
  let s := mapQueue { dropHead s n qn with nextId := id + 1 } n qn (fun q =>
    let pk : Packet := { id := id, seq := q.qcons, kind := pkKind p, irq := pkI p
                         user := if pkKind p = 1 then n64 (at_ p 0x10 8) else if pkKind p = 2 then n64 (at_ p 0x20 8) else 0
                         body := p ++ desc, fin := fin, begun := fin.isSome, ends := none, land := [], pages := [], recorded := false, old := false }
    let q := { q with poll := .idle, qcons := (q.qcons + 1) % 2 ^ 48, packets := q.packets ++ [pk] }
    { q with st := if halt then .halted else if q.qtail = q.qcons then .idle else .ready })
  statusOut s n qn 0x20 (queueAt s n qn).qcons

/-- The barrier of a delivery is not on a core that is away (R356). -/
def deliveryNear (s : State) (d : Delivery) : Bool :=
  (d.bar.map (fun b => !awayHome s d.ctx ⟨.scratch b.1, b.2, 0⟩)).getD true

/-- A write of the host through BAR2, or of a link peer, is on its way, of those that are picked, but for one to a core that is away; a
delivery that a barrier counts is a write too (R328, R356). -/
def outsideWriting (s : State) (pick : Req → Bool) : Bool :=
  s.reqs.any (fun r => r.waiting && !r.op.isLoad && r.src.outside && pick r && !awayHome s r.ctx r.place) ||
  s.deliveries.any (fun d => deliveryNear s d && d.sectors.any (fun q => allServed s q.2))

/-- Any of them. They are done before the packets of a later doorbell are served, and before a later link message is taken (R328). -/
def hostWriting (s : State) : Bool := outsideWriting s (fun _ => true)

/-- One of a chain, whose verdict has returned already: a later request of a far device comes after it (R328, R407). -/
def chainWriting (s : State) : Bool := outsideWriting s (fun r => r.xfer.isSome)

/-- Offsets of the offences of a checkpoint descriptor (R416). -/
def ckptBad (s : State) (x : Ctx) (d : List Byte) : List Nat :=
  let links := at_ d 0 2
  offs (links == 0 || (upto 16).any (fun i => bit1 links i && (!x.stackMask.getLsbD i || !(linkAt s (16 + i)).flows))) 0 ++
    offs (at_ d 2 1 == 0 || decide (8 ≤ at_ d 2 1)) 2 ++ nonzero d 3 8 ++
    ((upto 16).map (fun i => offs (at_ d (8 + 8 * i) 8 / 2 ^ 40 != 0) (8 + 8 * i))).flatten ++ nonzero d 0x88 256

/-- What acceptance finds of a packet: a good launch record or the descriptor of a CHECKPOINT, which is kept with it, and how a packet
ends whose token does not translate, or whose descriptor cannot be read or breaks a limit (R132, R139, R350, R416). DESIGN CHOICE (the
notes' log entry 87): a descriptor that meets poison or a refusal ends its packet as one that faults, with the address of the first
such byte. -/
def acceptFind (s : State) (n qn : Nat) (p : List Byte) : List Byte × Option (Nat × W64 × W64) :=
  let own : FetchFor := .head n qn
  let va := at_ p 8 8
  match pkKind p with
  | 1 =>
    match readLaunch s own n va (at_ p 0x1A 2) with
    | .good _ => ((fetchBytes s own n va 256).getD [], none)
    | _ => ([], none)
  | 4 =>
    match xlate s n (waitVa p) .read with
    | .error _ => ([], some (5, n64 (waitVa p), 0))
    | .ok _ => ([], none)
  | 6 =>
    match (fetchOf s own n va 256).bind Fetch.failed with
    | some f => ([], some (5, n64 f, 0))
    | none =>
      let d := (fetchBytes s own n va 256).getD []
      (d, (least (ckptBad s (ctxAt s n) d)).map (fun o => (4, n64 o, 0)))
  | _ => ([], none)

/-- The launch record that acceptance kept with a packet; none where it could not be read, or what it names could not. -/
def Packet.record (p : Packet) : Option LaunchRec :=
  if p.body.length < 320 then none else some (recOf (p.body.drop 64))

/-- The head packet is accepted; `d` is what acceptance has found. -/
def acceptHead (s : State) (n qn : Nat) (p : List Byte) (d : List Byte × Option (Nat × W64 × W64)) : State :=
  takeHead s n qn p d.1 d.2 false

/-- QUEUE_ARBITRATE (R128-R131): the scheduler serves the READY queue of its choice, or a BLOCKED queue becomes READY. A head that has
not been read, with what it names, is read first, and its queue is BLOCKED meanwhile. DESIGN CHOICE (the notes' log entry 65): a
decision whose head proves not acceptable counts no age and moves no turn. -/
def evQueueArbitrate (n qn : Nat) (s : State) : State :=
  let q := queueAt s n qn
  if unbegun s || hostWriting s then s
  else if q.st == .blocked && (served s).any (fun t => t.1 == n && t.2.1 == qn) then
    if !headRead s n qn || slotAgain s n qn then readHead s n qn
    else if clears s n qn q then mapQueue s n qn (fun q => { q with st := .ready }) else askBays s n qn
  else if (schedule s).map (fun t => (t.1, t.2.1)) == some (n, qn) then
    let block (s : State) : State := mapQueue s n qn (fun q => { q with st := .blocked })
    if !headRead s n qn then readHead (block s) n qn
    else match headPacket s n qn with
      | none => block s
      | some p =>
        if ringFull s q then block s
        else match malformed s n qn q p with
          | some (st, a) => takeHead (serve s n qn) n qn p [] (some (st, n64 a, 0)) true
          | none =>
            if acceptable s n qn q p then acceptHead (serve s n qn) n qn p (acceptFind s n qn p)
            else askBays (block s) n qn
  else s
/-- QUEUE_ARBITRATE, as an event. -/
def execQueueArbitrate (ctx q : Nat) (s : State) : Host.Outcome State Fault Refusal := .next (evQueueArbitrate ctx q s)

/-! ## Packets (R132, R133) -/

/-- A request of a packet that its home has not served yet (R132). -/
def Req.ofPacket (n q pk : Nat) (r : Req) : Bool :=
  r.src == .queue n q && r.xfer == some pk && (match r.st with
    | .applied => false
    | .echo => false
    | _ => true)

/-- The consumed packet of a queue whose step is next, of a kind. -/
def nextPacket (s : State) (n q kind : Nat) : Option Packet :=
  if (ctxAt s n).live && (ctxAt s n).st != .suspended then
    (queueAt s n q).packets.find? (fun p => !p.begun && p.fin.isNone && p.kind == kind)
  else none

/-- A packet changed by its number. -/
def mapPacket (s : State) (n q pk : Nat) (f : Packet → Packet) : State :=
  mapQueue s n q (fun u => { u with packets := u.packets.map (fun p => if p.id = pk then f p else p) })

/-- Its step has begun. -/
def begin_ (s : State) (n q pk : Nat) : State := mapPacket s n q pk (fun p => { p with begun := true })

/-- A packet that is done with its step. -/
def packetStep (n q kind : Nat) (s : State) (f : Packet → State → State) : State :=
  match nextPacket s n q kind with
  | none => s
  | some p => f p (begin_ s n q p.id)

/-- OK, with no payload. -/
def packetOk (n q : Nat) (p : Packet) (s : State) : State := finishPacket s n q p.id 0 0 0

/-- It ends as its step has found once its requests have been served (R132, R134). -/
def packetEnds (n q : Nat) (p : Packet) (f : Nat × W64 × W64) (s : State) : State :=
  if s.reqs.any (Req.ofPacket n q p.id) then mapPacket s n q p.id (fun k => { k with ends := some f, land := [], pages := [] })
  else finishPacket s n q p.id f.1 f.2.1 f.2.2

/-- With OK. -/
def packetSent (n q : Nat) (p : Packet) (s : State) : State := packetEnds n q p (0, 0, 0) s
/-- With FAULT, and the faulting address. -/
def packetFault (n q : Nat) (p : Packet) (va : Nat) (s : State) : State := packetEnds n q p (5, n64 va, 0) s

/-- PACKET_NOP (R132). -/
def evPacketNop (n q : Nat) (s : State) : State := packetStep n q 0 s (packetOk n q)
/-- PACKET_NOP, as an event. -/
def execPacketNop (ctx q : Nat) (s : State) : Host.Outcome State Fault Refusal := .next (evPacketNop ctx q s)

/-- The level of a kernel at admission (R143). -/
def admitLevel (s : State) (n : Nat) (q : Queue) (lr : LaunchRec) : Nat :=
  if lr.level != 0xFF then lr.level
  else
    let l := if q.level = 0xFF then (ctxAt s n).level else q.level
    if l = 2 && !lr.nest then 1 else l

/-- A kernel that has been accepted. -/
def newKernel (s : State) (n qn : Nat) (p : Packet) (lr : LaunchRec) (bays : List Nat) : Kernel :=
  let q := queueAt s n qn
  { (default : Kernel) with
    ctx := n, queue := qn, pk := p.id, user := p.user, irq := p.irq, prio := q.prio, minBays := minOf lr (at_ p.body 0x18 2)
    maxBays := at_ p.body 0x1A 2, lr := lr, level := admitLevel s n q lr, st := .loading, bays := bays, luo := lr.first
    start := Core.reset }

/-- A kernel enters the machine, LOADING; its context is ACTIVE, and one that is being suspended has it pre-empted (R116, R147). -/
def startLaunch (s : State) (n q : Nat) (p : Packet) (lr : LaunchRec) (bays : List Nat) : State :=
  let k := newKernel s n q p lr bays
  let k := { k with preempt := suspending s n, inSave := suspending s n }
  let s := mapQueue { s with kernels := tabPut s.kernels s.nextK k, nextK := s.nextK + 1 } n q (fun q => { q with claims := false })
  if (ctxAt s n).st == .idle then mapCtx s n (fun x => { x with st := .active }) else s

/-- LAUNCH (R132, R139, R143, R144, R147): the kernel is admitted on the bays that the manager gives, or killed at once. -/
def evLaunch (n q : Nat) (bays : List Nat) (s : State) : State :=
  match nextPacket s n q 1 with
  | none => s
  | some p =>
    let lo := at_ p.body 0x18 2
    let hi := at_ p.body 0x1A 2
    let go (lr : LaunchRec) (bays : List Nat) : State := startLaunch (begin_ s n q p.id) n q p lr bays
    match p.record with
    | some lr =>
      if neverFits s n lo hi lr then killOne (go lr []) s.nextK 0x0102
      else if bayChoice s n lo hi (queueAt s n q).claims lr = some bays then go lr bays
      else s
    | none => killOne (go default []) s.nextK 0x0101
/-- LAUNCH, as an event. -/
def execLaunch (ctx q : Nat) (bays : List Nat) (s : State) : Host.Outcome State Fault Refusal := .next (evLaunch ctx q bays s)

/-- A COPY that has read its bytes and is to write them. -/
def copyRead (s : State) (n q : Nat) : Option Packet :=
  if (ctxAt s n).live then
    (queueAt s n q).packets.find? (fun p => p.kind == 2 && p.begun && p.fin.isNone && p.ends.isNone &&
      !s.reqs.any (Req.ofPacket n q p.id))
  else none

/-- The bytes that its reads have brought, in their order, and the offsets of the poisoned ones. -/
def copyBytes (p : Packet) : List Byte × List Nat :=
  let l := sortBrought p.land
  (l.flatMap Brought.bytes, (l.filter Brought.poison).flatMap (fun b =>
    match b.dst with
    | .bytes a => (upto b.bytes.length).map (a + ·)
    | _ => []))

/-- The writes of a COPY leave, through the pages that it translated at its beginning. -/
def copyWrite (n q : Nat) (p : Packet) (s : State) : State :=
  let b := copyBytes p
  packetSent n q p (sendBytes (.queue n q) n (some p.id) p.pages (at_ p.body 0x10 8 % 2 ^ 60) b.1 b.2 [] s).1

/-- The walks of source and destination begin, and its reads follow them; where a page does not allow the access, it ends with the
lowest faulting address of both (R132, R349, R350). -/
def copyStart (n q : Nat) (p : Packet) (s : State) : State :=
  let src := at_ p.body 8 8 % 2 ^ 60
  let dst := at_ p.body 0x10 8 % 2 ^ 60
  let len := at_ p.body 0x18 8
  let w := sendWalks (.queue n q) n (some p.id) src len s
  let w2 := sendWalks (.queue n q) n (some p.id) dst len w.1
  let s := w2.1
  match least ((accessFault s n src len .read).toList ++ (accessFault s n dst len .write).toList) with
  | some va => packetFault n q p va s
  | none =>
    mapPacket (sendReads (.queue n q) n (some p.id) (pagesOver s n src len .read) src len (w.2 ++ w2.2) s).1 n q p.id
      (fun k => { k with pages := pagesOver s n dst len .write })

/-- COPY (R132): every byte is read at its home, then written at its own; what is poisoned arrives poisoned (R300). First its reads
leave, then, when all have been served, its writes. DESIGN CHOICE (the notes' log entry 22): the addresses of a packet are taken
modulo 2^60. -/
def evCopy (n q : Nat) (s : State) : State :=
  match copyRead s n q with
  | some p => copyWrite n q p s
  | none => packetStep n q 2 s (copyStart n q)
/-- COPY, as an event. -/
def execCopy (ctx q : Nat) (s : State) : Host.Outcome State Fault Refusal := .next (evCopy ctx q s)

/-- SIGNAL (R132, R135): one atomic update of a token at its home, after the writes of the host and of link peers that were accepted
before (R328); the packet completes when the update is done. -/
def evSignal (n q : Nat) (s : State) : State :=
  if hostWriting s then s else
  packetStep n q 3 s (fun p s =>
    let va := at_ p.body 8 8 % 2 ^ 60
    let w := sendWalks (.queue n q) n (some p.id) va 8 s
    match xlate w.1 n va .write with
    | .error _ => packetFault n q p va w.1
    | .ok pg => packetSent n q p (sendReqAfter w.1 (.queue n q) n (some p.id) (pg.place va) va
        (tokenOp (n64 (at_ p.body 0x10 8)) (bit1 (at_ p.body 0x18 1) 0)) none pg.lg w.2))
/-- SIGNAL, as an event. -/
def execSignal (ctx q : Nat) (s : State) : Host.Outcome State Fault Refusal := .next (evSignal ctx q s)

/-- WAIT (R132): it completes with its acceptance, which has found the token at or above its threshold. -/
def evWait (n q : Nat) (s : State) : State := packetStep n q 4 s (packetOk n q)
/-- WAIT, as an event. -/
def execWait (ctx q : Nat) (s : State) : Host.Outcome State Fault Refusal := .next (evWait ctx q s)

/-- MODE (R132, R133): the queue's level. -/
def evMode (n q : Nat) (s : State) : State :=
  packetStep n q 5 s (fun p s => packetOk n q p (mapQueue s n q (fun u => { u with level := at_ p.body 8 1 })))
/-- MODE, as an event. -/
def execMode (ctx q : Nat) (s : State) : Host.Outcome State Fault Refusal := .next (evMode ctx q s)

/-- The bytes that QUERY writes (R132). -/
def queryBytes (x : Ctx) (code : Nat) : List Byte :=
  if code = 1 then (x.queues.map (fun q => leBytes 8 q.qcons ++ leBytes 8 q.qcomp)).flatten
  else ((upto 16).map (fun i => leBytes 8 (ctxReg x (8 * i)))).flatten

/-- QUERY (R132): the bytes leave for their homes. -/
def evQuery (n q : Nat) (s : State) : State :=
  packetStep n q 7 s (fun p s =>
    let va := at_ p.body 0x10 8 % 2 ^ 60
    let bs := queryBytes (ctxAt s n) (at_ p.body 8 8)
    let w := sendWalks (.queue n q) n (some p.id) va bs.length s
    match accessFault w.1 n va bs.length .write with
    | some va => packetFault n q p va w.1
    | none =>
      packetSent n q p (sendBytes (.queue n q) n (some p.id) (pagesOver w.1 n va bs.length .write) va bs [] w.2 w.1).1)
/-- QUERY, as an event. -/
def execQuery (ctx q : Nat) (s : State) : Host.Outcome State Fault Refusal := .next (evQuery ctx q s)

/-! ## Checkpoints (R416, R417) -/

/-- CHECKPOINT (R416, R417): the kernels are stopped, for the descriptor that acceptance has read. -/
def evCheckpoint (n q : Nat) (s : State) : State :=
  packetStep n q 6 s (fun p s =>
    let d := p.body.drop 64
    { s with ckpt := some { ctx := n, queue := q, pk := p.id, links := BitVec.ofNat 16 (at_ d 0 2)
                            parts := BitVec.ofNat 8 (at_ d 2 1)
                            dest := (upto 16).map (fun i => n64 (at_ d (8 + 8 * i) 8)), held := [], dead := false } })
/-- CHECKPOINT, as an event. -/
def execCheckpoint (ctx q : Nat) (s : State) : Host.Outcome State Fault Refusal := .next (evCheckpoint ctx q s)

/-- Every running kernel stands still: at bundle boundaries of TL0 with its engines drained (R417, R173). -/
def allStill (s : State) : Bool := s.kernels.all (fun p => p.2.st != .running || mayPreempt s p.1)

/-- The open and sealed phases of a kernel restart, and its cores go on where they are (R417). -/
def stopKernel (s : State) (kn : Nat) : State :=
  let k := kernelAt s kn
  if k.st != .running then s else
    let s := k.liveGroups.foldl (preemptGroup kn) s
    k.liveGroups.foldl (fun s p => if p.2.ph == .closed then s else p.2.cores.foldl replayLog s) s

/-- Far entry and offset named in a checkpoint's refusal, with the link (R417). -/
def refusalWord (r : Nat × Nat × Nat) : Nat := r.1 * 2 ^ 44 + r.2.1 % 256 * 2 ^ 32 + r.2.2 % 2 ^ 32

/-- The device physical address of a BAR2 offset (R19). -/
def aperture (s : State) (off : Nat) : Nat := (s.apbase.toNat * 2 ^ 30 + off) % 2 ^ 40

/-- A stretch of BAR2 accessed by requests of the host, one a line: `op` gives the operation on the bytes from an offset of the stretch
on (R17, R19). The numbers of the requests. -/
def barSend (off n : Nat) (op : Nat → Nat → Nat → ReqOp) (s : State) : State × List Nat :=
  (runs 64 off n).foldl (fun acc r =>
    let pa := aperture acc.1 r.1
    let t := sendReq acc.1 .host 0 none ⟨.stack (pa / 2 ^ 36), pa, 0⟩ 0 (op pa (r.1 - off) r.2) none
    (t, acc.2 ++ [t.nextId - 1])) (s, [])

/-- Bytes that the host writes through BAR2. -/
def barWrite (s : State) (off : Nat) (bs : List Byte) : State :=
  (barSend off bs.length (fun _ o k => .write (((bs.drop o).take k).map some) []) s).1

/-- The line reads that a checkpoint of DRAM counts at the layout units: a stack's lines fall evenly on its 64
pseudo-channels; of one that ended early the number is a free value (R304, the notes' log entry 7). -/
def countSlices (s : State) (c : Ckpt) (whole : Bool) : State :=
  if bit1 c.parts.toNat 0 then
    let ks := ((upto 16).filter (fun n => c.links.getLsbD n)).flatMap (fun n => (upto 64).map (fun q => 128 * n + 2 * q))
    ks.foldl (fun (s : State) k =>
      let v : BitVec 48 := if whole then BitVec.ofNat 48 (2 ^ 24) else (Config.freeValue s.freeCtr).truncate 48
      { s with lucnt := tabSet 0 s.lucnt k (tabGet 0 s.lucnt k + v), freeCtr := if whole then s.freeCtr else s.freeCtr + 1 }) s
  else s

/-- A part of the device's memory as a stretch of a stream: the cells from `base` on, moved to `off`. -/
def stretch (m : Memory) (base len off : Nat) : Memory :=
  (keepBelow (base + len) (dropBelow base m)).map (fun c => (c.1 - base + off, c.2))

/-- The cores whose memories belong to slice `n`, rising: those with core[9:6] = n (R416). -/
def sliceCores (n : Nat) : List Nat := (upto 64).map (64 * n + ·)

/-- The memories of those cores, one after the other from `off` on, with their poisoned lines. -/
def coreStretch (s : State) (n size off : Nat) (mem : Core → Memory) (bad : Core → List Nat) : Memory × List Nat :=
  let at_ (c : Nat) : Nat := off + size * (c % 64)
  ((sliceCores n).flatMap (fun c => stretch (mem (coreAt s c)) 0 size (at_ c)),
   (sliceCores n).flatMap (fun c => (bad (coreAt s c)).map (fun l => at_ c / 64 + l)))

/-- Slice `n` of the device's memory (R416): the stack, the vaults of its cores, their scratchpads, each part when its bit is
set. -/
def sliceOf (s : State) (n : Nat) (parts : Byte) (dest : W64) : Slice :=
  let size (i k : Nat) : Nat := if bit1 parts.toNat i then k else 0
  let a := size 0 (2 ^ 36)
  let b := a + size 1 (64 * 2 ^ 21)
  let base := n * 2 ^ 36
  let vaults := coreStretch s n (size 1 (2 ^ 21)) a Core.vault (fun c => if bit1 parts.toNat 1 then c.vaultPoison else [])
  let sps := coreStretch s n (size 2 (2 ^ 20)) b Core.sp
    (fun c => if bit1 parts.toNat 2 then setInsAll (c.spPoison.map (· / 16)) [] else [])
  let lines := if bit1 parts.toNat 0 then s.hbmPoison.filter (fun l => l * 64 / 2 ^ 36 == n) else []
  { dest := dest, len := b + size 2 (64 * 2 ^ 20), bytes := stretch s.hbm base a 0 ++ vaults.1 ++ sps.1
    poison := lines.map (fun l => l - base / 64) ++ vaults.2 ++ sps.2 }

/-- The beginning of a slice. -/
def Slice.upTo (v : Slice) (k : Nat) : Slice :=
  if v.len ≤ k then v
  else { v with len := k, bytes := keepBelow k v.bytes, poison := v.poison.filter (fun l => decide (64 * l < k)) }

/-- How much of slice `n` has been written: all of it; up to the refused address on the link that refuses; on the others then
a stretch that nothing states (R417). -/
def sliceLen (s : State) (n : Nat) (v : Slice) (refusal : Option (Nat × Nat × Nat)) : Nat :=
  match refusal with
  | none => v.len
  | some r =>
    if r.1 = n then (r.2.1 % 256 * 2 ^ 32 + r.2.2 % 2 ^ 32 + 2 ^ 40 - v.dest.toNat % 2 ^ 40) % 2 ^ 40
    else (Config.freeValue (s.freeCtr + n)).toNat % (v.len + 1)

/-- The lines of DRAM that the streams of a checkpoint read and that are poisoned are found so (R359). -/
def noticeSlices (s : State) (c : Ckpt) : State :=
  if bit1 c.parts.toNat 0 then
    (s.hbmPoison.filter (fun l => decide (l * 64 / 2 ^ 36 < 16) && c.links.getLsbD (l * 64 / 2 ^ 36))).foldl
      (fun s l => poisonFound s (64 * l) none) s
  else s

/-- The links write the slices as byte streams from their destinations (R416, R417). -/
def sendSlices (s : State) (c : Ckpt) (refusal : Option (Nat × Nat × Nat)) : State :=
  let t := ((upto 16).filter (fun n => c.links.getLsbD n)).foldl (fun t n =>
    let v := sliceOf s n c.parts (c.dest.getD n 0)
    mapLink t (16 + n) (fun l => { l with slice := some (v.upTo (sliceLen s n v refusal)) })) s
  { t with freeCtr := t.freeCtr + 16 }

/-- Every link of a checkpoint carries its stream (R396). -/
def slicesFlow (s : State) (c : Ckpt) : Bool := (upto 16).all (fun n => !c.links.getLsbD n || (linkAt s (16 + n)).flows)

/-- CHECKPOINT_COMPLETE (R417): the slices have been written, or an access-control entry has refused; held BAR2 writes are
applied and the kernels continue. A checkpoint of a context that has been killed meanwhile ends too (R398). DESIGN CHOICE (the notes'
log entry 79): a held write keeps its offset in BAR2, and the APBASE in force now places it (R19). -/
def evCheckpointComplete (refusal : Option (Nat × Nat × Nat)) (s : State) : State :=
  match s.ckpt with
  | none => s
  | some c =>
    if (allStill s && slicesFlow s c) || c.dead then
      let s := if c.dead then s else
        let s := (s.kernels.map Prod.fst).foldl stopKernel s
        countSlices (noticeSlices (sendSlices s c refusal) c) c refusal.isNone
      let s := c.held.foldl (fun (s : State) h => barWrite s h.1 h.2) { s with ckpt := none }
      match refusal with
      | none => finishPacket s c.ctx c.queue c.pk 0 0 0
      | some r => finishPacket s c.ctx c.queue c.pk 5 (n64 (refusalWord r)) 0
    else s
/-- CHECKPOINT_COMPLETE, as an event. -/
def execCheckpointComplete (refusal : Option (Nat × Nat × Nat)) (s : State) : Host.Outcome State Fault Refusal :=
  .next (evCheckpointComplete refusal s)

/-! ## Completion (R125, R134) -/

/-- A completion record (R134). -/
def completionBytes (p : Packet) (f : Nat × W64 × W64) : List Byte :=
  leBytes 6 p.seq ++ leBytes 1 p.kind ++ leBytes 1 f.1 ++ leBytes 8 p.user.toNat ++ leBytes 8 f.2.1.toNat ++
    leBytes 8 f.2.2.toNat

/-- QCOMP advances past each run of completed packets. -/
def runComps : Nat → Nat → List Nat → Nat × List Nat
  | 0, c, l => (c, l)
  | f + 1, c, l => if l.contains c then runComps f ((c + 1) % 2 ^ 48) (setDel c l) else (c, l)

/-- The packet that has finished first among those of a queue. -/
def donePacket (s : State) (n q : Nat) : Option (Packet × (Nat × W64 × W64)) :=
  (queueAt s n q).packets.findSome? (fun p => p.fin.map (fun f => (p, f)))

/-- The slot of the completion ring for the next record. -/
def recordSlot (u : Queue) : Nat := (u.cring + 32 * (u.cprod % 2 ^ u.clg)) % 2 ^ 60

/-- The record of a packet leaves for its slot of the completion ring, after the walk to it; where the slot is not mapped, it is not
seen (R134). -/
def sendRecord (n q : Nat) (p : Packet) (f : Nat × W64 × W64) (s : State) : State :=
  let va := recordSlot (queueAt s n q)
  let w := sendWalks (.queue n q) n (some p.id) va 32 s
  let s := match xlate w.1 n va .write with
    | .ok pg => sendReqAfter w.1 (.queue n q) n (some p.id) (pg.place va) va (.write ((completionBytes p f).map some) []) none pg.lg w.2
    | .error _ => w.1
  mapPacket s n q p.id (fun k => { k with recorded := true })

/-- The record written without a plane. DESIGN CHOICE (the notes' log entry 78): so it is with the last plane dead, whose kill still
completes packets (R373, R425). -/
def putRecord (n q : Nat) (p : Packet) (f : Nat × W64 × W64) (s : State) : State :=
  let va := recordSlot (queueAt s n q)
  match xlate s n va .write with
  | .ok pg => ownWrite s n (pg.place va) va pg.lg ((completionBytes p f).map some)
  | .error _ => s

/-- The record is at its home: CPROD and QCOMP advance, and the interrupt is raised (R125, R134). The number of a packet that its
queue's reset has found running is not one of the queue's any more. -/
def recordDone (n q : Nat) (p : Packet) (s : State) : State :=
  let u := queueAt s n q
  let s := mapQueue s n q (fun u =>
    let r := if p.old then (u.qcomp, u.comps) else runComps (u.comps.length + 1) u.qcomp (setIns p.seq u.comps)
    { u with packets := u.packets.filter (fun k => k.id != p.id), cprod := u.cprod + 1, qcomp := r.1, comps := r.2 })
  let s := statusOut (statusOut s n q 0x30 (u.cprod + 1)) n q 0x28 (queueAt s n q).qcomp
  if p.irq then raiseMsix s u.vector else s

/-- PACKET_COMPLETE (R134): the record of the packet that has finished first is written, then CPROD; QCOMP advances and the interrupt
is raised. -/
def evPacketComplete (n q : Nat) (s : State) : State :=
  let u := queueAt s n q
  match donePacket s n q with
  | none => s
  | some (p, f) =>
    if noPlane s then (if ringFull s u && !p.recorded then s else recordDone n q p (putRecord n q p f s))
    else if p.recorded then (if s.reqs.any (Req.ofPacket n q p.id) then s else recordDone n q p s)
    else if ringFull s u then s
    else sendRecord n q p f s
/-- PACKET_COMPLETE, as an event. -/
def execPacketComplete (ctx q : Nat) (s : State) : Host.Outcome State Fault Refusal := .next (evPacketComplete ctx q s)

end Sys2Proof.Machine
end

