-- ==== Sys2Proof/Machine/Planes.lean ====
section
/-! DEFINITION. The planes (19_plane R373-R378) and the driver's page commands, migration and hash profiles
(18_page R357-R362; 14_tensor R303). -/

namespace Sys2Proof.Machine

/-! ## PMAP (R367, R375, R377) -/

/-- Buckets that a plane carries. -/
def bucketsOf (pm : BitVec 24) (n : Nat) : List Nat := (upto 8).filter (fun b => pmapAt pm b == n)

def pmapSet (pm : BitVec 24) (b n : Nat) : BitVec 24 :=
  BitVec.ofNat 24 (pm.toNat - pmapAt pm b * 2 ^ (3 * b) + n * 2 ^ (3 * b))

/-- Of some planes the one that carries the fewest buckets, the lowest among equals. -/
def lightest (pm : BitVec 24) : List Nat → Option Nat
  | [] => none
  | n :: r => match lightest pm r with
    | some m => if (bucketsOf pm m).length < (bucketsOf pm n).length then some m else some n
    | none => some n

/-- The buckets of lost planes go, one after another in ascending order, to UP planes (R375, step 4). -/
def reassign (ups lost : List Nat) (pm : BitVec 24) : BitVec 24 :=
  ((upto 8).filter (fun b => lost.contains (pmapAt pm b))).foldl (fun pm b =>
    match lightest pm ups with
    | some n => pmapSet pm b n
    | none => pm) pm

/-- PMAP at boot: the buckets of each OFF plane in ascending plane order (R377). -/
def bootPmap (ups off : List Nat) (pm : BitVec 24) : BitVec 24 := off.foldl (fun pm n => reassign ups [n] pm) pm

def upPlanes (s : State) : List Nat := (upto 8).filter (fun n => planeSt s n == .up)

/-! ## PLANEDOWN (R373-R375) -/

/-- A request that a lost plane held is back at its source, also one whose acknowledgement it held, be it that of the acceptance into
a phase store buffer (R372, R375, step 1). -/
def Req.strand (n : Nat) (r : Req) : Req :=
  match r.st with
  | .plane p => if p = some n then { r with st := .source } else r
  | .merged p => if p = n then { r with st := .source } else r
  | .applied => if r.via = some n then { r with st := .echo } else r
  | .held => if r.via = some n then { r with via := none, lost := true } else r
  | _ => r

/-- A lost partial's message is not a request of its own. -/
def Req.isPart (r : Req) : Bool :=
  match r.op with
  | .part .. => true
  | _ => false

/-- The addends that partials sent by a lost plane's unit held go back to their sources (R375, step 1). -/
def partIds (l : List Req) (n : Nat) : List Nat :=
  l.flatMap (fun r => match r.op with
    | .part _ _ _ ids => if r.src == .unit n then ids else []
    | _ => [])

/-- What becomes of the requests when a plane is lost. -/
def strandAll (n : Nat) (l : List Req) : List Req :=
  let ids := partIds l n
  (l.filter (fun r => !(r.isPart && r.src == .unit n))).map (fun r =>
    if ids.contains r.id then { r with st := .source } else r.strand n)

/-- Every live context is killed, as the last plane is dead (R373, R425). -/
def lastPlaneDead (s : State) : State :=
  let s := { s with bootstat := 4 }
  (s.ctxs.map Prod.fst).foldl (fun t n => if (ctxAt t n).live then killCtx t n 0x0103 0 noCore none allOnes64 else t) s

/-- PLANEDOWN of a plane (R373, R374), with the detail code of its cause, which is kept: an UP plane enters QUIESCE and the rehash
begins, or joins the one under way; the last UP plane is DEAD. -/
def planeDown (n detail : Nat) (s : State) : State :=
  if planeSt s n != .up || decide (8 ≤ n) then s
  else
    let s := { s with plDetail := tabSet 0 s.plDetail n detail }
    if upPlanes s == [n] then lastPlaneDead { s with planes := tabPut s.planes n .dead } else
    { s with planes := tabPut s.planes n .quiesce, rehash := true, rehashed := setIns n s.rehashed
             partials := s.partials.filter (fun p => p.plane != n), reqs := strandAll n s.reqs }

/-- FLIT_RETRY_EXHAUSTED (R374), detail 1. -/
def evFlitRetryExhausted (n : Nat) (s : State) : State := planeDown n 1 s
/-- FLIT_RETRY_EXHAUSTED, as an event. -/
def execFlitRetryExhausted (plane : Nat) (s : State) : Host.Outcome State Fault Refusal := .next (evFlitRetryExhausted plane s)

/-- A plane holds a request, or an acknowledgement that its source has not received. -/
def planeHolds (s : State) (n : Nat) : Bool :=
  s.reqs.any (fun r => r.st.onPlane == some n || ((r.st == .applied || r.st == .held) && r.via == some n))

/-- PLANE_ACK_TIMEOUT (R374), detail 2: of a plane that holds a request. -/
def evPlaneAckTimeout (n : Nat) (s : State) : State := if planeHolds s n then planeDown n 2 s else s
/-- PLANE_ACK_TIMEOUT, as an event. -/
def execPlaneAckTimeout (plane : Nat) (s : State) : Host.Outcome State Fault Refusal := .next (evPlaneAckTimeout plane s)

/-- PLANE_BUFFER_ERROR (R374), detail 3. -/
def evPlaneBufferError (n : Nat) (s : State) : State := planeDown n 3 s
/-- PLANE_BUFFER_ERROR, as an event. -/
def execPlaneBufferError (plane : Nat) (s : State) : Host.Outcome State Fault Refusal := .next (evPlaneBufferError plane s)

/-- PLANE_ISLAND_FAULT (R374), detail 4. -/
def evPlaneIslandFault (n : Nat) (s : State) : State := planeDown n 4 s
/-- PLANE_ISLAND_FAULT, as an event. -/
def execPlaneIslandFault (plane : Nat) (s : State) : Host.Outcome State Fault Refusal := .next (evPlaneIslandFault plane s)

/-- PLCMD_RETIRE (R378): OP 1 retires an UP plane that is not the last; any other write is dropped. -/
def evPlcmdRetire (v : W64) (s : State) : State :=
  let n := fld v.toNat 2 0
  if fld v.toNat 15 12 != 1 || planeSt s n != .up || upPlanes s == [n] then dropWrite s else planeDown n 5 s
/-- PLCMD_RETIRE, as an event. -/
def execPlcmdRetire (v : W64) (s : State) : Host.Outcome State Fault Refusal := .next (evPlcmdRetire v s)

/-- The partial's message that holds an addend. -/
def messageOf (s : State) (id : Nat) : Option Req :=
  s.reqs.find? (fun r => match r.op with
    | .part _ _ _ ids => ids.contains id
    | _ => false)

/-- No request stands in a surviving plane or in its reduction unit, but for those that wait for a link (R396). -/
def drained (s : State) : Bool :=
  s.partials.isEmpty && s.reqs.all (fun r => match r.st with
    | .plane (some _) => linkHeld s r.place r.id
    | .merged _ => (messageOf s r.id).any (fun q => linkHeld s q.place q.id)
    | _ => true)

/-- A request that the rehash replays is counted at its core (R379). -/
def countReplay (s : State) (r : Req) : State :=
  match r.core? with
  | some n =>
    if (r.st == .source || r.st == .echo || r.lost) && !awayHome s r.ctx r.place && !linkHeld s r.place r.id &&
        !bayFabric r.src r.place then
      mapCore s n (fun c => { c with replays := c.replays + 1 })
    else s
  | none => s

/-- REHASH_DRAINED (R373, R375, steps 4-6): PMAP is rewritten, the held requests are replayed in their order, the gates
reopen, and each lost plane is DEAD, with a record to every live context. -/
def evRehashDrained (s : State) : State :=
  if s.rehash && drained s then
    let lost := s.rehashed
    let s := s.reqs.foldl countReplay s
    let s : State := { s with
      pmap := reassign (upPlanes s) lost s.pmap, rehash := false, rehashed := [], rehashes := s.rehashes + 1
      planes := lost.foldl (fun t n => tabPut t n .dead) s.planes }
    let s := sendWaiting s
    lost.foldl (fun s n => postAll s (fun _ => true) 2 (n64 n) (s.pmap.zeroExtend 64)) s
  else s
/-- REHASH_DRAINED, as an event. -/
def execRehashDrained (s : State) : Host.Outcome State Fault Refusal := .next (evRehashDrained s)

/-! ## Pages (R357, R358, R362) -/

/-- The lowest line that a filling frame does not have. -/
def Mig.todo (m : Mig) : Option Nat := (upto (2 ^ (m.lg - 6))).find? (fun l => !m.have_.contains l)

/-- MIGRATION_PULL (R358): the background engine pulls the lowest line of a filling frame that is not present, or completes a fill
of which nothing is missing; a checkpoint pauses it (R417). -/
def evMigrationPull (page line : Nat) (s : State) : State :=
  match s.migs.find? (fun m => m.va == page) with
  | none => s
  | some m =>
    if s.ckpt.isSome then s
    else if m.todo.isNone then migFinish s m
    else if m.todo == some line then
      let s := pullLine s m line none
      match s.migs.find? (fun k => k.newPa == m.newPa) with
      | some m => migFinish s m
      | none => s
    else s
/-- MIGRATION_PULL, as an event. -/
def execMigrationPull (page line : Nat) (s : State) : Host.Outcome State Fault Refusal := .next (evMigrationPull page line s)

/-- The address and the argument of a page command. -/
def pgiVa (s : State) : Nat := s.pgiaddr.toNat % 2 ^ 60
def pgiLeaf (s : State) : Nat := s.pgiarg.toNat

/-- PGICMD_INVALIDATE (R362, R353): the write, and, while BUSY shows, the end of the command. -/
def evPgicmdInvalidate (n : Nat) (s : State) : State :=
  if s.pgicmd.isSome && s.pgicmd != some (1, n) then s
  else if captured s n (pgiVa s) s.pgiarg.toNat then { s with pgicmd := some (1, n) }
  else { invalidate s n (pgiVa s) s.pgiarg.toNat with pgicmd := none }
/-- PGICMD_INVALIDATE, as an event. -/
def execPgicmdInvalidate (ctx : Nat) (s : State) : Host.Outcome State Fault Refusal := .next (evPgicmdInvalidate ctx s)

/-- A page command has ended. -/
def pgiDone (s : State) : State := { dropFetches s (· == .page) with pgicmd := none }

/-- A migration for the driver: dropped where PGMIG would fault or raise ILLOP, BUSY while its walk is under way and while it would
stall (R351, R357). -/
def pgiMigrate (op n : Nat) (ret : Bool) (s : State) : State :=
  if s.pgicmd.isSome && s.pgicmd != some (op, n) then s
  else if migIllop s n (pgiVa s) (pgiLeaf s) then pgiDone (dropWrite s)
  else match fetchOf s .page n (pgiVa s) 0 with
    | none => { startWalk .page n (pgiVa s) .read s with pgicmd := some (op, n) }
    | some f =>
      if !allServed s f.ids then s
      else if migInside s n (pgiVa s) || (migFault s n (pgiVa s) (pgiLeaf s)).isSome then pgiDone (dropWrite s)
      else if migWaits s n (pgiVa s) (pgiLeaf s) then s
      else pgiDone (migSwitch s n (pgiVa s) (pgiLeaf s) ret)

/-- PGICMD_MIGRATE (R362, R357): the write, and, while BUSY shows, the end of the command. -/
def evPgicmdMigrate (n : Nat) (s : State) : State := pgiMigrate 2 n false s
/-- PGICMD_MIGRATE, as an event. -/
def execPgicmdMigrate (ctx : Nat) (s : State) : Host.Outcome State Fault Refusal := .next (evPgicmdMigrate ctx s)

/-- PGICMD_MIGRATE_RETIRE (R362, R357, R359). -/
def evPgicmdMigrateRetire (n : Nat) (s : State) : State := pgiMigrate 3 n true s
/-- PGICMD_MIGRATE_RETIRE, as an event. -/
def execPgicmdMigrateRetire (ctx : Nat) (s : State) : Host.Outcome State Fault Refusal := .next (evPgicmdMigrateRetire ctx s)

/-- A mask is one of R302: its own bit of [12:7] alone among those, and none below 7. -/
def maskOk (i v : Nat) : Bool := v % 2 ^ 13 == 2 ^ (7 + i)

/-- PROFILE_MASK_WRITE (R303): dropped for profile 0, for a mask that R302 does not allow, and while a live context permits
the profile. -/
def evProfileMaskWrite (stack profile i : Nat) (v : W64) (s : State) : State :=
  let m := v.toNat % 2 ^ 36
  if profile = 0 || decide (8 ≤ profile) || decide (16 ≤ stack) || decide (6 ≤ i) || !maskOk i m ||
      s.ctxs.any (fun p => p.2.live && p.2.profMask.getLsbD profile) then dropWrite s
  else { s with profmask := tabPut s.profmask (48 * stack + 6 * profile + i) (BitVec.ofNat 36 m) }
/-- PROFILE_MASK_WRITE, as an event. -/
def execProfileMaskWrite (stack profile i : Nat) (v : W64) (s : State) : Host.Outcome State Fault Refusal :=
  .next (evProfileMaskWrite stack profile i v s)

end Sys2Proof.Machine
end

