-- ==== Sys2Proof/Machine/Links.lean ====
section
/-! DEFINITION. The links (22_link R394-R407, R410, R414, R415; 23_program_link_exchange R419; 17_barrier R340, R341;
24_program_chained_copy R420, R421; 18_page R360): port registers, link states, incoming requests, messages and chains. -/

namespace Sys2Proof.Machine

/-! ## Link states (R396-R398) -/

/-- Lanes of a link (R396). -/
def linkWidth (n : Nat) : Nat := if n < 16 then 4 else 8

/-- The widest width that a number of trained lanes allows (R396). -/
def widest (lanes : Nat) : Nat := if 4 ≤ lanes then 4 else if 2 ≤ lanes then 2 else lanes

/-- A context's mask holds the link (R396). -/
def holdsLink (n : Nat) (x : Ctx) : Bool := if n < 16 then x.portMask.getLsbD n else x.stackMask.getLsbD (n - 16)

/-- A link enters a state, with the event record of the table when it says so; one that carries requests again takes those that
wait for it at their sources (R396). -/
def enterLink (n : Nat) (st : LState) (record : Bool) (f : Link → Link) (s : State) : State :=
  let s := mapLink s n (fun l => f { l with st := st })
  let s := if st == .up || st == .degraded then sendWaiting s else s
  if record then postAll s (holdsLink n) 3 (n64 n) (n64 st.code) else s

/-- A place behind a link, or its transmit skid. -/
def Place.boundFor (n : Nat) (p : Place) : Bool := linkOf p == some n || p.home == .skid n

/-- A request bound for a link. -/
def Req.boundFor (n : Nat) (r : Req) : Bool := r.place.boundFor n

/-- A core has a chain open on a port, or one whose verdict it awaits. -/
def Core.chainsOn (c : Core) (n : Nat) : Bool :=
  (c.chain.map (fun c => c.port == n)).getD false || c.chains.any (fun c => c.port == n && c.verdict.isNone)

/-- A checkpoint that has been accepted and not begun is to use a link. -/
def Packet.ckptOn (p : Packet) (n : Nat) : Bool :=
  p.kind == 6 && p.fin.isNone && decide (16 ≤ n) && bit1 (at_ (p.body.drop 64) 0 2) (n - 16)

/-- A context holds a claim on a link, or has a request, a message, a chain or a checkpoint outstanding on it (R398). -/
def usesLink (s : State) (n ctx : Nat) : Bool :=
  let l := linkAt s n
  ((l.claim.map (fun k => (kernelAt s k).ctx == ctx)).getD false) || l.tx.any (fun m => m.ctx == ctx) ||
    s.reqs.any (fun r => r.ctx == ctx && r.boundFor n && (r.open? || r.st == .held)) ||
    s.cores.any (fun p => p.2.kernel.isSome && ctxNo s p.2 == ctx && p.2.chainsOn n) ||
    s.kernels.any (fun k => k.2.ctx == ctx && k.2.st == .preempted && k.2.saved.any (fun v => v.2.chainsOn n)) ||
    (ctxAt s ctx).queues.any (fun q => q.packets.any (fun p => p.ckptOn n)) ||
    (decide (16 ≤ n) && (s.ckpt.map (fun c => c.ctx == ctx && !c.dead && c.links.getLsbD (n - 16))).getD false)

/-- A link enters DOWN (R398): the contexts that use it are killed, and what waited for it is discarded: their requests with the
messages on their way to its skid, and their addends that a reduction unit has merged. -/
def linkDown (n : Nat) (record : Bool) (s : State) : State :=
  let hit := (s.ctxs.filter (fun p => p.2.live && usesLink s n p.1)).map Prod.fst
  let s := enterLink n .down record (fun l => { l with lanes := 0, tx := [], deferred := false }) s
  let s := hit.foldl (fun s x => killCtx s x 0x0105 0 noCore none allOnes64) s
  { s with
    reqs := s.reqs.filter (fun r => !(r.boundFor n && hit.contains r.ctx))
    partials := s.partials.filter (fun q => !(q.place.boundFor n && hit.contains q.ctx)) }

/-- LPCMD_TRAIN (R396). -/
def evLpcmdTrain (n : Nat) (s : State) : State :=
  if (linkAt s n).st == .down then enterLink n .training false id s else s
/-- LPCMD_TRAIN, as an event. -/
def execLpcmdTrain (link : Nat) (s : State) : Host.Outcome State Fault Refusal := .next (evLpcmdTrain link s)

/-- LPCMD_QUIESCE (R396): what is in flight completes. -/
def evLpcmdQuiesce (n : Nat) (s : State) : State :=
  if (linkAt s n).flows then enterLink n .quiesced true (fun l => { l with back := (linkAt s n).st, cut := s.nextId }) s
  else s
/-- LPCMD_QUIESCE, as an event. -/
def execLpcmdQuiesce (link : Nat) (s : State) : Host.Outcome State Fault Refusal := .next (evLpcmdQuiesce link s)

/-- LPCMD_RESUME (R396). -/
def evLpcmdResume (n : Nat) (s : State) : State :=
  if (linkAt s n).st == .quiesced then enterLink n (linkAt s n).back true id s else s
/-- LPCMD_RESUME, as an event. -/
def execLpcmdResume (link : Nat) (s : State) : Host.Outcome State Fault Refusal := .next (evLpcmdResume link s)

/-- LPCMD_DISABLE (R396, R398). -/
def evLpcmdDisable (n : Nat) (s : State) : State := if (linkAt s n).st == .down then s else linkDown n false s
/-- LPCMD_DISABLE, as an event. -/
def execLpcmdDisable (link : Nat) (s : State) : Host.Outcome State Fault Refusal := .next (evLpcmdDisable link s)

/-- UP with every lane, or DEGRADED at the width that those trained allow (R396). -/
def comeUp (n lanes : Nat) (s : State) : State :=
  if linkWidth n ≤ lanes then enterLink n .up true (fun l => { l with lanes := linkWidth n }) s
  else enterLink n .degraded true (fun l => { l with lanes := widest lanes }) s

/-- TRAINING_COMPLETE (R396): at least one lane has trained within 100 ms. -/
def evTrainingComplete (n lanes : Nat) (s : State) : State :=
  if (linkAt s n).st == .training && lanes != 0 then comeUp n lanes s else s
/-- TRAINING_COMPLETE, as an event. -/
def execTrainingComplete (link lanes : Nat) (s : State) : Host.Outcome State Fault Refusal := .next (evTrainingComplete link lanes s)

/-- TRAINING_TIMEOUT (R396, R398). -/
def evTrainingTimeout (n : Nat) (s : State) : State :=
  if (linkAt s n).st == .training then linkDown n true s else s
/-- TRAINING_TIMEOUT, as an event. -/
def execTrainingTimeout (link : Nat) (s : State) : Host.Outcome State Fault Refusal := .next (evTrainingTimeout link s)

/-- FLIT_ERROR (R396, R419): a flit arrives in error, or the far side requests a replay (`far`), which alone counts here. -/
def evFlitError (n : Nat) (far : Bool) (s : State) : State :=
  if (linkAt s n).flows then
    enterLink n .replay false (fun l => { l with
      back := (linkAt s n).st, deferred := false, replays := if far then l.replays + 1 else l.replays }) s
  else s
/-- FLIT_ERROR, as an event. -/
def execFlitError (link : Nat) (far : Bool) (s : State) : Host.Outcome State Fault Refusal := .next (evFlitError link far s)

/-- A lane repair begins (R395, R396). -/
def beginRepair (n : Nat) (s : State) : State :=
  enterLink n .repair true (fun l => { l with repairs := l.repairs + 1, deferred := false }) s

/-- REPLAY_COMPLETE (R396, R397). -/
def evReplayComplete (n : Nat) (s : State) : State :=
  let l := linkAt s n
  if l.st != .replay then s else if l.deferred then beginRepair n s else enterLink n l.back false id s
/-- REPLAY_COMPLETE, as an event. -/
def execReplayComplete (link : Nat) (s : State) : Host.Outcome State Fault Refusal := .next (evReplayComplete link s)

/-- REPLAY_FAIL (R396, R397). -/
def evReplayFail (n : Nat) (s : State) : State := if (linkAt s n).st == .replay then beginRepair n s else s
/-- REPLAY_FAIL, as an event. -/
def execReplayFail (link : Nat) (s : State) : Host.Outcome State Fault Refusal := .next (evReplayFail link s)

/-- LANE_REPAIR_TRIGGER (R396, R397): deferred while a replay is outstanding. -/
def evLaneRepairTrigger (n : Nat) (s : State) : State :=
  let l := linkAt s n
  if l.flows then beginRepair n s
  else if l.st == .replay then mapLink s n (fun l => { l with deferred := true })
  else s
/-- LANE_REPAIR_TRIGGER, as an event. -/
def execLaneRepairTrigger (link : Nat) (s : State) : Host.Outcome State Fault Refusal := .next (evLaneRepairTrigger link s)

/-- REPAIR_COMPLETE (R395, R396, R419): lanes come back within 10 ms, and the port replays from the oldest unacknowledged flit. -/
def evRepairComplete (n lanes : Nat) (s : State) : State :=
  if (linkAt s n).st == .repair && lanes != 0 then comeUp n lanes (mapLink s n (fun l => { l with replays := l.replays + 1 }))
  else s
/-- REPAIR_COMPLETE, as an event. -/
def execRepairComplete (link lanes : Nat) (s : State) : Host.Outcome State Fault Refusal := .next (evRepairComplete link lanes s)

/-- REPAIR_TIMEOUT (R396, R398). -/
def evRepairTimeout (n : Nat) (s : State) : State := if (linkAt s n).st == .repair then linkDown n false s else s
/-- REPAIR_TIMEOUT, as an event. -/
def execRepairTimeout (link : Nat) (s : State) : Host.Outcome State Fault Refusal := .next (evRepairTimeout link s)

/-! ## Registers (R394, R395) -/

/-- DEVID_WRITE (R394): dropped while a context is live. -/
def evDevidWrite (v : W64) (s : State) : State :=
  if s.ctxs.any (fun p => p.2.live) then dropWrite s else { s with devid := v.truncate 20 }
/-- DEVID_WRITE, as an event. -/
def execDevidWrite (v : W64) (s : State) : Host.Outcome State Fault Refusal := .next (evDevidWrite v s)

/-- LPCFG_WRITE (R395): dropped while the port is claimed, and for a context whose port mask lacks the port. -/
def evLpcfgWrite (port : Nat) (v : W64) (s : State) : State :=
  let x := v.truncate 12
  if decide (16 ≤ port) then s
  else if (linkAt s port).claim.isSome || !(ctxAt s x.toNat).portMask.getLsbD port then dropWrite s
  else mapLink s port (fun l => { l with peer := BitVec.ofNat 20 (fld v.toNat 51 32), v := bit1 v.toNat 12, ctx := x })
/-- LPCFG_WRITE, as an event. -/
def execLpcfgWrite (port : Nat) (v : W64) (s : State) : Host.Outcome State Fault Refusal := .next (evLpcfgWrite port v s)

/-! ## Incoming requests (R400, R360) -/

/-- The right that an operation of another party needs. -/
def farAcc : FarOp → Acc
  | .read _ => .read
  | .write _ => .write
  | .atom .. => .atom
  | .red op .. => if op = 11 then .fadd else .red

/-- The bytes that it touches; none of an operation that is not supported (R393, R399). -/
def farSize (o : FarOp) : Option Nat :=
  match o with
  | .read n => if n != 0 && decide (n ≤ 64) then some n else none
  | .write bs => if bs != [] && decide (bs.length ≤ 64) then some bs.length else none
  | .atom op sz _ _ => if op ≤ 9 && sz ≤ 1 then some (4 * 2 ^ sz) else none
  | .red op sz _ => if (op ≤ 7 || op = 11) && sz ≤ 1 then some (4 * 2 ^ sz) else none

/-- A supported operation that stays in one line, as those on a stack link do (R414), an atomic on its word. -/
def farFits (o : FarOp) (a : Nat) : Bool :=
  match o, farSize o with
  | _, none => false
  | .atom .., some n => a % n == 0
  | .red .., some n => a % n == 0
  | _, some n => decide (a % 64 + n ≤ 64)

/-- The requests that it makes at homes, one for each line that it reaches: address and operation. An FADD on a cell of a window
is an addend (R295). What a read brings is numbered by its offset. -/
def farWork (w : Option Window) (poison : Bool) (a : Nat) : FarOp → List (Nat × ReqOp)
  | .read n => ((runs 64 a n).foldl (fun (acc : List (Nat × ReqOp) × Nat) r =>
      (acc.1 ++ [(r.1, .read [⟨r.1 % 64, r.2, .bytes acc.2, acc.2⟩])], acc.2 + r.2)) ([], 0)).1
  | .write bs => ((runs 64 a bs.length).foldl (fun (acc : List (Nat × ReqOp) × List Byte) r =>
      (acc.1 ++ [(r.1, .write ((acc.2.take r.2).map some) (if poison then upto r.2 else []))], acc.2.drop r.2)) ([], bs)).1
  | .atom op sz v v2 => [(a, .atom op sz v v2 0)]
  | .red op sz v =>
    match w with
    | some w => [(a, if op = 11 && w.fmt == 8 + sz then .cell w.fmt w.x (sz == 1) v else .red op sz v)]
    | none => [(a, .red op sz v)]

/-- A response leaves on a link (R400, R407, R414). -/
def respond (s : State) (link : Nat) (r : Resp) : State := mapLink s link (fun l => { l with resp := some r })

/-- A refusal: an error response, counted (R400). -/
def refuseFar (s : State) (port : Nat) : State := respond (dropWrite s) port .error

/-- Remote addresses of the message window carry no memory traffic (R393). -/
def messageWindow (a : Nat) : Bool := a / 2 ^ 36 % 16 == 15

/-- An operation of a far party: supported, an atomic on its word; it may reach two lines. -/
def farServable (o : FarOp) (a : Nat) : Bool :=
  match o, farSize o with
  | _, none => false
  | .atom .., some n => a % n == 0
  | .red .., some n => a % n == 0
  | _, some _ => true

/-- INCOMING_REQUEST (R328, R393, R400): taken once the chains that have got their verdict are at their homes, and served when the
port's context is live and the address translates there to HBM, VAULT or SCRATCH with the right; refused with an error response and
counted otherwise. DESIGN CHOICE (the notes' log entry 66): so is a request to the message window that is neither a message nor a
command of a chain. -/
def evIncomingRequest (port addr : Nat) (op : FarOp) (s : State) : State :=
  let l := linkAt s port
  let n := l.ctx.toNat
  if !l.flows || decide (16 ≤ port) || chainWriting s then s
  else if !l.v || !(ctxAt s n).live || !farServable op addr || messageWindow addr then refuseFar s port
  else
    let w := sendWalks (.port port) n (some 0) addr ((farSize op).getD 0) s
    let s := w.1
    let work := farWork ((windowAt (ctxAt s n) addr).filter (fun w => (addr - w.base) % 32 == 0)) false addr op
    let pages := work.map (fun k => xlate s n k.1 (farAcc op))
    if pages.all (fun p => match p with
        | .ok p => decide (leafTT p.leaf.toNat ≤ 2)
        | .error _ => false) then
      (work.zip pages).foldl (fun s k => match k.2 with
        | .ok p => sendReqAfter s (.port port) n none (p.place k.1.1) k.1.1 k.1.2 none p.lg w.2
        | .error _ => s) s
    else refuseFar s port
/-- INCOMING_REQUEST, as an event. -/
def execIncomingRequest (port addr : Nat) (op : FarOp) (s : State) : Host.Outcome State Fault Refusal :=
  .next (evIncomingRequest port addr op s)

/-- An access-control entry serves an operation of a requester at an offset (R360). The operations 0-7 of R294 that return nothing
(RED) need its atomic right like the others; FADD does not travel on a stack link (R414). -/
def aclServes (e : AclEntry) (requester off : Nat) (op : FarOp) : Bool :=
  let v := e.toNat
  bit1 v 0 && fld v 27 8 == requester && farFits op off && decide (off < 2 ^ ([16, 21, 30].getD (fld v 47 44) 0)) &&
    (match op with
     | .read _ => bit1 v 1
     | .write _ => bit1 v 2
     | .atom .. => bit1 v 3
     | .red op .. => bit1 v 3 && decide (op ≤ 7))

/-- STACK_LINK_REQUEST (R328, R360, R414): taken once the chains that have got their verdict are at their homes, and served at the
exported frame, or refused on the link. -/
def evStackLinkRequest (link requester entry off : Nat) (op : FarOp) (poison : Bool) (s : State) : State :=
  let e := tabGet 0 s.acl (256 * link + entry)
  if !(linkAt s (16 + link)).flows || decide (16 ≤ link) || decide (256 ≤ entry) || chainWriting s then s
  else if aclServes e requester off op then
    let pa := (fld e.toNat 103 80 * 2 ^ 16 + off) % 2 ^ 40
    (farWork none poison pa op).foldl (fun s k =>
      sendReq s (.link link) (fld e.toNat 43 32) none ⟨.stack (k.1 / 2 ^ 36), k.1, 0⟩ 0 k.2 none) s
  else respond s (16 + link) .error
/-- STACK_LINK_REQUEST, as an event. -/
def execStackLinkRequest (link requester entry off : Nat) (op : FarOp) (poison : Bool) (s : State) :
    Host.Outcome State Fault Refusal := .next (evStackLinkRequest link requester entry off op poison s)

/-! ## Messages (R401, R402) -/

/-- What comes from a device that the port does not accept is dropped and counted (R395, R402). -/
def stranger (l : Link) (dev : Nat) : Bool := l.peer.toNat != dev || !l.v

/-- INCOMING_MESSAGE (R328, R401, R402): taken into the receive skid when it has room and the writes that the host and the far devices
made before are at their homes. -/
def evIncomingMessage (port dev src dst : Nat) (sendr : Bool) (stamp k rows : Nat) (payload : List Byte) (s : State) : State :=
  let l := linkAt s port
  let slots := skidSlots payload.length
  if !l.flows || decide (16 ≤ port) then s
  else if stranger l dev then dropWrite s
  else if decide (64 < slotsOf l.rx + slots) || hostWriting s then s
  else
    let m : Msg := { src := src, dst := dst, sendr := sendr, stamp := stamp % 2 ^ 40, k := k, rows := rows
                     payload := payload, slots := slots, sender := none, from_ := BitVec.ofNat 20 dev, dest := s.devid
                     ctx := l.ctx.toNat, num := s.nextId, chain := none, pages := [] }
    { mapLink s port (fun l => { l with rx := l.rx ++ [m] }) with nextId := s.nextId + 1 }
/-- INCOMING_MESSAGE, as an event. -/
def execIncomingMessage (port dev src dst : Nat) (sendr : Bool) (stamp k rows : Nat) (payload : List Byte) (s : State) :
    Host.Outcome State Fault Refusal := .next (evIncomingMessage port dev src dst sendr stamp k rows payload s)

/-- MESSAGE_ACCEPTED (R401): the far port has accepted the oldest message of the transmit skid. -/
def evMessageAccepted (port : Nat) (s : State) : State :=
  if (linkAt s port).flows then mapLink s port (fun l => { l with tx := l.tx.drop 1 }) else s
/-- MESSAGE_ACCEPTED, as an event. -/
def execMessageAccepted (port : Nat) (s : State) : Host.Outcome State Fault Refusal := .next (evMessageAccepted port s)

/-! ## Chains (R406, R407, R410) -/

/-- CHAIN_STAGING_RESERVED (R406): the far port has reserved the staging that a stalled LCOPY asks for. -/
def evChainStagingReserved (n : Nat) (s : State) : State :=
  mapCore s n (fun c => { c with stall := c.stall.map (fun t =>
    if (t.skid.map SkidWait.stage).getD false then { t with staged := true } else t) })
/-- CHAIN_STAGING_RESERVED, as an event. -/
def execChainStagingReserved (core : Nat) (s : State) : Host.Outcome State Fault Refusal := .next (evChainStagingReserved core s)

/-- The first chain without a verdict gets it. -/
def giveVerdict (v : Verdict) (crc : W32) : List ChainRec → List ChainRec
  | [] => []
  | r :: t => if r.verdict.isNone then { r with verdict := some v, crc := crc } :: t else r :: giveVerdict v crc t

/-- A core awaits a verdict on a port, which can reach it there: the link carries it, or, in QUIESCED, it is in flight (R396), and
the commands have been accepted. -/
def verdictDue (s : State) (n : Nat) (c : Core) : Bool :=
  match c.chains.find? (fun r => r.verdict.isNone) with
  | none => false
  | some r => ((linkAt s r.port).flows || (linkAt s r.port).st == .quiesced) &&
      !sending s n

/-- CHAIN_VERDICT_RETURN (R407, R410): the verdict on the oldest chain of a core whose commands have been accepted; `crc` is
the far CRC, finalised. It reaches the saved state of a core whose kernel has been pre-empted too. -/
def evChainVerdictReturn (n : Nat) (v : Verdict) (crc : W32) (s : State) : State :=
  let give (c : Core) : Core := { c with chains := giveVerdict v crc c.chains }
  if verdictDue s n (coreAt s n) then mapCore s n give
  else match s.kernels.find? (fun k => k.2.st == .preempted && k.2.saved.any (fun q => q.1 == n && verdictDue s n q.2)) with
    | some (k, _) => mapKernel s k (fun kn => { kn with saved := kn.saved.map (fun q => if q.1 = n then (q.1, give q.2) else q) })
    | none => s
/-- CHAIN_VERDICT_RETURN, as an event. -/
def execChainVerdictReturn (core : Nat) (v : Verdict) (crc : W32) (s : State) : Host.Outcome State Fault Refusal :=
  .next (evChainVerdictReturn core v crc s)

/-- The page of a far address in the port's context, for a write to HBM, VAULT or SCRATCH (R400, R407). -/
def chainPage (s : State) (n addr : Nat) : Option Page :=
  match xlate s n addr .write with
  | .error _ => none
  | .ok p => if leafTT p.leaf.toNat ≤ 2 then some p else none

/-- The core of a page of a scratchpad. -/
def Page.scratch? (p : Page) : Option Nat := if leafTT p.leaf.toNat = 2 then some p.core else none

/-- A command of `len` bytes that gives its chain the verdict REFUSED (R407): a byte of its destination or its barrier does not
translate, or the barrier is not on the destination's core. -/
def commandRefused (s : State) (n dest len : Nat) (bar : Option Nat) : Bool :=
  let pages := (runs 65536 dest (max 1 len)).map (fun r => chainPage s n r.1)
  !(ctxAt s n).live || pages.any Option.isNone ||
    match bar with
    | none => false
    | some b => match (chainPage s n b).bind Page.scratch? with
      | some c => pages.any (fun p => p.bind Page.scratch? != some c)
      | none => true

/-- The stretches whose pages a command needs. -/
def commandReads (c : StagedCmd) : List (Nat × Nat) := (c.dest, max 1 c.bytes.length) :: (c.bar.map (fun b => (b, 1))).toList

/-- The verdict on a chain (R407). -/
def verdictOf (c : Staged) (want : W32) : Verdict :=
  if c.bad then .refused else if finalised c.crc != want then .bad else .ok

/-- A sector's bytes leave for their homes, from the port, after the walks of the chain's pages. They belong to a delivery, and answer
nobody. -/
def sendSector (n port id : Nat) (pages : List Page) (dest : Nat) (bs : List Byte) (after : List Nat)
    (acc : State × List (Nat × List Nat)) (i : Nat) : State × List (Nat × List Nat) :=
  let r := sendBytes (.port port) n (some id) pages (dest + 32 * i) ((bs.drop (32 * i)).take 32) [] after acc.1
  (r.1, acc.2 ++ [(i, r.2)])

/-- A command is written (R340, R407, R421): its sectors of 32 bytes, counted from its first byte, leave for their homes in order, and
a delivery to its barrier stays until all of them have been counted. -/
def deliver (n port : Nat) (after : List Nat) (s : State) (c : StagedCmd) : State :=
  let id := s.nextId
  let page := c.bar.bind (chainPage s n)
  let bar := page.bind (fun p => p.scratch?.map (fun k => (k, (p.place (c.bar.getD 0)).addr)))
  let r := (upto ((c.bytes.length + 31) / 32)).foldl
    (sendSector n port id (pagesOver s n c.dest c.bytes.length .write) c.dest c.bytes after) ({ s with nextId := id + 1 }, [])
  { r.1 with deliveries := r.1.deliveries ++ [⟨id, port, n, bar, page.toList, r.2, false⟩] }

/-- The walks that some commands need begin; the numbers of their reads (R351, R407). -/
def commandWalks (n port : Nat) (l : List StagedCmd) (s : State) : State × List Nat :=
  (l.flatMap commandReads).foldl (fun acc r =>
    let w := sendWalks (.port port) n (some 0) r.1 r.2 acc.1
    (w.1, acc.2 ++ w.2)) (s, [])

/-- The bytes of its 64 KiB staging that a port has reserved for chains. -/
def roomTaken (l : List Staged) : Nat := (l.map Staged.room).foldl (· + ·) 0

/-- The chain that a command belongs to, of those staged: a fresh one for the first command, with the bytes that it reserves
(R406). -/
def chainOf (l : List Staged) (src : Nat) (seed : W32) (start : Option Nat) : Option Staged :=
  match start with
  | some len8 => some ⟨src, seed, false, [], 8192 * (len8 % 8 + 1)⟩
  | none => l.find? (fun c => c.src == src)

/-- A command staged (R407). -/
def Staged.stage (c : Staged) (refused : Bool) (k : StagedCmd) : Staged :=
  { c with crc := crc32c c.crc k.bytes, bad := c.bad || refused, cmds := c.cmds ++ [k] }

/-- The final command decides (R407): a command whose pages have gone meanwhile is refused too; the verdict returns to the sender,
and on OK the chain is written. -/
def chainEnds (n port : Nat) (c : Staged) (want : W32) (s : State) : State :=
  let w := commandWalks n port c.cmds s
  let s := w.1
  let c := { c with bad := c.bad || c.cmds.any (fun k => commandRefused s n k.dest k.bytes.length k.bar) }
  let v := verdictOf c want
  let s := respond (mapLink s port (fun l => { l with staging := l.staging.filter (fun o => o.src != c.src) })) port
    (.verdict v (finalised c.crc))
  if v = .ok then c.cmds.foldl (deliver n port w.2) s else s

/-- CHAIN_COMMAND_ARRIVAL (R406, R407): a command is staged. The first of a chain, whose LEN8 is `start`, waits until the port's 64 KiB
have room for the chain, and the final one until the writes made before are at their homes (R328). DESIGN CHOICE (the notes' log entry 66): a command of no chain that is staged, or beyond what its chain has
reserved, is dropped; the spec does not say what becomes of one. -/
def evChainCommandArrival (port dev src : Nat) (seed : W32) (start : Option Nat) (dest : Nat) (bar : Option Nat)
    (final : Option W32) (bytes : List Byte) (s : State) : State :=
  let l := linkAt s port
  let n := l.ctx.toNat
  let others := l.staging.filter (fun c => c.src != src)
  let cmd : StagedCmd := ⟨dest, bar, bytes⟩
  if !l.flows || decide (16 ≤ port) then s
  else if stranger l dev then dropWrite s
  else match chainOf l.staging src seed start with
    | none => s
    | some old =>
      let c := old.stage (commandRefused s n dest bytes.length bar) cmd
      if (start.isSome && decide (65536 < roomTaken others + old.room)) ||
          decide (old.room < ((c.cmds.map (fun k => k.bytes.length)).foldl (· + ·) 0)) ||
          (final.isSome && hostWriting s) then s
      else
        let s := mapLink s port (fun l => { l with staging := others ++ [c] })
        match final with
        | none => (commandWalks n port [cmd] s).1
        | some want => chainEnds n port c want s
/-- CHAIN_COMMAND_ARRIVAL, as an event. -/
def execChainCommandArrival (port dev src : Nat) (seed : W32) (start : Option Nat) (dest : Nat) (bar : Option Nat)
    (final : Option W32) (bytes : List Byte) (s : State) : Host.Outcome State Fault Refusal :=
  .next (evChainCommandArrival port dev src seed start dest bar final bytes s)

/-- SECTOR_DELIVERY (R340, R341, R343, R421): once all bytes of a command's sector `n` have come to their homes, which they do in the
order of their lines, it is one update of the command's barrier, in any order. -/
def evSectorDelivery (id n : Nat) (s : State) : State :=
  match s.deliveries.find? (fun d => d.id == id) with
  | none => s
  | some d =>
    match d.sectors.find? (fun q => q.1 == n) with
    | none => s
    | some q =>
      if !allServed s q.2 || !deliveryNear s d then s
      else
        let rest := d.sectors.filter (fun q => q.1 != n)
        let left := if rest.isEmpty then s.deliveries.filter (fun o => o.id != id)
          else s.deliveries.map (fun o => if o.id = id then { o with sectors := rest } else o)
        let s : State := { s with deliveries := left }
        match d.bar with
        | some (c, a) => barUpdate s c a Bar.sector
        | none => s
/-- SECTOR_DELIVERY, as an event. -/
def execSectorDelivery (id n : Nat) (s : State) : Host.Outcome State Fault Refusal := .next (evSectorDelivery id n s)

end Sys2Proof.Machine
end

