-- ==== Sys2Proof/Machine/Rsa.lean ====
section
/-! DEFINITION. The verification of a firmware signature: RSASSA-PSS with SHA-256 under an RSA-3072 key (01_module R21). -/

namespace Sys2Proof

/-- `b ^ e` modulo `n`, over the low `k` bits of `e`. -/
def powMod (n : Nat) : Nat → Nat → Nat → Nat
  | 0, _, _ => 1 % n
  | k + 1, b, e => powMod n k (b * b % n) (e / 2) * (if e % 2 = 1 then b else 1) % n

/-- The mask generation function MGF1 with SHA-256. -/
def mgf1 (seed : List Byte) (len : Nat) : List Byte :=
  ((upto (len / 32 + 1)).flatMap (fun i => sha256 (seed ++ (leBytes 4 i).reverse))).take len

/-- EMSA-PSS verification of a 384-byte encoded message whose first bit is zero, with a salt of `salt` bytes. -/
def pssVerify (salt : Nat) (digest em : List Byte) : Bool :=
  let masked := em.take 351
  let h := (em.drop 351).take 32
  let db := (masked.zip (mgf1 h 351)).map (fun p => p.1 ^^^ p.2)
  let db := (db.take 1).map (· &&& 0x7F) ++ db.drop 1
  let zeros := 350 - salt
  decide (salt ≤ 350) && decide (em.getD 383 0 = 0xBC) && decide ((em.getD 0 0).toNat < 128) &&
    (db.take zeros).all (· == 0) && (db.getD zeros 0 == 1#8) &&
    decide (h = sha256 (List.replicate 8 0 ++ digest ++ db.drop (zeros + 1)))

/-- The signature `sig` of an image with the given SHA-256 digest is good: the public key (n, e) has the fused hash, and
RSASSA-PSS accepts (R21). DESIGN CHOICE (the notes' log entry 70): the message hash is the image's digest itself. -/
def firmwareGood (n e : Nat) (sig : BitVec 3072) (digest : BitVec 256) : Bool :=
  decide (sha256 (Config.keyBytes n e) = leBytes 32 Config.keyHash.toNat) && decide (2 ^ 3071 ≤ n) && decide (n < 2 ^ 3072) &&
    decide (sig.toNat < n) &&
    pssVerify Config.saltLength (leBytes 32 digest.toNat) (leBytes 384 (powMod n (e.log2 + 1) sig.toNat e)).reverse

end Sys2Proof
end

