-- ==== Sys2Proof/Machine/BootPower.lean ====
section
/-! DEFINITION. Boot, power and attestation (01_module R14, R19-R23; 19_plane R377). -/

namespace Sys2Proof.Machine

/-! ## Boot (R20, R21) -/

/-- A measurement register extended by a digest (R21). DESIGN CHOICE (the notes' log entry 70): the message is the register's 32
bytes, then the digest's, each with the byte of its lowest bits first (R27), and the first byte of the hash is the register's
lowest; R7 would put the first operand into the high bits, and the spec names no byte order of either. -/
def extend (n : Nat) (d : BitVec 256) (s : State) : State :=
  let bs := leBytes 32 (tabGet 0 s.mreg n).toNat ++ leBytes 32 d.toNat
  { s with mreg := tabSet 0 s.mreg n (BitVec.ofNat 256 (leNat (sha256 bs))) }

/-- SUPPLIES_VALID (R20). -/
def evSuppliesValid (s : State) : State := if s.boot == .off then { s with boot := .reset } else s
/-- SUPPLIES_VALID, as an event. -/
def execSuppliesValid (s : State) : Host.Outcome State Fault Refusal := .next (evSuppliesValid s)

/-- PERST_DEASSERT (R20). -/
def evPerstDeassert (s : State) : State := if s.boot == .reset then { s with boot := .romboot } else s
/-- PERST_DEASSERT, as an event. -/
def execPerstDeassert (s : State) : Host.Outcome State Fault Refusal := .next (evPerstDeassert s)

/-- PERST_ASSERT (R20): all state is lost; host memory is the host's, and the schedule and the count of free values are the
model's. -/
def evPerstAssert (s : State) : State := { State.reset with hostMem := s.hostMem, agenda := s.agenda, freeCtr := s.freeCtr }
/-- PERST_ASSERT, as an event. -/
def execPerstAssert (s : State) : Host.Outcome State Fault Refusal := .next (evPerstAssert s)

/-- FIRMWARE_SIGNATURE_CHECK (R20, R21): the signature of the image's SHA-256 digest is verified under the image's public key,
whose hash is fused; the digest is extended into MREG0, or the boot fails. DESIGN CHOICE (the notes' log entry 70): the digest
is itself the message hash of the signature scheme, and is not hashed once more. -/
def evFirmwareSignatureCheck (signer : Signer) (digest : BitVec 256) (s : State) : State :=
  if s.boot != .romboot then s
  else if firmwareGood signer.modulus signer.exponent signer.signature digest then extend 0 digest { s with boot := .measure }
  else { s with boot := .failed, bootstat := 2 }
/-- FIRMWARE_SIGNATURE_CHECK, as an event. -/
def execFirmwareSignatureCheck (signer : Signer) (digest : BitVec 256) (s : State) : Host.Outcome State Fault Refusal :=
  .next (evFirmwareSignatureCheck signer digest s)

/-- MEASURE_DONE (R20): the stages' digests are extended into MREG1-MREG5. -/
def evMeasureDone (digests : List (BitVec 256)) (s : State) : State :=
  if s.boot != .measure then s
  else (digests.zip (upto 5)).foldl (fun s d => extend (1 + d.2) d.1 s) { s with boot := .selftest }
/-- MEASURE_DONE, as an event. -/
def execMeasureDone (digests : List (BitVec 256)) (s : State) : Host.Outcome State Fault Refusal := .next (evMeasureDone digests s)

/-- SELFTEST_DONE (R20, R373, R377): failed cores are fenced, a failed bay with all its cores; failed planes are OFF and PMAP
is set; a failed stack or quadrant ends the boot. What was on its way on a failed plane, or for want of a plane at its source, goes
on under the new PMAP (R367). -/
def evSelftestDone (bad : Failed) (badPlanes : List Nat) (dead : Bool) (s : State) : State :=
  if s.boot != .selftest then s
  else if dead then { s with boot := .failed, bootstat := 3 }
  else
    let off := (upto 8).filter badPlanes.contains
    let ups := (upto 8).filter (fun p => !badPlanes.contains p)
    let s : State := { s with
      boot := .ready, bootstat := if ups.isEmpty then 4 else 1, listed := !ups.isEmpty
      fenced := setInsAll ((bad.cores ++ coresOfBays bad.bays).filter (fun n => decide (n < 1024))) s.fenced
      fencedBays := setInsAll (bad.bays.filter (fun b => decide (b < 64))) s.fencedBays
      planes := (upto 8).map (fun p => (p, if badPlanes.contains p then .off else .up)) }
    sendWaiting { s with
      pmap := bootPmap ups off s.pmap, reqs := off.foldl (fun l n => strandAll n l) s.reqs
      partials := s.partials.filter (fun q => !off.contains q.plane) }
/-- SELFTEST_DONE, as an event. -/
def execSelftestDone (bad : Failed) (badPlanes : List Nat) (dead : Bool) (s : State) : Host.Outcome State Fault Refusal :=
  .next (evSelftestDone bad badPlanes dead s)

/-! ## Power (R14) -/

/-- The envelope and the level below which the gates reopen, in W. -/
def envelope : Nat := 4000
def reopen : Nat := 3800

/-- Every core island runs at its lowest clock. -/
def slowest (s : State) : Bool := (upto 1024).all (fun n => tabGet nominalMhz s.mhz n == 300)

/-- The islands of the module (R11). -/
def islands : Nat := 1120

/-- An island whose clock can be lowered: it is above 0.3 GHz, and it is a core island as long as one of those is (R14). -/
def mayLower (s : State) (n : Nat) : Bool :=
  decide (n < islands) && decide (300 < tabGet nominalMhz s.mhz n) && (decide (n < 1024) || slowest s)

/-- The islands that the controller lowers: those named, which drew most, as far as they can be lowered; where none can, the
first that can (the notes' log entry 51). -/
def toLower (drew : List Nat) (s : State) : List Nat :=
  match drew.filter (mayLower s) with
  | [] => ((upto islands).find? (mayLower s)).toList
  | l => l

/-- POWER_WINDOW_CHECK (R14): over the envelope, the controller lowers clocks of islands by 25 MHz, beginning with the core
islands whose matrix arrays drew most; with every core island at 0.3 GHz it counts the milliseconds that the average stays
over. -/
def evPowerWindowCheck (watts : Nat) (drew : List Nat) (s : State) : State :=
  let above := decide (envelope < watts)
  let s : State := { s with watts := watts, overMs := if above && slowest s then s.overMs + 1 else 0 }
  if above then
    { s with mhz := (toLower drew s).foldl (fun t n => tabPut t n (max 300 (tabGet nominalMhz t n - 25))) s.mhz }
  else s
/-- POWER_WINDOW_CHECK, as an event. -/
def execPowerWindowCheck (watts : Nat) (drew : List Nat) (s : State) : Host.Outcome State Fault Refusal :=
  .next (evPowerWindowCheck watts drew s)

/-- GLOBAL_ISSUE_GATE_CLOSE (R14): after 10 ms over the envelope at the lowest clocks; a THROTTLE record is posted to every
live context. DESIGN CHOICE (the notes' log entry 71): it is posted then alone, and neither when clocks are lowered nor when the
gate reopens. -/
def evGlobalIssueGateClose (s : State) : State :=
  if decide (10 ≤ s.overMs) && !s.pgate then postAll { s with pgate := true } (fun _ => true) 1 (n64 s.watts) 0 else s
/-- GLOBAL_ISSUE_GATE_CLOSE, as an event. -/
def execGlobalIssueGateClose (s : State) : Host.Outcome State Fault Refusal := .next (evGlobalIssueGateClose s)

/-- GLOBAL_ISSUE_GATE_OPEN (R14): the average has fallen below 3,800 W. -/
def evGlobalIssueGateOpen (s : State) : State :=
  if s.pgate && decide (s.watts < reopen) then { s with pgate := false, overMs := 0 } else s
/-- GLOBAL_ISSUE_GATE_OPEN, as an event. -/
def execGlobalIssueGateOpen (s : State) : Host.Outcome State Fault Refusal := .next (evGlobalIssueGateOpen s)

/-! ## The aperture and attestation (R19, R23) -/

/-- The host resizes BAR2: 1 GiB to 1 TiB (R16, R17). APBASE keeps its value (the notes' log entry 50). -/
def bar2Resize (lg : Nat) (s : State) : State := if 30 ≤ lg && lg ≤ 40 then { s with bar2log := lg } else s

/-- APBASE_WRITE (R19): dropped when the base is not a multiple of the BAR2 size in force. -/
def evApbaseWrite (v : W64) (s : State) : State :=
  let b := fld v.toNat 39 30
  if b * 2 ^ 30 % 2 ^ s.bar2log != 0 then dropWrite s else { s with apbase := BitVec.ofNat 10 b }
/-- APBASE_WRITE, as an event. -/
def execApbaseWrite (v : W64) (s : State) : Host.Outcome State Fault Refusal := .next (evApbaseWrite v s)

/-- ATTGO (R19, R23): a report is started; refused outside READY, ignored while one is being built. -/
def evAttgo (v : W64) (s : State) : State :=
  if !bit1 v.toNat 0 || s.attbusy then s
  else if s.boot != .ready then { s with attdone := 2 }
  else { s with attdone := 0, attbusy := true }
/-- ATTGO, as an event. -/
def execAttgo (v : W64) (s : State) : Host.Outcome State Fault Refusal := .next (evAttgo v s)

/-- The ordering code BSX-LK9-A1 in ASCII (00_scope, R23). -/
def orderingCode : List Byte := [0x42, 0x53, 0x58, 0x2D, 0x4C, 0x4B, 0x39, 0x2D, 0x41, 0x31]

/-- The signed bytes of a report (R23). -/
def reportBody (s : State) : List Byte :=
  leBytes 8 0x4B584C3941540001 ++ leBytes 8 Config.serial.toNat ++ orderingCode ++
    leBytes 5 Config.orderingPad.toNat ++ [0x01] ++
    ((upto 4).map (fun i => leBytes 8 (tabGet 0 s.attnonce i).toNat)).flatten ++
    ((upto 8).map (fun i => leBytes 32 (tabGet 0 s.mreg i).toNat)).flatten ++ leBytes 8 Config.firmware.toNat ++
    List.replicate 56 0

/-- ATTESTATION_REPORT_DONE (R23): the report and its signature are written, then ATTDONE. DESIGN CHOICE (the notes' log entry
55): the nonce, ATTADDR and the measurements are those that stand when the report is done, so that a write of ATTNONCE or
ATTADDR while it is being built changes it; the spec does not say when they are taken. -/
def evAttestationReportDone (s : State) : State :=
  if s.attbusy then
    let b := reportBody s
    { s with
      hostMem := s.hostMem.writeN s.attaddr.toNat (b ++ leBytes 384 (Config.signature b).toNat)
      attdone := 1, attbusy := false }
  else s
/-- ATTESTATION_REPORT_DONE, as an event. -/
def execAttestationReportDone (s : State) : Host.Outcome State Fault Refusal := .next (evAttestationReportDone s)

end Sys2Proof.Machine
end

