-- ==== Sys2Proof/Machine/Mmio.lean ====
section
/-! DEFINITION. Writes to the host registers (01_module R16, R17, R19; 05_context R113, R120; 06_queue R126, R127;
14_tensor R303; 18_page R360, R362; 19_plane R378; 22_link R394, R395): each goes to the operation of its register. -/

namespace Sys2Proof.Machine

/-- CTXCMD (R113): an operation on a context; reserved bits or an operation without a meaning give status 3. -/
def ctxCmd (v : Nat) (s : State) : State :=
  let n := fld v 11 0
  if s.ctxpend.isSome then s
  else if v / 2 ^ 16 != 0 then ctxDone s 3 0
  else match fld v 15 12 with
    | 1 => evCtxCreate n s
    | 2 => evCtxSuspend n s
    | 3 => evCtxResume n s
    | 4 => evCtxKill n s
    | 5 => evCtxDestroy n s
    | _ => ctxDone s 3 0

/-- QCTL (R127). -/
def qctl (v : Nat) (s : State) : State :=
  match fld v 3 0 with
  | 1 => evQueueEnable s
  | 2 => evQueueDisable s
  | 3 => evQueueReset (fld v 63 16) s
  | _ => s

/-- PGICMD (R362). -/
def pgiCmd (v : Nat) (s : State) : State :=
  if s.pgicmd.isSome then s
  else match fld v 15 12 with
    | 1 => evPgicmdInvalidate (fld v 11 0) s
    | 2 => evPgicmdMigrate (fld v 11 0) s
    | 3 => evPgicmdMigrateRetire (fld v 11 0) s
    | _ => s

/-- LPCMD (R395). -/
def lpCmd (n v : Nat) (s : State) : State :=
  match fld v 3 0 with
  | 1 => evLpcmdTrain n s
  | 2 => evLpcmdQuiesce n s
  | 3 => evLpcmdResume n s
  | 4 => evLpcmdDisable n s
  | _ => s

/-- A word of a link's block; that of a stack link has no LPCFG. -/
def linkWrite (n o : Nat) (v : W64) (s : State) : State :=
  match o with
  | 0x00 => if n < 16 then evLpcfgWrite n v s else s
  | 0x08 => lpCmd n v.toNat s
  | _ => s

/-- A word of an access-control entry: the bits that can be written (R360). -/
def aclMask (word : Nat) : Nat :=
  match word with
  | 0 => 0x0000FFFF0FFFFF0F
  | 1 => 0x000000FFFFFF0000
  | _ => 0

def aclWrite (o : Nat) (v : W64) (s : State) : State :=
  let i := o / 32
  let w := o % 32 / 8
  let old := (tabGet 0 s.acl i).toNat
  let new := old - fld old (64 * w + 63) (64 * w) * 2 ^ (64 * w) + Nat.land v.toNat (aclMask w) * 2 ^ (64 * w)
  { s with acl := tabSet 0 s.acl i (BitVec.ofNat 256 new) }

/-- A word of a context's register block: the consumer indices (R120). -/
def ctxRegWrite (n o : Nat) (v : W64) (s : State) : State :=
  match o with
  | 0x10 => mapCtx s n (fun x => { x with evcons := v.truncate 32 })
  | 0x20 => mapCtx s n (fun x => { x with ercons := v.truncate 32 })
  | _ => s

/-- The boot, aperture and attestation registers (R19). -/
def bootWrite (o : Nat) (v : W64) (s : State) : State :=
  if 0x40 ≤ o && o < 0x60 then { s with attnonce := tabSet 0 s.attnonce ((o - 0x40) / 8) v }
  else match o with
    | 0x08 => evApbaseWrite v s
    | 0x18 => evAttgo v s
    | 0x28 => { s with attaddr := BitVec.ofNat 64 (v.toNat / 64 * 64) }
    | _ => s

/-- A word of the MSI-X table; a pending vector that it unmasks is raised (R16). DESIGN CHOICE (the notes' log entry 72): BAR4 is
written in aligned words of eight bytes; the spec does not give its access width. -/
def msixWrite (o : Nat) (v : W64) (s : State) : State :=
  if 0x8000 ≤ o then s
  else
    let s := { s with msixTable := s.msixTable.writeN (o / 8 * 8) (leBytes 8 v.toNat) }
    let n := o / 16
    if s.msixPend.contains n && !bit1 (s.msixTable.readLE (16 * n + 12) 4) 0 then
      raiseMsix { s with msixPend := setDel n s.msixPend } n
    else s

/-- A word written to a host register: BAR0 below 2^32, BAR4 from there on. Writes to offsets without a register, and to
registers that are only read, are ignored. -/
def regWrite (o : Nat) (v : W64) (s : State) : State :=
  if 0x100000000 ≤ o then msixWrite (o - 0x100000000) v s
  else if o < 0x1000 then bootWrite o v s
  else if 0x3000 ≤ o && o < 0x3800 then linkWrite ((o - 0x3000) / 64) (o % 64) v s
  else if 0x30000 ≤ o && o < 0x32000 then
    (if o % 64 < 48 then evProfileMaskWrite ((o - 0x30000) / 0x200) (o % 0x200 / 0x40) (o % 0x40 / 8) v s else s)
  else if 0x40000 ≤ o && o < 0x60000 then aclWrite (o - 0x40000) v s
  else if 0x80000 ≤ o && o < 0x100000 then ctxRegWrite ((o - 0x80000) / 128) (o % 128) v s
  else if 0x1000000 ≤ o && o < 0x2000000 then evDoorbellWrite o v s
  else match o with
    | 0x2000 => ctxCmd v.toNat s
    | 0x2008 => { s with ctxdesc := v }
    | 0x2020 => { s with qsel := BitVec.ofNat 64 (v.toNat % 2 ^ 22) }
    | 0x2040 => qctl v.toNat s
    | 0x2048 => pgiCmd v.toNat s
    | 0x2050 => { s with pgiaddr := BitVec.ofNat 64 (v.toNat % 2 ^ 60) }
    | 0x2058 => { s with pgiarg := v }
    | 0x2068 => evPlcmdRetire v s
    | 0x2070 => evDevidWrite v s
    | _ => s

/-- REGISTER_WRITE (R19): a host write to a register. -/
def evRegisterWrite (off : Nat) (v : W64) (s : State) : State := regWrite off v s
/-- REGISTER_WRITE, as an event. -/
def execRegisterWrite (off : Nat) (v : W64) (s : State) : Host.Outcome State Fault Refusal := .next (evRegisterWrite off v s)

end Sys2Proof.Machine
end

