-- ==== Sys2Proof/Machine/Home.lean ====
section
/-! DEFINITION. Requests at their homes (14_tensor R294, R295, R304; 16_phase R324, R330; 17_barrier R336; 18_page R355,
R358, R359; 19_plane R368, R370-R372; 22_link R399, R415; 01_module R17, R19): service, acknowledgement, the planes'
reduction units, remote arrivals, and the host's accesses through BAR2. -/

namespace Sys2Proof.Machine

/-! ## Operations (R294) -/

/-- The new value of a word of 32 or 64 bits: `m` the old one, `v` and `v2` the operands. -/
def atomNew (op sz : Nat) (m : Nat) (v v2 : W64) : Nat :=
  let w := if sz = 1 then 64 else 32
  let b := v.toNat % 2 ^ w
  let f : FFmt := if sz = 1 then .f64 else .f32
  match op with
  | 0 => (m + b) % 2 ^ w
  | 1 => Nat.land m b
  | 2 => Nat.lor m b
  | 3 => Nat.xor m b
  | 4 => if sextI m w ≤ sextI b w then m else b
  | 5 => if sextI m w ≤ sextI b w then b else m
  | 6 => min m b
  | 7 => max m b
  | 8 => b
  | 9 => if m = b then v2.toNat % 2 ^ w else m
  | _ => fAdd f .rne (.ofBits f m) (.ofBits f b)

/-- Bytes of a word. -/
def wordBytes (sz : Nat) : Nat := if sz = 1 then 8 else 4

/-- An addend as a float value (R54). -/
def addendOf (wide : Bool) (v : W64) : FVal :=
  if wide then .ofBits .f64 v.toNat else .ofBits .f32 (v.toNat % 2 ^ 32)

/-! ## The pieces of a read -/

/-- What a piece brings: where only some of its bytes are poisoned, plain bytes come one by one (R300). -/
def bringPiece (p : Piece) (bytes : List Byte) (bad : Nat → Bool) (any : Bool) : List Brought :=
  if any && !(upto p.n).all bad then
    match p.dst with
    | .bytes a => (upto p.n).map (fun i => ⟨p.seq, .bytes (a + i), (bytes.drop i).take 1, bad i⟩)
    | _ => [⟨p.seq, p.dst, bytes, true⟩]
  else [⟨p.seq, p.dst, bytes, any⟩]

/-- The pieces of a line, taken from its bytes with the stores over them; `bad` says that the line's own bytes are poisoned
in a stretch. -/
def readPieces (ps : List Piece) (line : List Byte) (top : List Over) (bad : Nat → Nat → Bool) : List Brought :=
  ps.flatMap (fun p =>
    let o := (top.drop p.off).take p.n
    let at_ (i : Nat) : Over := o.getD i (none, false)
    bringPiece p ((upto p.n).map (fun i => (at_ i).1.getD (line.getD (p.off + i) 0)))
      (fun i => (at_ i).2 || ((at_ i).1.isNone && bad (p.off + i) 1))
      (o.any Prod.snd || (o.any (fun c => c.1.isNone) && bad p.off p.n)))

/-! ## Service at a home of the part -/

/-- A word of registers for every whole aligned word of a write (R348). -/
def mmioWrite (s : State) (a : Nat) (bs : List (Option Byte)) : State :=
  (upto (bs.length / 8)).foldl (fun s i =>
    let w := (bs.drop (8 * i)).take 8
    if w.all Option.isSome then regWrite (a + 8 * i) (n64 (leNat (w.filterMap id))) s else s) s

/-- Bytes reach a place; registers take them word by word. -/
def landBytes (s : State) (p : Place) (bs : List (Option Byte)) (bad : List Nat) : State :=
  if p.home == .mmio then mmioWrite s p.addr bs else placeWriteP s p bs bad

/-- A read-modify-write of `n` bytes at a place: the line is pulled first if its frame is being filled, counts as read and
written, and stays poisoned if it was (R304, R358). -/
def modify (s : State) (p : Place) (n : Nat) (who : Who) (f : Nat → Nat) : State :=
  let s := noticed (touch s p false who) p who
  let m := leNat (placeRead s p n)
  let bad := placePoison s p n
  landBytes (countLine (countLine s p false) p true) p ((leBytes n (f m)).map some) (if bad then upto n else [])

/-- The request with a number. -/
def reqOf (s : State) (id : Nat) : Option Req := s.reqs.find? (fun r => r.id == id)

/-- Whose access a request is, for the records and counts of its home (R151, R363): a partial is its first addend's. -/
def Req.who (s : State) (r : Req) : Who :=
  let own (r : Req) : Who := match r.src with
    | .core n => some (r.ctx, n, r.va)
    | .queue n _ => some (n, noCore, r.va)
    | .port _ => some (r.ctx, noCore, r.va)
    | .part n => some (n, noCore, r.va)
    | _ => none
  match r.op with
  | .part _ _ _ ids => (ids.head?.bind (reqOf s)).bind own
  | _ => own r

/-- A packet enters its ring, if that has room (R137). -/
def ringRoom (s : State) (r : Req) : Bool :=
  match r.op with
  | .enq q _ => decide (0 < roomIn (queueAt s r.ctx q))
  | _ => true

/-- A request applied at its home: what it brings back, and the state. DESIGN CHOICE (the notes' log entry 61): an ATOM that a
core issues after stores of its own which its phase holds acts on the word at the home, and what it returns shows those
stores (R327). -/
def homeServe (r : Req) (s : State) : List Brought × State :=
  let p := r.place
  let w := r.who s
  match r.op with
  | .read ps =>
    let s := readAt s p w
    let line := { p with addr := p.addr / 64 * 64 }
    (readPieces ps (placeRead s line 64) (overlay s r.src r.id p)
      (fun o n => placePoison s { line with addr := line.addr + o } n), s)
  | .fetch => ([], readAt s p w)
  | .write bs bad =>
    let t := touch s p (fullLine p bs) w
    ([], landBytes (countLine (if fullLine p bs then t else noticed t p w) p true) p bs bad)
  | .atom op sz v v2 dst =>
    let n := wordBytes sz
    let t := touch s p false w
    ([⟨0, .bytes dst, leBytes 8 (leNat (ownView t r.src r.id p n)), placePoison t p n⟩],
      modify t p n w (fun m => atomNew op sz m v v2))
  | .red op sz v => ([], modify s p (wordBytes sz) w (fun m => atomNew op sz m v 0))
  | .cread fmt x dst =>
    let s := countLine (readAt s p w) p true
    ([⟨0, .bytes dst, leBytes 8 (cellRead fmt x (leNat (ownView s r.src r.id p 32))), placePoison s p 32⟩], s)
  | .cell fmt x wide v => ([], modify s p 32 w (fun m => cellAdd fmt x m (addendOf wide v)))
  | .part fmt x val _ => ([], modify s p 32 w (fun m => cellMerge fmt x m val))
  | .arrive =>
    match p.home with
    | .scratch n => ([], barUpdate s n p.addr Bar.arrive)
    | _ => ([], s)
  | .enq q packet => ([], enqueue s r.ctx q packet)
  | .msg m =>
    match p.home with
    | .skid n => ([], mapLink s n (fun l => { l with tx := l.tx ++ [{ m with sender := r.core? }] }))
    | _ => ([], s)
  | .token .. => ([], s)

/-! ## Home faults outside phases (R355, R399) -/

/-- The record of a dropped store, atomic or reduction; the host's own accesses belong to no context. -/
def lateRecord (r : Req) (s : State) : State :=
  match r.src with
  | .host => s
  | _ => postError s r.ctx 0x0101 0 (r.core?.getD noCore) (n64 r.va) 0

/-- The records of a refused partial: one for each of its addends. -/
def lateRecords (ids : List Nat) (s : State) : State :=
  ids.foldl (fun t id => ((reqOf s id).map (fun r => lateRecord r t)).getD t) s

/-- A request refused: loads and results of atomics land poisoned, the rest is dropped. -/
def refuse (r : Req) (s : State) : List Brought × State :=
  let free := { s with freeCtr := s.freeCtr + 64 }
  match r.op with
  | .read ps => (readPieces ps (freeBytes 64 s.freeCtr) [] (fun _ _ => true) |>.map (fun b => { b with poison := true }), free)
  | .fetch => ([], s)
  | .atom _ _ _ _ dst => ([⟨0, .bytes dst, freeBytes 8 s.freeCtr, true⟩], lateRecord r free)
  | .cread _ _ dst => ([⟨0, .bytes dst, freeBytes 8 s.freeCtr, true⟩], lateRecord r free)
  | .part _ _ _ ids => ([], lateRecords ids s)
  | _ => ([], lateRecord r s)

/-- A word that a far device sends back, with the stores over it that the source held before (R327). -/
def overWord (s : State) (r : Req) (word : List Byte) : List Byte :=
  (word.zip ((overlay s r.src r.id r.place).drop (r.place.addr % 64))).map (fun b => b.2.1.getD b.1)

/-- A request accepted by a far device, with the line or the old value that it sends back; of bytes that it does not send
nothing is stated. -/
def farServe (r : Req) (data : List Byte) (bad : Bool) (s : State) : List Brought × State :=
  let free := { s with freeCtr := s.freeCtr + 64 }
  let line := data ++ freeBytes (64 - data.length) s.freeCtr
  match r.op with
  | .read ps => (readPieces ps line (overlay s r.src r.id r.place) (fun _ _ => bad), free)
  | .atom _ sz _ _ dst =>
    ([⟨0, .bytes dst, overWord s r (line.take (wordBytes sz)) ++ List.replicate (8 - wordBytes sz) 0, bad⟩], free)
  | .enq q _ => ([], advanceTail s r.ctx q)
  | _ => ([], s)

/-! ## What becomes of a request -/

/-- The value of a token that a poll has brought, if it is the one that is waited for (R132, R137). -/
def Poll.answer (t : Poll) (id : Nat) (l : List Brought) : Poll :=
  if t = .asked id then .got (leNat (l.flatMap Brought.bytes)) else t

/-- A read of the host through BAR2 has brought its bytes: they return with the last of its requests (R17). -/
def barAnswer (id : Nat) (l : List Brought) (s : State) : State :=
  let reads := s.barReads.map (fun b => if b.left.contains id then
    { b with left := setDel id b.left, land := sortBrought (b.land ++ l) } else b)
  { s with
    barReads := reads.filter (fun b => !b.left.isEmpty)
    barResp := ((reads.find? (fun b => b.left.isEmpty)).map (fun b =>
      (b.off, b.land.flatMap Brought.bytes, b.land.any Brought.poison))).or s.barResp }

/-- What a request brings back reaches the transfer that sent it, the wait that polls a token, the COPY that reads, what the part reads
for itself, or the host. -/
def answer (r : Req) (l : List Brought) (s : State) : State :=
  match r.src, r.xfer with
  | .core n, some x => mapCore s n (fun c => { c with xfers := c.xfers.map (fun y =>
      if y.id = x then { y with land := y.land ++ l, left := y.left.filter (fun i => i != r.id) } else y) })
  | .core n, none =>
    if r.op.isLoad then mapCore s n (fun c => { c with stall := c.stall.map (fun t => { t with poll := t.poll.answer r.id l }) }) else s
  | .queue n q, some k => mapPacket s n q k (fun p => { p with land := p.land ++ l })
  | .queue n q, none => mapQueue s n q (fun u => { u with poll := u.poll.answer r.id l })
  | .host, _ => if r.op.isLoad then barAnswer r.id l s else s
  | .part _, _ => { s with fetches := s.fetches.map (fun f => if f.ids.contains r.id then { f with land := f.land ++ l } else f) }
  | _, _ => s

def setReqSt (s : State) (id : Nat) (st : ReqSt) : State :=
  { s with reqs := s.reqs.map (fun r => if r.id = id then { r with st := st } else r) }

def dropReq (s : State) (id : Nat) : State := { s with reqs := s.reqs.filter (fun r => r.id != id) }

/-- A request has been applied, and its acknowledgement comes back on the plane that it took (R372). -/
def setApplied (s : State) (id : Nat) : State :=
  { s with reqs := s.reqs.map (fun r => if r.id = id then { r with st := .applied, via := r.st.onPlane } else r) }

/-- A packet whose requests have all been served ends as its step has found (R132, R134). -/
def closePacket (r : Req) (s : State) : State :=
  match r.src, r.xfer with
  | .queue n q, some k =>
    match ((queueAt s n q).packets.find? (fun p => p.id == k)).bind Packet.ends with
    | some f => if s.reqs.any (Req.ofPacket n q k) then s else finishPacket s n q k f.1 f.2.1 f.2.2
    | none => s
  | _, _ => s

/-- The response to a far requester: the data of a read or the old value of an atomic with the line's poison, an
acknowledgement, or the refusal (R400, R414). What belongs to a chain is answered by the verdict alone (R407). -/
def respondTo (r : Req) (l : List Brought) (refused : Bool) (s : State) : State :=
  let resp : Resp := if refused then .error
    else if r.op.isLoad || (match r.op with | .atom .. => true | _ => false) then .data (l.flatMap Brought.bytes) (l.any Brought.poison)
    else .done
  match r.src, r.xfer with
  | .port n, none => respond s n resp
  | .link n, none => respond s (16 + n) resp
  | _, _ => s

/-- A request is done with: its source has what it brings, and the completion cache keeps it until the source has received the
acknowledgement, a read like any other (R372). -/
def done (r : Req) (l : List Brought) (refused : Bool) (s : State) : State :=
  closePacket r (setApplied (respondTo r l refused (answer r l s)) r.id)

/-- An addend of a partial that has been applied, or refused, is acknowledged (R371). -/
def addendDone (refused : Bool) (s : State) (id : Nat) : State :=
  match reqOf s id with
  | some r => done r [] refused s
  | none => s

/-- A served request; a partial acknowledges its addends (R371). -/
def settle (r : Req) (refused : Bool) (out : List Brought × State) : State :=
  match r.op with
  | .part _ _ _ ids => ids.foldl (addendDone refused) (dropReq out.2 r.id)
  | _ => done r out.1 refused out.2

/-- A request that a phase holds is accepted into its store buffer, and the acknowledgement of that comes back on the plane that it
took (R372); at a frame that has been retired it is a home fault, and cancels the phase (R324). -/
def hold (r : Req) (kg : Nat × Nat) (s : State) : State :=
  let s := answer r [] s
  let s := { s with reqs := s.reqs.map (fun q => if q.id = r.id then { q with st := .held, via := q.st.onPlane } else q) }
  if isRetired s r.place then cancelPhase s kg.1 kg.2 true (r.core?.map (fun n => (n, r.va, 1))) else s

/-! ## Reduction units (R370, R371) -/

/-- A partial's message on its way to a line. -/
def partFor (p : Place) (r : Req) : Bool :=
  r.isPart && sameL r.place p && (match r.st with
    | .plane _ => true
    | _ => false)

/-- A request reaches its home where it is served, dropped or held. -/
def arriveHome (r : Req) (far : FarResp) (s : State) : State :=
  if isFar r.place then
    match far with
    | .ok data => settle r false (farServe r data false s)
    | .poison data => settle r false (farServe r data true s)
    | .refused => settle r true (refuse r s)
  else if isRetired s r.place then settle r true (refuse r s)
  else settle r false (homeServe r s)

/-- The partials for a line go ahead of the request that closes them (R370). -/
def closeLine (p : Place) (far : FarResp) (s : State) : State :=
  let s := (s.partials.filter (fun q => sameL q.place p)).foldl sendPartial s
  (s.reqs.filter (partFor p)).foldl (fun s r => arriveHome r far s) s

/-- Two packets for one queue of a context. -/
def sameQueue (q r : Req) : Bool :=
  match q.op, r.op with
  | .enq a _, .enq b _ => a == b && q.ctx == r.ctx
  | _, _ => false

/-- A request keeps another from its home: one that the other follows; and, of those sent before it, one of the same source for the same
line or packet for the same queue (R137, R368), a write of the part's own to the line for the same context (R115), and a write of the
host or a link peer that waited for a core that was away (R328, R356). Addends merged for the line go ahead in their partial. -/
def Req.keeps (q r : Req) : Bool :=
  q.waiting && (r.after.contains q.id ||
    (decide (q.id < r.id) && !(match q.st with | .merged _ => true | _ => false) &&
      ((q.src == r.src && (sameL q.place r.place || sameQueue q r)) ||
        (((q.src == .part r.ctx && !q.op.isLoad) || q.owed) && sameL q.place r.place))))

/-- Such a request is still on its way. -/
def inTheWay (s : State) (r : Req) : Bool := s.reqs.any (fun q => q.keeps r)

/-- Its link, if it has one, carries the request: in QUIESCED those in flight complete (R396). -/
def wayOpen (s : State) (r : Req) : Bool := !linkHeld s r.place r.id

/-- A request in a plane, or on the bay fabric, that nothing keeps from its home. -/
def ready (s : State) (r : Req) : Bool :=
  (match r.st with | .plane _ => true | _ => false) && !inTheWay s r

/-- In a rehash a request on a plane goes back to its source when what keeps it from its home is held there, or at a link, or is a ring
without room: the planes drain what can go on (R375, step 3). -/
def drainsBack (s : State) (r : Req) : Bool :=
  s.rehash && r.st.onPlane.isSome &&
    (!ringRoom s r || s.reqs.any (fun q => q.keeps r && (q.st == .source || linkHeld s q.place q.id)))

/-- A request goes back to its source; a partial's message is dissolved, and its addends go back. -/
def sentBack (r : Req) (s : State) : State :=
  match r.op with
  | .part _ _ _ ids => ids.foldl (fun s id => setReqSt s id .source) (dropReq s r.id)
  | _ => setReqSt s r.id .source

/-- Address and page of the slot at QTAIL, where a packet that no phase holds has come to another one (R137). -/
def slotMoved (s : State) (r : Req) : Option (Nat × Page) :=
  match r.op with
  | .enq q _ => if r.ph.isSome then none else (tailSlot s r.ctx q).filter (fun t => t.2.place t.1 != r.place)
  | _ => none

/-- The packet goes on to that slot, after the walk to it (R351). -/
def toSlot (r : Req) (va : Nat) (p : Page) (s : State) : State :=
  let w := sendWalks (.part r.ctx) r.ctx none va 64 s
  { w.1 with reqs := w.1.reqs.map (fun q => if q.id = r.id then
      { q with place := p.place va, va := va, lg := p.lg, after := w.2, st := sentSt w.1 r.src r.ctx (p.place va) r.id } else q) }

/-- An addend on a plane goes through the plane's reduction unit, unless a phase holds it (R370, R297). -/
def Req.toUnit (r : Req) : Bool :=
  r.op.merges r.ph && (match r.st with
    | .plane (some _) => true
    | _ => false)

/-- An arrival on a barrier. -/
def Req.isArrival (r : Req) : Bool := r.op == .arrive

/-- A request that was applied or accepted, and whose acknowledgement a lost plane took with it, is replayed: the completion cache of
its home answers it, and nothing is applied again (R372, R375). -/
def echoed (s : State) (r : Req) : State :=
  if !s.rehash && ((routeOf s r.src r.place).map (fun n => planeSt s n == .up)).getD true then
    { s with reqs := s.reqs.map (fun q => if q.id = r.id then
        { q with st := if q.st == .held then .held else .applied, via := routeOf s r.src r.place, lost := false } else q) }
  else s


/-- HOME_REQUEST (R294, R299, R358, R368, R372): a request reaches its home. It is applied there, or accepted into the store
buffer of the phase that holds it; a token of a phase waits there for the others. One for the saved state of a pre-empted core goes
back to its source (R356), and a packet whose slot another one has taken goes on to the next (R137). -/
def evHomeRequest (id : Nat) (far : FarResp) (s : State) : State :=
  match reqOf s id with
  | none => s
  | some r =>
    if r.st == .echo || r.lost then echoed s r
    else if drainsBack s r then sentBack r s
    else if !ready s r || r.toUnit || r.isArrival then s
    else if awayHome s r.ctx r.place then sentBack r s
    else if r.op.isToken then setReqSt s id .held
    else match r.ph, slotMoved s r with
      | some kg, _ => hold r kg (closeLine r.place (.ok []) s)
      | none, some (va, p) => toSlot r va p s
      | none, none =>
        if wayOpen s r && ringRoom s r then arriveHome r far (if r.isPart then s else closeLine r.place far s) else s
/-- HOME_REQUEST, as an event. -/
def execHomeRequest (id : Nat) (far : FarResp) (s : State) : Host.Outcome State Fault Refusal := .next (evHomeRequest id far s)

/-- Requests of a group's phase (R315). -/
def phaseReqs (s : State) (k g : Nat) : List Req := s.reqs.filter (fun r => r.ph == some (k, g))

/-- A prepare token, or a commit token, of the phase of a group. -/
def Req.tokenOf (k g : Nat) (commit : Bool) (r : Req) : Bool := r.op == .token k g commit

/-- Addends of the cores of a group, outside its phases, are among some requests. -/
def addendsOf (s : State) (cores : List Nat) (ids : List Nat) : Bool :=
  ids.any (fun id => ((reqOf s id).bind Req.core?).any cores.contains)

/-- A partial on its way to its home holds some of them. -/
def partOf (s : State) (cores : List Nat) (r : Req) : Bool :=
  r.waiting && (match r.op with
    | .part _ _ _ ids => addendsOf s cores ids
    | _ => false)

/-- The tokens of a phase leave for a home, one for each bucket of lines, so that one goes on every plane that is in use (R315, R367);
they follow the partials that hold addends of the group's cores. DESIGN CHOICE (the notes' log entry 74): their source is the group's
first core, and their addresses are the first eight lines of the home; the spec gives tokens neither. -/
def sendTokens (k g : Nat) (commit : Bool) (s : State) (h : Home) : State :=
  let cores := (groupAt s k g).cores
  let after := (s.reqs.filter (partOf s cores)).map Req.id
  (upto 8).foldl (fun s b =>
    sendReqAfter s (.core (cores.headD noCore)) (kernelAt s k).ctx none ⟨h, 64 * b, 0⟩ 0 (.token k g commit) none 0 after) s

/-- The tokens leave for some homes; partials that hold addends which they have to pass go ahead (R370). -/
def tokensOut (k g : Nat) (commit : Bool) (homes : List Home) (s : State) : State :=
  let cores := (groupAt s k g).cores
  homes.foldl (sendTokens k g commit) ((s.partials.filter (fun q => addendsOf s cores q.ids)).foldl sendPartial s)

/-- The homes of some requests, each once. -/
def homesOf (l : List Req) : List Home := l.foldl (fun hs r => if hs.contains r.place.home then hs else hs ++ [r.place.home]) []

/-- The decision of a phase: once every home that holds something of it has voted to commit, and the votes have all come back with the
acknowledgements of the prepare tokens, the commit tokens go out (R315). -/
def decided (k g : Nat) (s : State) : State :=
  match (groupAt s k g).step with
  | .voting voted =>
    let homes := homesOf ((phaseReqs s k g).filter (fun r => r.st == .held))
    if homes.all (fun h => voted.contains h.code) && !s.reqs.any (Req.tokenOf k g false) then
      mapGroup (tokensOut k g true homes s) k g (fun gr => { gr with step := .committing })
    else s
  | _ => s

/-- HOME_ACK (R315, R371, R372): the source has received an acknowledgement, and the completion cache forgets the request; that of a
store's acceptance into a phase store buffer leaves the store held. Stores that a commit has applied stay until it is complete, and
the last acknowledgement of a phase's prepare tokens decides it. -/
def evHomeAck (id : Nat) (s : State) : State :=
  match reqOf s id with
  | none => s
  | some r =>
    if r.st == .held then { s with reqs := s.reqs.map (fun q => if q.id = id then { q with via := none } else q) }
    else if r.st == .applied && r.ph.isNone then
      match r.op with
      | .token k g _ => decided k g (dropReq s id)
      | _ => dropReq s id
    else s
/-- HOME_ACK, as an event. -/
def execHomeAck (id : Nat) (s : State) : Host.Outcome State Fault Refusal := .next (evHomeAck id s)

/-- An addend added to a partial. -/
def Partial.add (p : Partial) (id : Nat) (a : FVal) : Partial := { p with val := cellAdd p.fmt p.x p.val a, ids := p.ids ++ [id] }

/-- A fresh partial cell of a window's X. -/
def Partial.fresh (plane : Nat) (r : Req) (fmt : Nat) (x : BitVec 16) : Partial :=
  ⟨plane, r.place, r.ctx, fmt, x, mkCell 0 fmt 0 x.toNat 0, 0, []⟩

/-- REDUCTION_ADDEND (R370): an addend is merged in the reduction unit of its plane; the 256th sends the partial. -/
def evReductionAddend (id : Nat) (s : State) : State :=
  match reqOf s id with
  | none => s
  | some r =>
    match r.op, r.st with
    | .cell fmt x wide v, .plane (some p) =>
      if drainsBack s r then sentBack r s
      else if r.ph.isSome || !ready s r then s
      else
        let here (q : Partial) : Bool := q.plane == p && samePlace q.place r.place
        let old := (s.partials.find? here).getD (Partial.fresh p r fmt x)
        let new := old.add id (addendOf wide v)
        let s := setReqSt { s with partials := s.partials.filter (fun q => !here q) ++ [new] } id (.merged p)
        if 256 ≤ new.ids.length then sendPartial s new else s
    | _, _ => s
/-- REDUCTION_ADDEND, as an event. -/
def execReductionAddend (id : Nat) (s : State) : Host.Outcome State Fault Refusal := .next (evReductionAddend id s)

/-- A PFENCE of the core of an addend that a partial holds is waiting for it (R370). -/
def fencedFor (s : State) (q : Partial) : Bool :=
  q.ids.any (fun id => match (reqOf s id).bind Req.core? with
    | some n => ((coreAt s n).stall.map Stall.fence).getD false
    | none => false)

/-- REDUCTION_PARTIAL_TIMEOUT (R370): 64 clk after its first addend, or when a PFENCE has to pass its addends, a partial is sent.
`addr` is the fabric address of its cell. -/
def evReductionPartialTimeout (plane addr : Nat) (s : State) : State :=
  match s.partials.find? (fun q => q.plane == plane && q.place.fa == addr && (decide (64 ≤ q.age) || fencedFor s q)) with
  | some p => sendPartial s p
  | none => s
/-- REDUCTION_PARTIAL_TIMEOUT, as an event. -/
def execReductionPartialTimeout (plane addr : Nat) (s : State) : Host.Outcome State Fault Refusal :=
  .next (evReductionPartialTimeout plane addr s)

/-- REMOTE_ARRIVAL (R336, R341): an arrival sent by BARR.G reaches its barrier. -/
def evRemoteArrival (id : Nat) (s : State) : State :=
  match reqOf s id with
  | none => s
  | some r =>
    if !r.isArrival then s
    else if drainsBack s r then sentBack r s
    else if !ready s r then s
    else if awayHome s r.ctx r.place then sentBack r s
    else arriveHome r .refused (closeLine r.place .refused s)
/-- REMOTE_ARRIVAL, as an event. -/
def execRemoteArrival (id : Nat) (s : State) : Host.Outcome State Fault Refusal := .next (evRemoteArrival id s)

/-! ## BAR2 (R17, R19, R417) -/

/-- BAR2_ACCESS (R17, R19): a read or write of the host through its aperture, of any length, enters at the PCIe port line by line; the
bytes of a read return once all its lines have been read. Writes wait while a checkpoint holds them (R417). DESIGN CHOICE (the notes'
log entry 79): a read is not held, and passes the writes that are. -/
def evBar2Access (off : Nat) (op : FarOp) (s : State) : State :=
  match op with
  | .read n =>
    if n = 0 || decide (2 ^ s.bar2log < off + n) then s
    else
      let r := barSend off n (fun a o k => .read [⟨a % 64, k, .bytes o, o⟩]) s
      { r.1 with barReads := r.1.barReads ++ [⟨off, r.2, []⟩] }
  | .write bs =>
    if decide (2 ^ s.bar2log < off + bs.length) then s
    else match s.ckpt with
      | some c => { s with ckpt := some { c with held := c.held ++ [(off, bs)] } }
      | none => barWrite s off bs
  | _ => s
/-- BAR2_ACCESS, as an event. -/
def execBar2Access (off : Nat) (op : FarOp) (s : State) : Host.Outcome State Fault Refusal := .next (evBar2Access off op s)

end Sys2Proof.Machine
end

