-- ==== Sys2Proof/Machine/Publish.lean ====
section
/-! DEFINITION. The commit of a phase (16_phase R311, R315, R316, R324; 08_group R167-R171): drain and prepare, the votes of
the homes, the commit at each home, and its completion. -/

namespace Sys2Proof.Machine

/-! ## What a phase holds -/

/-- Those held at a home. -/
def heldAt (s : State) (k g home : Nat) : List Req := (phaseReqs s k g).filter (fun r => r.st == .held && r.place.home.code == home)

/-- The index of the core that issued a request. -/
def Req.cidx (s : State) (r : Req) : Nat := ((r.core?.map (coreAt s)).map Core.cidx).getD 0

/-- Requests in the order of a commit: by the index of their core, then by issue (R316). -/
def commitOrder (s : State) (l : List Req) : List Req :=
  (upto 16).flatMap (fun i => l.filter (fun r => r.cidx s == i))

/-! ## Tokens (R315, R372) -/

/-- The tokens of a kind that are on their way to a home or wait there. -/
def tokensFor (s : State) (k g : Nat) (commit : Bool) (home : Nat) : List Req :=
  s.reqs.filter (fun r => r.tokenOf k g commit && (r.waiting || r.st == .held) && r.place.home.code == home)

/-- They have all come to the home. -/
def tokensIn (s : State) (l : List Req) : Bool := !l.isEmpty && l.all (fun r => r.st == .held || ready s r)

/-- They are answered: each goes back on the plane that its line takes now. -/
def answerTokens (s : State) (l : List Req) : State := l.foldl (fun s r => echoed (setReqSt s r.id .echo) r) s

/-! ## Drain and prepare (R315, steps 1 and 2) -/

/-- The engines of a core have finished what was issued in the phase. -/
def Core.phaseDrained (c : Core) : Bool :=
  c.mops.all (fun m => !m.ph) && c.xfers.all (fun x => !x.ph) && c.kchks.all (fun k => !k.ph) && c.inject.all (fun b => !b)

/-- The drain is complete: what the phase holds has been accepted at its homes, as its sources know. -/
def pubDrained (s : State) (k g : Nat) : Bool :=
  let kn := kernelAt s k
  let gr := groupAt s k g
  (phaseReqs s k g).all (fun r => !r.waiting && !(r.st == .held && r.open?)) &&
    gr.cores.all (fun n => (coreAt s n).tl == 0 && (coreAt s n).phaseDrained) &&
    (kn.level != 2 || gr.item == some kn.luo)

/-- PHASE_PREPARE (R315): the drain is complete and the prepare tokens go out, to every home that holds something of the phase. -/
def evPhasePrepare (k g : Nat) (s : State) : State :=
  let kn := kernelAt s k
  let gr := groupAt s k g
  if gr.ph == .prepare && gr.steady && kn.st == .running && !halting s kn && pubDrained s k g then
    decided k g (mapGroup (tokensOut k g false (homesOf (phaseReqs s k g)) s) k g (fun gr => { gr with step := .voting [] }))
  else s
/-- PHASE_PREPARE, as an event. -/
def execPhasePrepare (k g : Nat) (s : State) : Host.Outcome State Fault Refusal := .next (evPhasePrepare k g s)

/-- Poison in what a store holds. -/
def Req.spoiled (r : Req) : Bool :=
  match r.op with
  | .write _ bad => !bad.isEmpty
  | _ => false

/-- The reason for which a home votes to abort on a held store, if any (R324, R387): the frame is retired, the far side
refuses, the data is in error. -/
def homeFault (s : State) (far : FarResp) (r : Req) : Option Nat :=
  if isRetired s r.place then some 1
  else if isFar r.place && far == .refused then some 2
  else if r.spoiled then some 3
  else none

/-- HOME_PREPARE_VOTE (R315, R324): a home that all its prepare tokens have reached checks the stores that it holds and votes; an
abort cancels the phase. -/
def evHomePrepareVote (k g home : Nat) (far : FarResp) (s : State) : State :=
  let held := commitOrder s (heldAt s k g home)
  let tokens := tokensFor s k g false home
  match (groupAt s k g).step, held with
  | .voting voted, r :: _ =>
    if voted.contains home || !tokensIn s tokens || !wayOpen s r then s
    else match held.findSome? (fun r => (homeFault s far r).map (fun why => (r, why))) with
      | some (r, why) => cancelPhase s k g true (r.core?.map (fun n => (n, r.va, why)))
      | none => mapGroup (answerTokens s tokens) k g (fun gr => { gr with step := .voting (setIns home voted) })
  | _, _ => s
/-- HOME_PREPARE_VOTE, as an event. -/
def execHomePrepareVote (k g home : Nat) (far : FarResp) (s : State) : Host.Outcome State Fault Refusal :=
  .next (evHomePrepareVote k g home far s)

/-! ## Commit (R316) -/

/-- A held store applied, partials of its line ahead of it; one for a far device goes out and is accepted there (R370). -/
def applyHeld (s : State) (r : Req) : State :=
  let s := closeLine r.place (.ok []) s
  setReqSt (if isFar r.place then (farServe r [] false s).2 else (homeServe r s).2) r.id .applied

/-- A held ENQ or QSIG (R137). -/
def Req.isAct (r : Req) : Bool :=
  match r.op with
  | .enq .. => true
  | .red .. => r.xfer.isNone
  | _ => false

/-- One request of a commit applied, and whether the acts after it wait: those after the first whose ring has no room or whose home
cannot be reached do (R137). -/
def applyNext (acc : Bool × State) (r : Req) : Bool × State :=
  if r.isAct && (acc.1 || !ringRoom acc.2 r || !wayOpen acc.2 r || awayHome acc.2 r.ctx r.place) then (true, acc.2)
  else (acc.1, applyHeld acc.2 r)

/-- The requests of a commit applied in its order. -/
def applyAll (l : List Req) (s : State) : State := (l.foldl applyNext (false, s)).2

/-- Something else that the phase held is done now (R123, R305). -/
def doHeld (ctx : Nat) (cores : List Nat) (s : State) (h : Nat × HeldAct) : State :=
  let n := cores.getD h.1 noCore
  match h.2 with
  | .evpost code a b => postEvent s ctx 6 code n a b
  | .digest bs => mapCore s n (fun c => { c with digest := crc64 c.digest bs })

/-- Everything of the sort, once. -/
def actsDone (k g : Nat) (s : State) : State :=
  let gr := groupAt s k g
  mapGroup (gr.held.foldl (doHeld (kernelAt s k).ctx gr.cores) s) k g (fun gr => { gr with held := [] })

/-- What a commit does once, with the last of its homes: its records and digest bytes (R123, R305, R316). -/
def lastDone (k g : Nat) (s : State) : State :=
  if s.reqs.any (fun r => r.tokenOf k g true && (r.waiting || r.st == .held)) then s else actsDone k g s

/-- The homes that a phase is applied at in one step with a home: those that hold its ENQs and QSIGs, with each other, as these are
performed in their order of issue (R137, R316). -/
def commitWith (s : State) (k g home : Nat) : List Nat :=
  let acts := ((phaseReqs s k g).filter (fun r => r.st == .held && r.isAct)).map (fun r => r.place.home.code)
  if acts.contains home then setInsAll acts [] else [home]

/-- HOME_COMMIT_APPLY (R316): a home that all its commit tokens have reached applies what it holds of the phase, in one step: stores,
addends, ENQs and QSIGs. DEDUCED (the notes' log entry 32): homes apply in any order, but those with ENQs and QSIGs together; acts for
which a ring has no room yet follow when it has. -/
def evHomeCommitApply (k g home : Nat) (s : State) : State :=
  let homes := commitWith s k g home
  let held := commitOrder s ((phaseReqs s k g).filter (fun r => r.st == .held && homes.contains r.place.home.code))
  let tokens := homes.flatMap (tokensFor s k g true)
  if (groupAt s k g).step != .committing then s
  else if tokens.isEmpty then applyAll (held.filter Req.isAct) s
  else if homes.all (fun h => tokensIn s (tokensFor s k g true h)) &&
      held.all (fun r => r.isAct || (wayOpen s r && !awayHome s r.ctx r.place)) then
    lastDone k g (applyAll held (answerTokens s tokens))
  else s
/-- HOME_COMMIT_APPLY, as an event. -/
def execHomeCommitApply (k g home : Nat) (s : State) : Host.Outcome State Fault Refusal := .next (evHomeCommitApply k g home s)

/-! ## Completion (R311, R315, R167-R170) -/

/-- A committing item aborts the later ones that have read a line that it writes (R170). -/
def abortReaders (s : State) (k o : Nat) (vas : List Nat) : State :=
  let hit := sigSet 0 vas
  (kernelAt s k).groups.foldl (fun t p =>
    if (p.2.item.map (fun i => decide (o < i))).getD false && !p.2.committed && p.2.sig &&& hit != 0 then
      cancelPhase t k p.1 true none
    else t) s

/-- A level-2 item commits with its phase (R167, R168). -/
def commitItem (s : State) (k g : Nat) (vas : List Nat) : State :=
  let gr := groupAt s k g
  match gr.item with
  | some o =>
    if (kernelAt s k).level = 2 then
      abortReaders (mapGroup (commitOrdinal s k o) k g (fun gr => { gr with committed := true })) k o vas
    else s
  | none => s

/-- PHASE_COMMIT_COMPLETE (R311, R315, R316): every home has applied the phase and its acknowledgements have come back; it is CLOSED, and
the PHPUB bundles issue. A PHPUB stays stalled through a rehash (R375). -/
def evPhaseCommitComplete (k g : Nat) (s : State) : State :=
  let gr := groupAt s k g
  let mine := phaseReqs s k g
  if gr.step == .committing && mine.all (fun r => r.st == .applied) && !s.reqs.any (Req.tokenOf k g true) && !s.rehash then
    let s := actsDone k g { s with reqs := s.reqs.filter (fun r => r.ph != some (k, g)) }
    let s := commitItem s k g (mine.map Req.va)
    let s := mapGroup (releaseAll s gr.cores false none) k g (fun gr =>
      { gr with ph := .closed, step := .none, ncommit := gr.ncommit + 1, canc := 0 })
    issueAll s gr.cores
  else s
/-- PHASE_COMMIT_COMPLETE, as an event. -/
def execPhaseCommitComplete (k g : Nat) (s : State) : Host.Outcome State Fault Refusal := .next (evPhaseCommitComplete k g s)

end Sys2Proof.Machine
end

