-- ==== Sys2Proof/Machine/Dispatch.lean ====
section
/-! DEFINITION. The meaning of every instruction of the opcode table: one direct call for each. -/

namespace Sys2Proof.Machine

/-- What an instruction does to the machine. -/
def exec (i : Instr) (s : State) : Host.Outcome State Fault Refusal :=
  match i with
  | .add d a b s0 w => Sys2Proof.Machine.execAdd d a b s0 w s
  | .sub d a b s0 w => Sys2Proof.Machine.execSub d a b s0 w s
  | .mul d a b s0 w => Sys2Proof.Machine.execMul d a b s0 w s
  | .mulh d a b => Sys2Proof.Machine.execMulh d a b s
  | .mulhu d a b => Sys2Proof.Machine.execMulhu d a b s
  | .div d a b w => Sys2Proof.Machine.execDiv d a b w s
  | .divu d a b w => Sys2Proof.Machine.execDivu d a b w s
  | .rem d a b w => Sys2Proof.Machine.execRem d a b w s
  | .remu d a b w => Sys2Proof.Machine.execRemu d a b w s
  | .and d a b => Sys2Proof.Machine.execAnd d a b s
  | .or d a b => Sys2Proof.Machine.execOr d a b s
  | .xor d a b => Sys2Proof.Machine.execXor d a b s
  | .sll d a b s0 w => Sys2Proof.Machine.execSll d a b s0 w s
  | .srl d a b w => Sys2Proof.Machine.execSrl d a b w s
  | .sra d a b w => Sys2Proof.Machine.execSra d a b w s
  | .min d a b => Sys2Proof.Machine.execMin d a b s
  | .max d a b => Sys2Proof.Machine.execMax d a b s
  | .minu d a b => Sys2Proof.Machine.execMinu d a b s
  | .maxu d a b => Sys2Proof.Machine.execMaxu d a b s
  | .clz d a w => Sys2Proof.Machine.execClz d a w s
  | .popc d a w => Sys2Proof.Machine.execPopc d a w s
  | .cmp p a b w cc => Sys2Proof.Machine.execCmp p a b w cc s
  | .sel d a b p => Sys2Proof.Machine.execSel d a b p s
  | .plog d a b t => Sys2Proof.Machine.execPlog d a b t s
  | .addi d a imm => Sys2Proof.Machine.execAddi d a imm s
  | .andi d a imm => Sys2Proof.Machine.execAndi d a imm s
  | .ori d a imm => Sys2Proof.Machine.execOri d a imm s
  | .xori d a imm => Sys2Proof.Machine.execXori d a imm s
  | .slli d a sh => Sys2Proof.Machine.execSlli d a sh s
  | .srli d a sh => Sys2Proof.Machine.execSrli d a sh s
  | .srai d a sh => Sys2Proof.Machine.execSrai d a sh s
  | .li d imm => Sys2Proof.Machine.execLi d imm s
  | .lis d a imm => Sys2Proof.Machine.execLis d a imm s
  | .cmpi p a cc imm => Sys2Proof.Machine.execCmpi p a cc imm s
  | .bfx d a se len pos => Sys2Proof.Machine.execBfx d a se len pos s
  | .bfi d a len pos => Sys2Proof.Machine.execBfi d a len pos s
  | .br neg p disp => Sys2Proof.Machine.execBr neg p disp s
  | .call l disp => Sys2Proof.Machine.execCall l disp s
  | .jr d a => Sys2Proof.Machine.execJr d a s
  | .loop c disp => Sys2Proof.Machine.execLoop c disp s
  | .lds d b size off => Sys2Proof.Machine.execLds d b size off s
  | .ldz d b size off => Sys2Proof.Machine.execLdz d b size off s
  | .st d b size off => Sys2Proof.Machine.execSt d b size off s
  | .shw n a f => Sys2Proof.Machine.execShw n a f s
  | .litr d a imm => Sys2Proof.Machine.execLitr d a imm s
  | .csrr d csr => Sys2Proof.Machine.execCsrr d csr s
  | .csrw a csr => Sys2Proof.Machine.execCsrw a csr s
  | .tdw n a => Sys2Proof.Machine.execTdw n a s
  | .bfw n a => Sys2Proof.Machine.execBfw n a s
  | .nop => Sys2Proof.Machine.execNop s
  | .nopn n => Sys2Proof.Machine.execNopn n s
  | .endp => Sys2Proof.Machine.execEndp s
  | .lalign => Sys2Proof.Machine.execLalign s
  | .wnext d => Sys2Proof.Machine.execWnext d s
  | .phopen a e1 acc1 e0 acc0 => Sys2Proof.Machine.execPhopen a e1 acc1 e0 acc0 s
  | .phseal => Sys2Proof.Machine.execPhseal s
  | .phpub => Sys2Proof.Machine.execPhpub s
  | .phacq => Sys2Proof.Machine.execPhacq s
  | .pfence => Sys2Proof.Machine.execPfence s
  | .trap imm => Sys2Proof.Machine.execTrap imm s
  | .tret => Sys2Proof.Machine.execTret s
  | .binit a b => Sys2Proof.Machine.execBinit a b s
  | .barr a => Sys2Proof.Machine.execBarr a s
  | .barrG a => Sys2Proof.Machine.execBarrG a s
  | .bexp a b arr => Sys2Proof.Machine.execBexp a b arr s
  | .btest a d h => Sys2Proof.Machine.execBtest a d h s
  | .bwait a b => Sys2Proof.Machine.execBwait a b s
  | .sbwaitTile f n => Sys2Proof.Machine.execSbwaitTile f n s
  | .sbwaitAcc f n => Sys2Proof.Machine.execSbwaitAcc f n s
  | .enq a q => Sys2Proof.Machine.execEnq a q s
  | .qsig a b o => Sys2Proof.Machine.execQsig a b o s
  | .qwait a b => Sys2Proof.Machine.execQwait a b s
  | .pginv a b => Sys2Proof.Machine.execPginv a b s
  | .pgprobe a d => Sys2Proof.Machine.execPgprobe a d s
  | .pgmig a b ret => Sys2Proof.Machine.execPgmig a b ret s
  | .digrd d => Sys2Proof.Machine.execDigrd d s
  | .evpost a b code => Sys2Proof.Machine.execEvpost a b code s
  | .vadd c vd va vb p neg ty rnd s0 => Sys2Proof.Machine.execVadd c vd va vb p neg ty rnd s0 s
  | .vsub c vd va vb p neg ty rnd s0 => Sys2Proof.Machine.execVsub c vd va vb p neg ty rnd s0 s
  | .vmul c vd va vb p neg ty rnd s0 => Sys2Proof.Machine.execVmul c vd va vb p neg ty rnd s0 s
  | .vfma c vd va vb vc p neg ty rnd => Sys2Proof.Machine.execVfma c vd va vb vc p neg ty rnd s
  | .vfms c vd va vb vc p neg ty rnd => Sys2Proof.Machine.execVfms c vd va vb vc p neg ty rnd s
  | .vmin c vd va vb p ty => Sys2Proof.Machine.execVmin c vd va vb p ty s
  | .vmax c vd va vb p ty => Sys2Proof.Machine.execVmax c vd va vb p ty s
  | .vabs c vd va p ty s0 => Sys2Proof.Machine.execVabs c vd va p ty s0 s
  | .vcsgn c vd va vb p ty => Sys2Proof.Machine.execVcsgn c vd va vb p ty s
  | .vmulh c vd va vb p ty => Sys2Proof.Machine.execVmulh c vd va vb p ty s
  | .vand c vd va vb p => Sys2Proof.Machine.execVand c vd va vb p s
  | .vor c vd va vb p => Sys2Proof.Machine.execVor c vd va vb p s
  | .vxor c vd va vb p => Sys2Proof.Machine.execVxor c vd va vb p s
  | .vnot c vd va p => Sys2Proof.Machine.execVnot c vd va p s
  | .vsll c vd va vb p ty im n => Sys2Proof.Machine.execVsll c vd va vb p ty im n s
  | .vsrl c vd va vb p ty im n => Sys2Proof.Machine.execVsrl c vd va vb p ty im n s
  | .vsra c vd va vb p ty im n => Sys2Proof.Machine.execVsra c vd va vb p ty im n s
  | .vcmp c vd va vb p ty cc pd all => Sys2Proof.Machine.execVcmp c vd va vb p ty cc pd all s
  | .vsel c vd va vb vc p => Sys2Proof.Machine.execVsel c vd va vb vc p s
  | .vcvt c vd va p ty rnd src h s0 => Sys2Proof.Machine.execVcvt c vd va p ty rnd src h s0 s
  | .vclz c vd va p ty => Sys2Proof.Machine.execVclz c vd va p ty s
  | .vpopc c vd va p ty => Sys2Proof.Machine.execVpopc c vd va p ty s
  | .vmov c vd va p => Sys2Proof.Machine.execVmov c vd va p s
  | .vsplat c vd p ty xs => Sys2Proof.Machine.execVsplat c vd p ty xs s
  | .viota c vd p ty xs => Sys2Proof.Machine.execViota c vd p ty xs s
  | .vli c vd p ty imm => Sys2Proof.Machine.execVli c vd p ty imm s
  | .vrotr c vd va p ty im n xs => Sys2Proof.Machine.execVrotr c vd va p ty im n xs s
  | .vrotc c vd va p ty im n xs => Sys2Proof.Machine.execVrotc c vd va p ty im n xs s
  | .vbcr c vd va p ty im n xs => Sys2Proof.Machine.execVbcr c vd va p ty im n xs s
  | .vbcc c vd va p ty im n xs => Sys2Proof.Machine.execVbcc c vd va p ty im n xs s
  | .vredr c vd va p ty rnd op => Sys2Proof.Machine.execVredr c vd va p ty rnd op s
  | .vredc c vd va p ty rnd op => Sys2Proof.Machine.execVredc c vd va p ty rnd op s
  | .vscanr c vd va p ty rnd op ex => Sys2Proof.Machine.execVscanr c vd va p ty rnd op ex s
  | .vscanc c vd va p ty rnd op ex => Sys2Proof.Machine.execVscanc c vd va p ty rnd op ex s
  | .vcompact c vd va vb vc p xc => Sys2Proof.Machine.execVcompact c vd va vb vc p xc s
  | .vext c va p ty xd row col => Sys2Proof.Machine.execVext c va p ty xd row col s
  | .vexpQ c vd va p ty => Sys2Proof.Machine.execVexpQ c vd va p ty s
  | .vexpX c vd va p ty => Sys2Proof.Machine.execVexpX c vd va p ty s
  | .vexp2Q c vd va p ty => Sys2Proof.Machine.execVexp2Q c vd va p ty s
  | .vexp2X c vd va p ty => Sys2Proof.Machine.execVexp2X c vd va p ty s
  | .vlogQ c vd va p ty => Sys2Proof.Machine.execVlogQ c vd va p ty s
  | .vlogX c vd va p ty => Sys2Proof.Machine.execVlogX c vd va p ty s
  | .vlog2Q c vd va p ty => Sys2Proof.Machine.execVlog2Q c vd va p ty s
  | .vlog2X c vd va p ty => Sys2Proof.Machine.execVlog2X c vd va p ty s
  | .vsinQ c vd va p ty => Sys2Proof.Machine.execVsinQ c vd va p ty s
  | .vsinX c vd va p ty => Sys2Proof.Machine.execVsinX c vd va p ty s
  | .vcosQ c vd va p ty => Sys2Proof.Machine.execVcosQ c vd va p ty s
  | .vcosX c vd va p ty => Sys2Proof.Machine.execVcosX c vd va p ty s
  | .vtanhQ c vd va p ty => Sys2Proof.Machine.execVtanhQ c vd va p ty s
  | .vtanhX c vd va p ty => Sys2Proof.Machine.execVtanhX c vd va p ty s
  | .vsigmQ c vd va p ty => Sys2Proof.Machine.execVsigmQ c vd va p ty s
  | .vsigmX c vd va p ty => Sys2Proof.Machine.execVsigmX c vd va p ty s
  | .vrsqrtQ c vd va p ty => Sys2Proof.Machine.execVrsqrtQ c vd va p ty s
  | .vrsqrtX c vd va p ty => Sys2Proof.Machine.execVrsqrtX c vd va p ty s
  | .vrecipQ c vd va p ty => Sys2Proof.Machine.execVrecipQ c vd va p ty s
  | .vrecipX c vd va p ty => Sys2Proof.Machine.execVrecipX c vd va p ty s
  | .verfQ c vd va p ty => Sys2Proof.Machine.execVerfQ c vd va p ty s
  | .verfX c vd va p ty => Sys2Proof.Machine.execVerfX c vd va p ty s
  | .vshawm c vd va p v xc xk => Sys2Proof.Machine.execVshawm c vd va p v xc xk s
  | .vshawmf c vd va p v xc xk => Sys2Proof.Machine.execVshawmf c vd va p v xc xk s
  | .vld c vd p xb xs off => Sys2Proof.Machine.execVld c vd p xb xs off s
  | .vst c va vc p ty m xb xs off => Sys2Proof.Machine.execVst c va vc p ty m xb xs off s
  | .xmv c vd va p => Sys2Proof.Machine.execXmv c vd va p s
  | .rank vd va p ty k => Sys2Proof.Machine.execRank vd va p ty k s
  | .rankt vd va p ty k xt => Sys2Proof.Machine.execRankt vd va p ty k xt s
  | .rval vd va p xf => Sys2Proof.Machine.execRval vd va p xf s
  | .vatt va p row => Sys2Proof.Machine.execVatt va p row s
  | .mma acc tA tB sh sw pa pb sub => Sys2Proof.Machine.execMma acc tA tB sh sw pa pb sub s
  | .imma acc tA tB sh sw pa pb sub => Sys2Proof.Machine.execImma acc tA tB sh sw pa pb sub s
  | .pmm acc tA tB sh sw pa pb sub => Sys2Proof.Machine.execPmm acc tA tB sh sw pa pb sub s
  | .pmms acc tA tB sh sw pa pb sub => Sys2Proof.Machine.execPmms acc tA tB sh sw pa pb sub s
  | .bmm acc tA tB sh sw pa pb sub => Sys2Proof.Machine.execBmm acc tA tB sh sw pa pb sub s
  | .mmas acc tA tB sh sw pa pb sub => Sys2Proof.Machine.execMmas acc tA tB sh sw pa pb sub s
  | .racc acc tA tB sh sw pb sub => Sys2Proof.Machine.execRacc acc tA tB sh sw pb sub s
  | .anch acc => Sys2Proof.Machine.execAnch acc s
  | .norm acc => Sys2Proof.Machine.execNorm acc s
  | .azero acc => Sys2Proof.Machine.execAzero acc s
  | .accrd acc td ts sh sw sc rnd fmt => Sys2Proof.Machine.execAccrd acc td ts sh sw sc rnd fmt s
  | .accadd acc src => Sys2Proof.Machine.execAccadd acc src s
  | .accmv acc src => Sys2Proof.Machine.execAccmv acc src s
  | .accsv acc t => Sys2Proof.Machine.execAccsv acc t s
  | .accld acc t => Sys2Proof.Machine.execAccld acc t s
  | .ttrn tA tB sh sw => Sys2Proof.Machine.execTtrn tA tB sh sw s
  | .tzero t => Sys2Proof.Machine.execTzero t s
  | .kchk seed => Sys2Proof.Machine.execKchk seed s
  | .tld e g t h sh sw cb pr => Sys2Proof.Machine.execTld e g t h sh sw cb pr s
  | .tst e g t h sh sw cb => Sys2Proof.Machine.execTst e g t h sh sw cb s
  | .pref e g h sh sw cb => Sys2Proof.Machine.execPref e g h sh sw cb s
  | .tgath e g t h sh sw cb xi pr => Sys2Proof.Machine.execTgath e g t h sh sw cb xi pr s
  | .tscat e g t h sh sw cb xi => Sys2Proof.Machine.execTscat e g t h sh sw cb xi s
  | .tldb e g t h sh sw cb pr => Sys2Proof.Machine.execTldb e g t h sh sw cb pr s
  | .scopyLd e g t sh sw xa xs pr => Sys2Proof.Machine.execScopyLd e g t sh sw xa xs pr s
  | .scopySt e g t sh sw xa xs => Sys2Proof.Machine.execScopySt e g t sh sw xa xs s
  | .vtld e t sh sw xo xs => Sys2Proof.Machine.execVtld e t sh sw xo xs s
  | .vtst e t sh sw xo xs => Sys2Proof.Machine.execVtst e t sh sw xo xs s
  | .tfill e t sh sw xv => Sys2Proof.Machine.execTfill e t sh sw xv s
  | .atom e g t op sz xa xv pr => Sys2Proof.Machine.execAtom e g t op sz xa xv pr s
  | .red e g op sz xa xv => Sys2Proof.Machine.execRed e g op sz xa xv s
  | .redt e g t h sh sw cb op => Sys2Proof.Machine.execRedt e g t h sh sw cb op s
  | .hld e t h => Sys2Proof.Machine.execHld e t h s
  | .hst e t h => Sys2Proof.Machine.execHst e t h s
  | .hmod e h xv f => Sys2Proof.Machine.execHmod e h xv f s
  | .ovl e g n => Sys2Proof.Machine.execOvl e g n s
  | .send port t peer => Sys2Proof.Machine.execSend port t peer s
  | .recv port t peer ts => Sys2Proof.Machine.execRecv port t peer ts s
  | .sendr port t peer k rows => Sys2Proof.Machine.execSendr port t peer k rows s
  | .recvr port t peer k rows ts => Sys2Proof.Machine.execRecvr port t peer k rows ts s
  | .radd port t peer ts => Sys2Proof.Machine.execRadd port t peer ts s
  | .rmax port t peer ts => Sys2Proof.Machine.execRmax port t peer ts s
  | .rmin port t peer ts => Sys2Proof.Machine.execRmin port t peer ts s
  | .lcopy port t sh sw xd xbar xe f s0 len8 => Sys2Proof.Machine.execLcopy port t sh sw xd xbar xe f s0 len8 s
  | .lcrcr d => Sys2Proof.Machine.execLcrcr d s
  | .lcrcw a => Sys2Proof.Machine.execLcrcw a s
  | .lstat port d => Sys2Proof.Machine.execLstat port d s
  | .lfence q => Sys2Proof.Machine.execLfence q s
  | .resultLanding core => Sys2Proof.Machine.execResultLanding core s
  | .stallRelease core => Sys2Proof.Machine.execStallRelease core s
  | .engineReadFinished core id => Sys2Proof.Machine.execEngineReadFinished core id s
  | .engineOpDone core => Sys2Proof.Machine.execEngineOpDone core s
  | .transferDone core id => Sys2Proof.Machine.execTransferDone core id s
  | .ovlLineLanded core line => Sys2Proof.Machine.execOvlLineLanded core line s
  | .promise core => Sys2Proof.Machine.execPromise core s
  | .injectedCheck core => Sys2Proof.Machine.execInjectedCheck core s
  | .kchkComplete core ok => Sys2Proof.Machine.execKchkComplete core ok s
  | .boundaryTrapEntry core => Sys2Proof.Machine.execBoundaryTrapEntry core s
  | .handlerBudgetExceeded core => Sys2Proof.Machine.execHandlerBudgetExceeded core s
  | .coreRetire core => Sys2Proof.Machine.execCoreRetire core s
  | .groupRendezvous k g => Sys2Proof.Machine.execGroupRendezvous k g s
  | .dispatch k bay g => Sys2Proof.Machine.execDispatch k bay g s
  | .workSteal k bay => Sys2Proof.Machine.execWorkSteal k bay s
  | .kernelPreempt k => Sys2Proof.Machine.execKernelPreempt k s
  | .kernelResume k bays => Sys2Proof.Machine.execKernelResume k bays s
  | .kernelLoadDone k => Sys2Proof.Machine.execKernelLoadDone k s
  | .kernelFinish k => Sys2Proof.Machine.execKernelFinish k s
  | .kernelRetire k => Sys2Proof.Machine.execKernelRetire k s
  | .phasePrepare k g => Sys2Proof.Machine.execPhasePrepare k g s
  | .homePrepareVote k g home far => Sys2Proof.Machine.execHomePrepareVote k g home far s
  | .homeCommitApply k g home => Sys2Proof.Machine.execHomeCommitApply k g home s
  | .phaseCommitComplete k g => Sys2Proof.Machine.execPhaseCommitComplete k g s
  | .phaseCancel k g => Sys2Proof.Machine.execPhaseCancel k g s
  | .lateFault who addr => Sys2Proof.Machine.execLateFault who addr s
  | .suppliesValid => Sys2Proof.Machine.execSuppliesValid s
  | .perstDeassert => Sys2Proof.Machine.execPerstDeassert s
  | .perstAssert => Sys2Proof.Machine.execPerstAssert s
  | .firmwareSignatureCheck signer digest => Sys2Proof.Machine.execFirmwareSignatureCheck signer digest s
  | .measureDone digests => Sys2Proof.Machine.execMeasureDone digests s
  | .selftestDone bad badPlanes dead => Sys2Proof.Machine.execSelftestDone bad badPlanes dead s
  | .powerWindowCheck watts drew => Sys2Proof.Machine.execPowerWindowCheck watts drew s
  | .globalIssueGateClose => Sys2Proof.Machine.execGlobalIssueGateClose s
  | .globalIssueGateOpen => Sys2Proof.Machine.execGlobalIssueGateOpen s
  | .apbaseWrite v => Sys2Proof.Machine.execApbaseWrite v s
  | .attgo v => Sys2Proof.Machine.execAttgo v s
  | .attestationReportDone => Sys2Proof.Machine.execAttestationReportDone s
  | .registerWrite off v => Sys2Proof.Machine.execRegisterWrite off v s
  | .ctxCreate ctx => Sys2Proof.Machine.execCtxCreate ctx s
  | .ctxSuspend ctx => Sys2Proof.Machine.execCtxSuspend ctx s
  | .ctxResume ctx => Sys2Proof.Machine.execCtxResume ctx s
  | .ctxKill ctx => Sys2Proof.Machine.execCtxKill ctx s
  | .ctxDestroy ctx => Sys2Proof.Machine.execCtxDestroy ctx s
  | .doorbellWrite off v => Sys2Proof.Machine.execDoorbellWrite off v s
  | .queueEnable => Sys2Proof.Machine.execQueueEnable s
  | .queueDisable => Sys2Proof.Machine.execQueueDisable s
  | .queueReset base => Sys2Proof.Machine.execQueueReset base s
  | .queueArbitrate ctx q => Sys2Proof.Machine.execQueueArbitrate ctx q s
  | .packetNop ctx q => Sys2Proof.Machine.execPacketNop ctx q s
  | .launch ctx q bays => Sys2Proof.Machine.execLaunch ctx q bays s
  | .copy ctx q => Sys2Proof.Machine.execCopy ctx q s
  | .signal ctx q => Sys2Proof.Machine.execSignal ctx q s
  | .wait ctx q => Sys2Proof.Machine.execWait ctx q s
  | .mode ctx q => Sys2Proof.Machine.execMode ctx q s
  | .checkpoint ctx q => Sys2Proof.Machine.execCheckpoint ctx q s
  | .checkpointComplete refusal => Sys2Proof.Machine.execCheckpointComplete refusal s
  | .query ctx q => Sys2Proof.Machine.execQuery ctx q s
  | .packetComplete ctx q => Sys2Proof.Machine.execPacketComplete ctx q s
  | .homeRequest id far => Sys2Proof.Machine.execHomeRequest id far s
  | .homeAck id => Sys2Proof.Machine.execHomeAck id s
  | .reductionAddend id => Sys2Proof.Machine.execReductionAddend id s
  | .reductionPartialTimeout plane addr => Sys2Proof.Machine.execReductionPartialTimeout plane addr s
  | .sectorDelivery id n => Sys2Proof.Machine.execSectorDelivery id n s
  | .remoteArrival id => Sys2Proof.Machine.execRemoteArrival id s
  | .flitRetryExhausted plane => Sys2Proof.Machine.execFlitRetryExhausted plane s
  | .planeAckTimeout plane => Sys2Proof.Machine.execPlaneAckTimeout plane s
  | .planeBufferError plane => Sys2Proof.Machine.execPlaneBufferError plane s
  | .planeIslandFault plane => Sys2Proof.Machine.execPlaneIslandFault plane s
  | .plcmdRetire v => Sys2Proof.Machine.execPlcmdRetire v s
  | .rehashDrained => Sys2Proof.Machine.execRehashDrained s
  | .translationWalkDone core => Sys2Proof.Machine.execTranslationWalkDone core s
  | .migrationPull page line => Sys2Proof.Machine.execMigrationPull page line s
  | .pgicmdInvalidate ctx => Sys2Proof.Machine.execPgicmdInvalidate ctx s
  | .pgicmdMigrate ctx => Sys2Proof.Machine.execPgicmdMigrate ctx s
  | .pgicmdMigrateRetire ctx => Sys2Proof.Machine.execPgicmdMigrateRetire ctx s
  | .profileMaskWrite stack profile k v => Sys2Proof.Machine.execProfileMaskWrite stack profile k v s
  | .devidWrite v => Sys2Proof.Machine.execDevidWrite v s
  | .lpcfgWrite port v => Sys2Proof.Machine.execLpcfgWrite port v s
  | .lpcmdTrain link => Sys2Proof.Machine.execLpcmdTrain link s
  | .lpcmdQuiesce link => Sys2Proof.Machine.execLpcmdQuiesce link s
  | .lpcmdResume link => Sys2Proof.Machine.execLpcmdResume link s
  | .lpcmdDisable link => Sys2Proof.Machine.execLpcmdDisable link s
  | .trainingComplete link lanes => Sys2Proof.Machine.execTrainingComplete link lanes s
  | .trainingTimeout link => Sys2Proof.Machine.execTrainingTimeout link s
  | .flitError link far => Sys2Proof.Machine.execFlitError link far s
  | .replayComplete link => Sys2Proof.Machine.execReplayComplete link s
  | .replayFail link => Sys2Proof.Machine.execReplayFail link s
  | .laneRepairTrigger link => Sys2Proof.Machine.execLaneRepairTrigger link s
  | .repairComplete link lanes => Sys2Proof.Machine.execRepairComplete link lanes s
  | .repairTimeout link => Sys2Proof.Machine.execRepairTimeout link s
  | .incomingRequest port addr op => Sys2Proof.Machine.execIncomingRequest port addr op s
  | .stackLinkRequest link requester entry off op poison => Sys2Proof.Machine.execStackLinkRequest link requester entry off op poison s
  | .incomingMessage port dev src dst sendr stamp k rows payload => Sys2Proof.Machine.execIncomingMessage port dev src dst sendr stamp k rows payload s
  | .messageAccepted port => Sys2Proof.Machine.execMessageAccepted port s
  | .chainCommandArrival port dev src seed start dest bar final bytes => Sys2Proof.Machine.execChainCommandArrival port dev src seed start dest bar final bytes s
  | .chainVerdictReturn core v crc => Sys2Proof.Machine.execChainVerdictReturn core v crc s
  | .receivePayloadLanded core id => Sys2Proof.Machine.execReceivePayloadLanded core id s
  | .chainStagingReserved core => Sys2Proof.Machine.execChainStagingReserved core s
  | .bar2Access off op => Sys2Proof.Machine.execBar2Access off op s

end Sys2Proof.Machine
end

