-- ==== Sys2Proof/Machine/Schedule.lean ====
section
/-! DEFINITION. What comes next: the turns that the schedule of State names, and, where it names none, the turn of the
current core, an event that can come about, another core's turn, or one clk (the notes' log entry 1). -/

namespace Sys2Proof.Machine

/-! ## The turn of a core -/

/-- What the current core has to do at its next boundary. -/
inductive Due where
  /-- It does nothing: it does not run, or it waits. -/
  | idle
  /-- A result lands (R63). -/
  | landing
  /-- A vault transfer has to be done by now (R292). -/
  | vault (id : Nat)
  /-- The handler budget is exceeded (R390). -/
  | budget
  /-- A known-answer check is due (R146). -/
  | check
  /-- A boundary cause is taken (R384). -/
  | trap
  /-- A bundle comes to issue. -/
  | issue
  deriving DecidableEq, Repr

/-- A transfer whose last cycle has come. -/
def Core.overdue (c : Core) : Option Nat := (c.xfers.find? (fun x => x.cap == some 0)).map Xfer.id

def dueOf (s : State) : Due :=
  let c := me s
  if c.life != .running then .idle
  else if c.nextDue.isSome then .landing
  else match c.overdue with
    | some id => .vault id
    | none =>
      if c.tl != 0 && decide (65536 < c.budg) then .budget
      else if !c.inject.isEmpty then .check
      else if c.firstPend.isSome && trapBoundary s s.cur then .trap
      else if frozen s s.cur || fetchHeld c || (c.stall.isSome && stillHeld s) then .idle
      else .issue

/-- The only instruction of the bundle that the current core fetches, when it holds one alone. -/
def aloneAt (c : Core) : Option Instr :=
  if 0x20000 ≤ c.bpc || c.bPoison.contains (fetchLine c.bpc) then none
  else match fetched c with
    | .bundle _ _ [(_, _, .ok i)] => some i
    | _ => none

/-- A bundle comes to issue: a single instruction has its meaning, several slots issue together. -/
def issueTurn (s : State) : Host.Outcome State Fault Refusal :=
  match aloneAt (me s) with
  | some i => exec i s
  | none => .next (boundary s)

/-- A vault transfer goes on: its next request is served, or it is done. -/
def vaultTurn (id : Nat) (s : State) : State :=
  match (me s).xfers.find? (fun x => x.id == id) with
  | none => s
  | some x =>
    match x.left with
    | r :: _ => evHomeRequest r .refused s
    | [] => evTransferDone s.cur id s

/-- The turn of the current core. -/
def coreTurn (s : State) : Host.Outcome State Fault Refusal :=
  match dueOf s with
  | .idle => .next s
  | .landing => .next (evResultLanding s.cur s)
  | .vault id => .next (vaultTurn id s)
  | .budget => .next (evHandlerBudgetExceeded s.cur s)
  | .check => .next (evInjectedCheck s.cur s)
  | .trap => .next (evBoundaryTrapEntry s.cur s)
  | .issue => issueTurn s

/-! ## Events that can come about by themselves -/

/-- An event that can be tried. -/
abbrev Ev := State → State

/-- Requests on their way. A far device's answer that nothing names carries free values. -/
def requestEvents (s : State) : List Ev :=
  s.reqs.flatMap (fun r => match r.st, r.op with
    | .applied, _ => [evHomeAck r.id]
    | .held, _ => if r.lost then [evHomeRequest r.id (.ok [])] else if r.via.isSome then [evHomeAck r.id] else []
    | .echo, _ => [evHomeRequest r.id (.ok [])]
    | .plane _, .arrive => [evRemoteArrival r.id]
    | .plane _, _ => if r.toUnit then [evReductionAddend r.id] else [evHomeRequest r.id (.ok [])]
    | _, _ => []) ++
  s.partials.map (fun p => evReductionPartialTimeout p.plane p.place.fa) ++
  s.deliveries.flatMap (fun d => d.sectors.map (fun q => evSectorDelivery d.id q.1))

/-- Engines, transfers, overlays, checks, walks and the end of a core. -/
def coreEvents (n : Nat) (c : Core) : List Ev :=
  (if c.mops.isEmpty then [] else [evEngineReadFinished n 0, evEngineOpDone n]) ++
  c.xfers.flatMap (fun x => [evEngineReadFinished n x.id, evTransferDone n x.id, evReceivePayloadLanded n x.id]) ++
  c.ovls.flatMap (fun o => o.lines.map (fun l => evOvlLineLanded n l.1)) ++
  (if c.kchks.isEmpty then [] else [evKchkComplete n true]) ++
  (if c.stall.isSome then [evTranslationWalkDone n, evPromise n] else []) ++
  (if c.life == .running then [] else [evInjectedCheck n]) ++
  (if c.life == .ended then [evResultLanding n, evCoreRetire n] else [])

/-- What a group comes to. -/
def groupEvents (s : State) (k g : Nat) (gr : Group) : List Ev :=
  [evGroupRendezvous k g, evDispatch k gr.bay g, evWorkSteal k gr.bay, evPhasePrepare k g] ++
  (setInsAll ((phaseReqs s k g).map (fun r => r.place.home.code)) []).flatMap (fun h =>
    [evHomePrepareVote k g h (.ok []), evHomeCommitApply k g h]) ++
  [evPhaseCommitComplete k g, evPhaseCancel k g]

/-- The bays that a kernel resumes on, of those that are free for it: a timed one on the first that hold its gang; a nest one on as
many as it had, the first, or, where those hold too few groups, the ones that hold most (R174). -/
def resumeBays (s : State) (kn : Kernel) : List Nat :=
  let free := (usableBays s kn.ctx kn.lr.gsize).filter (bayFree s)
  if !kn.lr.nest then (enough s kn.lr.gsize kn.lr.gang 0 free).getD []
  else
    let l := free.take kn.bays.length
    if kn.liveGroups.length ≤ groupsIn s kn.lr.gsize l then l
    else
      let most := ((upto 17).reverse.flatMap (fun g => free.filter (fun b => bayGroups s kn.lr.gsize b == g))).take kn.bays.length
      free.filter most.contains

/-- What a kernel comes to. -/
def kernelEvents (s : State) (k : Nat) (kn : Kernel) : List Ev :=
  let bays := resumeBays s kn
  kn.groups.flatMap (fun p => groupEvents s k p.1 p.2) ++
  [evKernelLoadDone k, evKernelPreempt k, evKernelResume k bays, evKernelFinish k, evKernelRetire k]

/-- The bays that the manager gives the launch at a queue's head. -/
def launchBays (s : State) (n q : Nat) : List Nat :=
  match nextPacket s n q 1 with
  | none => []
  | some p => (p.record.bind (bayChoice s n (at_ p.body 0x18 2) (at_ p.body 0x1A 2) (queueAt s n q).claims)).getD []

/-- What a queue comes to. -/
def queueEvents (s : State) (n q : Nat) : List Ev :=
  [evPacketNop n q, evLaunch n q (launchBays s n q), evCopy n q, evSignal n q, evWait n q, evMode n q, evCheckpoint n q, evQuery n q,
   evPacketComplete n q, evQueueArbitrate n q]

/-- Events of the module that wait for nothing outside it. -/
def moduleEvents (s : State) : List Ev :=
  [evRehashDrained] ++
  (match s.pgicmd with
   | some (1, n) => [evPgicmdInvalidate n]
   | some (2, n) => [evPgicmdMigrate n]
   | some (3, n) => [evPgicmdMigrateRetire n]
   | _ => []) ++
  (match s.ctxpend with
   | some n => [evCtxSuspend n]
   | none => []) ++
  (if s.attbusy then [evAttestationReportDone] else []) ++
  [evGlobalIssueGateClose, evGlobalIssueGateOpen] ++
  (if s.ckpt.isSome then [evCheckpointComplete none] else []) ++
  s.migs.map (fun m => evMigrationPull m.va (m.todo.getD 0))

/-- The events tried, in order. What the outside world decides is not among them: it comes by the schedule. -/
def candidates (s : State) : List Ev :=
  requestEvents s ++ s.cores.flatMap (fun p => coreEvents p.1 p.2) ++ s.kernels.flatMap (fun p => kernelEvents s p.1 p.2) ++
    s.ctxs.flatMap (fun p => (upto p.2.queues.length).flatMap (queueEvents s p.1)) ++ moduleEvents s

/-! ## One clk (R286, R370, R379, R390, R413) -/

/-- What a stalled bundle needs of a transmit skid is not there now (R413). -/
def skidUnmet (s : State) (t : Stall) : Bool :=
  match t.skid with
  | some w => decide (64 < skidUsed s w.port + w.slots) || (w.stage && !t.staged)
  | none => false

/-- A clk of a machine in which a core issues nothing. -/
def Core.clk (s : State) (c : Core) : Core :=
  if c.life != .running then c
  else
    { c with
      budg := if c.tl = 0 then c.budg else c.budg + 1
      gateclk := if (c.stall.map Stall.gate).getD false && gateClosed s then c.gateclk + 1 else c.gateclk
      lbpclk := if (c.stall.map (skidUnmet s)).getD false then c.lbpclk + 1 else c.lbpclk
      stall := c.stall.map (fun t => if c.promised.isSome then { t with clk := t.clk + 1 } else t) }

/-- One clk passes. -/
def clkTick (s : State) : State :=
  { s with
    clk := s.clk + 1, cores := tabMap (fun _ c => c.clk s) s.cores
    partials := s.partials.map (fun p => { p with age := p.age + 1 }) }

/-! ## Turns -/

/-- Another core that has something to do, the next one in cyclic order. -/
def otherCore (s : State) : Option Nat :=
  let l := (s.cores.filter (fun p => p.2.life == .running)).map Prod.fst
  ((l.filter (fun n => decide (s.cur < n))) ++ (l.filter (fun n => decide (n < s.cur)))).find? (fun n =>
    dueOf { s with cur := n } != .idle)

/-- The first event that changes the state comes about. -/
def firstEvent (s : State) : Option State :=
  (candidates s).findSome? (fun f => let t := f s; if t = s then none else some t)

/-- The current core has nothing to do: an event comes about; or it is another core's turn; or a clk passes. -/
def background (s : State) : State :=
  match firstEvent s with
  | some t => t
  | none => match otherCore s with
    | some n => { s with cur := n }
    | none => clkTick s

/-- Every 32nd free turn is not the current core's, so that a core that never waits holds up nothing. -/
def aside (s : State) : Bool := s.beat % 32 == 31

/-- Such a turn: by turns another core's, or an event's; where there is none, a clk passes. -/
def elsewhere (s : State) : State :=
  if s.beat % 64 = 31 then
    match otherCore s with
    | some n => { s with cur := n }
    | none => clkTick s
  else (firstEvent s).getD (clkTick s)

/-- A free turn is counted. -/
def counted (n : Nat) (o : Host.Outcome State Fault Refusal) : Host.Outcome State Fault Refusal :=
  match o with
  | .next t => .next { t with beat := n }
  | .fault f => .fault f
  | .refused r => .refused r

/-- A turn that nothing in the schedule names. -/
def freeTurn (s : State) : Host.Outcome State Fault Refusal :=
  counted (s.beat + 1) (
    if dueOf s = .idle then .next (background s) else if aside s then .next (elsewhere s) else coreTurn s)

/-- The home of a request that a phase holds has not voted on it. -/
def voteAhead (s : State) (r : Req) : Bool :=
  match r.ph with
  | none => false
  | some kg => match (groupAt s kg.1 kg.2).step with
    | .committing => false
    | .voting voted => !voted.contains r.place.home.code
    | _ => true

/-- The data of a store that a phase holds takes an error at its home, before the home votes (R324); what else than plain bytes
a phase holds is then poisoned like one byte of them. -/
def upsetHeld (id : Nat) (s : State) : State :=
  { s with reqs := s.reqs.map (fun r =>
      if r.id = id && r.st == .held && voteAhead s r then
        match r.op with
        | .write bs _ => { r with op := .write bs (upto bs.length) }
        | _ => { r with op := .write [none] [0] }
      else r) }

/-- A turn that the schedule names; an instruction of a bundle slot is no event. -/
def namedTurn (t : Turn) (s : State) : Host.Outcome State Fault Refusal :=
  match t with
  | .core n => coreTurn { s with cur := n }
  | .event i => if i.slot?.isSome then .next s else exec i s
  | .clk => .next (clkTick s)
  | .hostWrite a bs => .next { s with hostMem := s.hostMem.writeN a bs }
  | .upset n a => .next (mapCore s n (fun c => { c.spoil a 1 with uecnt := c.uecnt + 1 }))
  | .corrected n => .next (mapCore s n (fun c => { c with seccnt := c.seccnt + 1 }))
  | .upsetAcc n e => .next (mapCore s n (fun c => { c with accPoison := setIns e c.accPoison }))
  | .upsetLine pa => .next { s with hbmPoison := setIns (pa / 64) s.hbmPoison }
  | .bar2Resize lg => .next (bar2Resize lg s)
  | .upsetHeld id => .next (upsetHeld id s)
  | .upsetStaging port src mask => .next (mapLink s port (fun l => { l with
      staging := l.staging.map (fun c => if c.src = src then { c with crc := c.crc ^^^ mask } else c) }))

/-! ## A program placed by the loader -/

/-- The bytes of a bundle with one instruction whose bits are `w`: the slot is the first of the table's slots in which the
word is an instruction (the notes' log entry 2). -/
def tableBundle (nbits w : Nat) : List Byte :=
  let sl := ((firstSlot w (tableSlots nbits)).map Prod.fst).getD (if nbits ≤ 32 then .x else .va)
  BitVec.ofNat 8 (2 ^ sl.bit) :: leBytes sl.bytes w

/-- A timed kernel of one core, running. -/
def loadedKernel (n : Nat) : Kernel :=
  { (default : Kernel) with
    st := .running, bays := [bayOf n], groups := [(0, freshGroup (bayOf n) [n] .running 0)], start := Core.reset }

/-- The current core started in such a kernel of context 0. -/
def loadKernel (s : State) : State :=
  let s := mapCtx s 0 (fun x => { x with st := .active })
  let s : State := { s with ckpt := none, kernels := tabPut s.kernels s.nextK (loadedKernel s.cur), nextK := s.nextK + 1 }
  setCore s s.cur { Core.reset with life := .running, kernel := some (s.nextK - 1) }

/-- Bytes put where the current core fetches next. -/
def placeBundle (bs : List Byte) (s : State) : State :=
  mapMe { s with agenda := [], beat := 0 } (fun c => { c with
    bundle := c.bundle.writeN c.bpc bs
    stall := none, bPend := setDel (fetchLine c.bpc) c.bPend, bPoison := setDel (fetchLine c.bpc) c.bPoison })

/-- The current core fetches from its bundle store at its next turn, and the line has room. -/
def fetchesNext (bs : List Byte) (s : State) : Bool :=
  dueOf s == .issue && decide ((me s).bpc < 0x20000) && decide ((me s).bpc % 64 + bs.length ≤ 64)

/-- A bundle placed where the next step fetches it; where the current core does not run, or has something else to do first,
it is started in a kernel of its own. -/
def placeNext (bs : List Byte) (s : State) : State :=
  let t := placeBundle bs s
  if fetchesNext bs t then t else placeBundle bs (loadKernel s)

end Sys2Proof.Machine
end

