-- ==== Sys2Proof/Machine/Step.lean ====
section
/-! DEFINITION. The step of the machine. -/

namespace Sys2Proof.Machine

/-- One step: the turn at the head of the schedule, or, where the schedule names none, the turn that follows from the state. -/
def step (s : State) : Host.Outcome State Fault Refusal :=
  match s.agenda with
  | t :: r => namedTurn t { s with agenda := r }
  | [] => freeTurn s

/-- The state with an instruction of the opcode table standing where the next step fetches (the notes' log entry 2). -/
def State.withFetchWord (s : State) (nbits w : Nat) : State := placeNext (tableBundle nbits w) s

end Sys2Proof.Machine
end

