-- ==== Sys2Proof/Safety.lean ====
section
/-! DEFINITION. The terms in which the claims are stated: the canonical form of the module's memories, a bundle that comes
to issue, what keeps it from issuing, and the time that passes over it. -/

namespace Sys2Proof.Machine

/-! ## What every step keeps -/

/-- The memories of the module stand in canonical form: DRAM, host memory and the MSI-X table (R16, R281). -/
def State.canonical (s : State) : Bool := s.hbm.wf && s.hostMem.wf && s.msixTable.wf

/-! ## A bundle that comes to issue (R70, R95-R97) -/

/-- The current core runs, and its bundle comes to issue, at a cycle that no rendezvous has set. -/
def comesToIssue (s : State) : Bool :=
  (me s).life == .running && !((me s).stall.map Stall.early).getD false && ((me s).stall.bind Stall.lccNext).isNone

/-- The translation walks of its bundle have completed (R349). -/
def hasWalked (s : State) : Bool := ((me s).stall.map Stall.walked).getD false

/-- The bundle meets an open or a sealed phase (R299, R314). -/
def insidePhase (s : State) : Bool := (phaseOf s (me s)).inside

/-- Its bundle holds a PFENCE that a rehash found stalled, and that stays so until the rehash ends (R375). -/
def fenceStays (s : State) : Bool := s.rehash && ((me s).stall.map Stall.fence).getD false

/-- What surrounds an instruction that stands alone in its bundle. -/
def envOf (s : State) (i : Instr) : Env :=
  ⟨phaseOf s (me s), (me s).bpc + 1 + (i.slot?.getD .x).bytes, encode i⟩

/-- Nothing keeps an instruction, alone in its bundle, from issuing now: no condition of ILLOP or LINKERR, no busy unit,
no stall, no fault of the second check (R70, R95-R97). -/
def clear (s : State) (m : Sem) : Bool :=
  !m.illop && m.linkerr.isNone && !(m.unit.map (fun u => (me s).busy u.1)).getD false &&
  !(m.logs && decide (512 ≤ (me s).runLog.length)) &&
  !m.reads.any (me s).waitRead && !m.writes.any (me s).waitWrite && !m.stall && !m.drain &&
  (m.walks.isEmpty || hasWalked s) && !(gateClosed s && m.sends) && !(fenceStays s && m.fence) && m.late.isEmpty

/-! ## Time (R61, R63, R65, R87, R146, R381, R390) -/

/-- The injected check that falls due with a bundle of one instruction (R146). -/
def checkAt (sl : Slot) (s : State) : Option Bool :=
  let c := me s
  let d := (kernelOf s c).lr.kdens
  if d != 0 && c.tl == 0 && decide (2 ^ (d + 6) ≤ c.kcount) && sl != .m then some (insidePhase s) else none

/-- A core over whose bundle, of one instruction in slot `sl`, `n` logical cycles have passed: results in flight come
nearer, initiation intervals run down, the clock of the trap level advances, and the next bundle follows. -/
def Core.onward (c : Core) (sl : Slot) (n : Nat) (due : Option Bool) : Core :=
  { c with
    bpc := c.bpc + 1 + sl.bytes
    lpc := if sl = .m then c.lpc + 1 else c.lpc
    pipe := c.pipe.map (fun f => { f with rem := f.rem - n })
    units := (c.units.map (fun u => (u.1, u.2 - n))).filter (fun u => u.2 != 0)
    xfers := c.xfers.map (fun x => { x with cap := x.cap.map (· - n) })
    lcc := if c.tl = 0 then c.lcc + BitVec.ofNat 64 n else c.lcc
    kcount := (if due.isSome then 0 else c.kcount) + (if c.tl = 0 then n else 0)
    hc1 := if c.tl = 1 then c.hc1 + n else c.hc1
    hc2 := if 2 ≤ c.tl then c.hc2 + n else c.hc2
    budg := if c.tl = 0 then c.budg else c.budg + n
    inject := c.inject ++ due.toList
    stall := none }

/-- The state `t`, which the effects of an instruction have left of `s`, after the time of its bundle. -/
def onward (sl : Slot) (n : Nat) (s t : State) : State := mapMe t (fun c => c.onward sl n (checkAt sl s))

/-- The unit of a V-slot instruction taken for its initiation interval (R65). -/
def occupy (u : VUnit) (ii : Nat) (s : State) : State := mapMe s (fun c => { c with units := c.units ++ [(u, ii)] })

/-- The handler budget of the current core has run out, and its context is to be killed (R390). -/
def spent (s : State) : Bool := (me s).tl != 0 && decide (65536 < (me s).budg)

/-- The current core goes on at another bundle address (R59, R196). -/
def goesTo (a : Nat) (s : State) : State := mapMe s (fun c => { c with bpc := a })

/-- A result sent on its way by an instruction of one logical cycle, and the time of its bundle (R63, R67). -/
def lands (sl : Slot) (lat : Nat) (d : Landing) (s : State) : State := onward sl 1 s (fly (insidePhase s) lat d s)

/-- The same for an instruction that takes a vector unit (R65). -/
def vlands (sl : Slot) (u : VUnit) (ii lat : Nat) (d : Landing) (s : State) : State :=
  onward sl 1 s (occupy u ii (fly (insidePhase s) lat d s))

/-- The ILLOP of reason 5 that an instruction, alone in its bundle, takes (R95, R96). -/
def illegal (i : Instr) (s : State) : State :=
  trapOn s s.cur 0x01 (BitVec.ofNat 64 (5 + 16 * (i.slot?.getD .x).bit)) (BitVec.ofNat 64 (encode i)) (me s).bpc (me s).lpc
    false

/-- The rendezvous that a bundle waits at (R155). -/
def waitingAt (s : State) : Option Rdv := (me s).stall.bind Stall.rdv

/-! ## Work handed to an engine (R250, R286) -/

/-- An operation queued in the matrix engine of the current core (R250). -/
def queued (o : MatOp) (s : State) : State := mapMe s (fun c => { c with mops := c.mops ++ [o] })

/-- From `s` to `t` the requests `new` of the current core have left; before them, for the lines that they reach, partials of the
reduction units (R368, R370). -/
def sent (s t : State) (new : List Req) : Prop :=
  ∃ added, t.reqs = s.reqs ++ added ∧ added.filter (fun r => r.src == .core s.cur) = new ∧
    ∀ r ∈ added, r.src = .core s.cur ∨ ∃ p ∈ s.partials, ∃ id st, r = p.req id st s.devid

/-- The translations of a transfer's pieces let it issue: every address is translated for the access, global registers are reached
in whole words, and a level-2 item outside its phase reaches its core's own scratchpad alone (R168, R348, R350). -/
def reaches (s : State) (a : Acc) (pieces : List (Nat × Nat)) : Bool :=
  let ps := pagesOk (translate s a (pieces.map Prod.fst))
  pieces.all (fun p => match xlate s (ctxNo s (me s)) p.1 a with
    | .ok _ => true
    | .error _ => false) && (mmioFault ps pieces).isNone && !strays (envOf s .nop) s ps

/-- The last value that values written in order, each from its address on, leave at an address. -/
def lastAt (els : List (Nat × List Byte)) (a : Nat) : Option Byte :=
  els.reverse.findSome? (fun x => if x.1 ≤ a then x.2[a - x.1]? else none)

/-- From `s` to `t` the current core has issued a bundle of nine bytes that handed the transfer `x` to an engine; its registers, its
scratchpad and its vault, DRAM and host memory are as they were (R286, R287). -/
def handsOver (s t : State) (x : Xfer) : Prop :=
  (me t).xfers = ((me s).xfers ++ [x]).map (fun y => { y with cap := y.cap.map (· - 1) }) ∧ x.ph = insidePhase s ∧
  t.cur = s.cur ∧ (me t).bpc = (me s).bpc + 9 ∧ (me t).stall = none ∧ (me t).x = (me s).x ∧ (me t).p = (me s).p ∧
  (me t).va = (me s).va ∧ (me t).vb = (me s).vb ∧ (me t).tile = (me s).tile ∧ (me t).acc = (me s).acc ∧
  (me t).sp = (me s).sp ∧ (me t).vault = (me s).vault ∧ (me t).handle = (me s).handle ∧
  t.hbm = s.hbm ∧ t.hostMem = s.hostMem

/-- It began the transfer `x`, with the requests `new` on their way for it (R286, R368). -/
def begins (s t : State) (x : Xfer) (new : List Req) : Prop :=
  handsOver s t x ∧ x.id = s.nextId ∧ x.left = new.map Req.id ∧ sent s t new ∧
  ∀ r ∈ new, r.src = .core s.cur ∧ r.xfer = some x.id ∧ r.ctx = ctxNo s (me s)

/-- It began the stream `x` of the message `m`, which a request takes to the transmit skid of a port (R160, R365, R401). -/
def streams (s t : State) (x : Xfer) (port : Nat) (m : Msg) : Prop :=
  handsOver s t x ∧ x.kind = 0x21 ∧ x.left = [] ∧ m.sender = some s.cur ∧ m.from_ = s.devid ∧ ∃ r, sent s t [r] ∧
  r.op = .msg m ∧ r.place = skidPlace port ∧ r.src = .core s.cur ∧ r.xfer = none ∧ r.ctx = ctxNo s (me s) ∧ r.ph = none ∧
  r.waiting = true

/-- Every core but the current one is as it was. -/
def othersKept (s t : State) : Prop := ∀ n, n ≠ s.cur → coreAt t n = coreAt s n

/-! ## Bytes at their homes (R300, R355, R358, R359) -/

/-- The memory `m'` is `m` after bytes have been written from an address on; where a byte is none, it is kept. -/
def wrote (m m' : Memory) (a : Nat) (bs : List (Option Byte)) : Prop :=
  ∀ i, m'.read i = if a ≤ i then ((bs[i - a]?).bind id).getD (m.read i) else m.read i

/-- The memory that a home of the part or of the host stands in. -/
def homeMem (s : State) : Home → Memory
  | .stack _ => s.hbm
  | .vault c => (coreAt s c).vault
  | .scratch c => (coreAt s c).sp
  | .host => s.hostMem
  | _ => []

/-- From `s` to `t` bytes have been written at a place; every other byte of it, and of every other home, is as it was. -/
def wroteAt (s t : State) (p : Place) (bs : List (Option Byte)) : Prop :=
  wrote (homeMem s p.home) (homeMem t p.home) p.addr bs ∧
  ∀ h, h = p.home ∨ (∃ n m, h = .stack n ∧ p.home = .stack m) ∨ homeMem t h = homeMem s h

/-- Every byte of every home is as it was. -/
def homesKept (s t : State) : Prop := ∀ h, homeMem t h = homeMem s h

/-- A line of a home of the part or of the host that holds no error, in canonical form; of DRAM, its frame is neither being filled nor
retired. -/
def clean (s : State) (p : Place) : Prop :=
  (homeMem s p.home).wf = true ∧
  match p.home with
  | .stack _ => p.addr / 64 ∉ s.hbmPoison ∧ ∀ a, a / 64 = p.addr / 64 → migOf s a = none ∧ retiredAt s a = false
  | .vault c => p.addr / 64 ∉ (coreAt s c).vaultPoison
  | .scratch c => (coreAt s c).poisonIn (p.addr / 64 * 64) 64 = none
  | .host => True
  | _ => False

/-! ## Operations at a home (R54, R55, R294) -/

/-- What operation `op` of R294, of those from 0 to 9, makes of a word `m` with the operands `v` and `v2`. -/
def atomWord {w : Nat} (op : Nat) (m v v2 : BitVec w) : BitVec w :=
  match op with
  | 0 => m + v
  | 1 => m &&& v
  | 2 => m ||| v
  | 3 => m ^^^ v
  | 4 => if m.slt v then m else v
  | 5 => if m.slt v then v else m
  | 6 => if m.ult v then m else v
  | 7 => if m.ult v then v else m
  | 8 => v
  | _ => if m = v then v2 else m

/-- The cell `c'` is the cell `c` of a window of format `fmt` and anchor `x` after the addend `a` (R53, R54). -/
def cellTakes (fmt : Nat) (x : BitVec 16) (c c' : BitVec 256) (a : FVal) : Prop :=
  let st := min (c.extractLsb' 208 8).toNat 3
  let val := c.extractLsb' 0 192
  c'.extractLsb' 224 32 = c.extractLsb' 224 32 + 1 ∧ c'.extractLsb' 216 8 = BitVec.ofNat 8 fmt ∧ c'.extractLsb' 192 16 = x ∧
  match a with
  | .nan => (c'.extractLsb' 208 8).toNat = 3 ∧ c'.extractLsb' 0 192 = val
  | .inf neg =>
    let k := if neg then 2 else 1
    (c'.extractLsb' 208 8).toNat = (if st = 0 ∨ st = k then k else 3) ∧ c'.extractLsb' 0 192 = val
  | .fin neg m e =>
    let part : Nat := if x.toInt ≤ e then m * 2 ^ (e - x.toInt).toNat else m / 2 ^ (x.toInt - e).toNat
    (c'.extractLsb' 208 8).toNat = st ∧
    c'.extractLsb' 0 192 = if st = 0 then val + BitVec.ofInt 192 (if neg then -(part : Int) else part) else val

/-! ## What engines bring (R245, R262, R287) -/

/-- A bit of the bytes from an address on, put over the byte at `i`. -/
def bitOver (row k : Nat) (b : Bool) (i : Nat) (old : Byte) : Byte :=
  if i = row + k / 8 then (old &&& ~~~((1 : Byte) <<< (k % 8))) ||| (if b then (1 : Byte) <<< (k % 8) else 0) else old

/-- Bytes from an address on, put over the byte at `i`. -/
def bytesOver (a : Nat) (bs : List (Option Byte)) (i : Nat) (old : Byte) : Byte :=
  if a ≤ i then ((bs[i - a]?).bind id).getD old else old

/-- The byte at `i` after a transfer has brought a piece: its bytes, or its element in the destination's format (R245). -/
def pieceOver (i : Nat) (old : Byte) (b : Brought) : Byte :=
  match b.dst with
  | .bytes a => bytesOver a (b.bytes.map some) i old
  | .conv src dst row cap pos =>
    let v := convEl src dst (leNat b.bytes)
    match dst with
    | .pni => (List.range 8).foldl (fun o j => bitOver row (cap * j + pos) (v.testBit (7 - j)) i o) old
    | .b1 => bitOver row pos (v.testBit 0) i old
    | _ => bytesOver (row + dst.bytes * pos) ((leBytes dst.bytes v).map some) i old

/-- The byte at `i` after the rows of a matrix operation have landed one after another, each followed by the bits of bytes that it
replaces. -/
def rowsOver (m : MatOp) (i : Nat) (old : Byte) : Byte :=
  (m.land.zip (List.range m.land.length)).foldl (fun o r =>
    (m.bits.filter (fun b => b.1 == r.2 && b.2.1 == i)).foldl (fun o b => (o &&& ~~~b.2.2.1) ||| (b.2.2.2 &&& b.2.2.1))
      (bytesOver r.1.1 r.1.2 i o)) old

/-! ## Comparisons (R189) -/

/-- Condition code `cc` of CMP and CMPI. -/
def compares {n : Nat} (cc : Nat) (x y : BitVec n) : Bool :=
  match cc with
  | 0 => x == y
  | 1 => x != y
  | 2 => x.slt y
  | 3 => !x.slt y
  | 4 => x.ult y
  | _ => !x.ult y

/-! ## Saturation (R28, R183) -/

/-- The nearest signed value of `n` bits. -/
def clamp (n : Nat) (v : Int) : BitVec n := BitVec.ofInt n (max (-2 ^ (n - 1)) (min (2 ^ (n - 1) - 1) v))

/-- The low word of a register (R183). -/
def low (v : W64) : W32 := v.truncate 32

/-! ## What an instruction is refused for (R70, R95-R97) -/

/-- The current core runs, and its bundle comes to issue for the first time: the first check is made of it (R97). -/
abbrev fresh (s : State) : Prop := (me s).life = .running ∧ (me s).stall = none

/-- An instruction, alone in a bundle that comes to issue for the first time, takes the ILLOP of reason 5 (R96). -/
abbrev refused (s : State) (i : Instr) : Prop := fresh s → exec i s = .next (illegal i s)

/-- A tile that engine instructions accept: its rows are spread over at most sixteen banks, each within its bank, and those banks have
one format (R247). -/
abbrev tileOk (c : Core) (t : Win) : Prop :=
  t.spread ≤ 4 ∧ ∀ j, j < t.rows → t.rowOff j + t.len ≤ 0x10000 ∧ c.bfAt (t.rowBank j) = c.bfAt t.bank

/-- A handle within its limits (R282). -/
abbrev handleOk (h : Handle) : Prop :=
  h.base < 2 ^ 60 ∧ h.base % h.esize = 0 ∧ 1 ≤ h.rank ∧ h.rank ≤ 4 ∧ h.fmt ≤ 8 ∧ h.flags = 1 ∧ h.res0 = 0 ∧ h.res1 = 0 ∧
  h.pad < 2 ^ (8 * h.esize) ∧
  ∀ d, d < 4 → if d < h.rank then h.extAt d ≠ 0 ∧ h.strAt d % h.esize = 0 else h.extAt d = 0 ∧ h.strAt d = 0

/-- A handle, a shape and the first coordinate register of an access to a tensor agree (R282, R283, R289). -/
abbrev shapeOk (h : Handle) (m : RowMap) (v : W64) (cb : XNo) : Prop :=
  handleOk h ∧ cb.toNat + h.rank ≤ 32 ∧ (∀ d, d < 4 → if d < h.rank then dim v d ≠ 0 else dim v d ≤ 1) ∧
  match m with
  | .tile => True
  | .gather _ => 2 ≤ h.rank ∧ dim v 2 ≤ 1 ∧ dim v 3 ≤ 1
  | .bcast => dim v 2 ≤ 1 ∧ dim v 3 ≤ 1

/-- A tile holds the rows and the elements of a shape, in its own format or, of a RAW bank or handle, in the handle's (R247, R283). -/
abbrev holdsShape (c : Core) (h : Handle) (m : RowMap) (v : W64) (t : Win) : Prop :=
  tileOk c t ∧ (match m with
    | .tile => ext1 (dim v 1) * ext1 (dim v 2) * ext1 (dim v 3) ≤ t.rows
    | _ => ext1 (dim v 1) ≤ t.rows) ∧
  if c.fmtOf t = .raw ∨ h.bfmt = .raw then dim v 0 * h.esize ≤ t.len else dim v 0 ≤ rowCap (c.fmtOf t) t.len

/-- A strided range of the vault and a tile that SCOPY's shape gives (R292). -/
abbrev vaultOk (c : Core) (v : W64) (t : Win) (off : Nat) (pitch : Int) : Prop :=
  tileOk c t ∧ dim v 0 % 64 = 0 ∧ dim v 0 ≤ t.len ∧ ext1 (dim v 1) ≤ t.rows ∧ dim v 2 ≤ 1 ∧ dim v 3 ≤ 1 ∧ off % 64 = 0 ∧
  pitch % 64 = 0 ∧ ∀ j : Nat, j < ext1 (dim v 1) → 0 ≤ (off : Int) + j * pitch ∧ (off : Int) + j * pitch + dim v 0 ≤ 0x200000

/-- A message or a receive over a port, or with 16 within the gang, may be made here: at TL0, outside a phase, by an aligned core of a
kernel without nesting; and a peer of the gang is another core of it (R159, R412). -/
abbrev mayMessage (s : State) (port peer : Nat) : Prop :=
  let c := me s
  let k := kernelOf s c
  port ≤ 16 ∧ k.lr.nest = false ∧ c.aligned = true ∧ c.tl = 0 ∧ insidePhase s = false ∧
  (port = 16 → peer < k.lr.gang * 2 ^ k.lr.gsize ∧ peer ≠ gangIndex s c)

/-- The reason for which a port refuses a message, a receive or a copy of the current core with LINKERR: it is not in the context's
mask (1); it is DOWN, another context's, or not valid (2); another kernel has claimed it (3). Without one it is 0 (R403, R411). -/
def portReason (s : State) (port : Nat) : Nat :=
  let c := me s
  let n := ctxNo s c
  let l := linkAt s port
  if (ctxAt s n).portMask.getLsbD port = false then 1
  else if l.st = .down ∨ l.ctx.toNat ≠ n ∨ l.v = false then 2
  else if l.claim ≠ none ∧ l.claim ≠ c.kernel then 3 else 0

/-- The LINKERR of a port that refuses an instruction which nothing else refuses (R384, R411). -/
abbrev unlinked (s : State) (port : Nat) (i : Instr) : Prop :=
  port < 16 → portReason s port ≠ 0 → fresh s → exec i s = .next (trapOn s s.cur 0x0A (BitVec.ofNat 64 port)
    (BitVec.ofNat 64 (portReason s port)) (me s).bpc (me s).lpc false)

/-! ## The order of float values (R32) -/

/-- A float value lies below another; a NaN lies below none, and none below it. -/
def below (a b : FVal) : Bool :=
  match a, b with
  | .inf s, .inf t => s && !t
  | .inf s, .fin .. => s
  | .fin .., .inf t => !t
  | .fin s m e, .fin t n g =>
    let k := min e g
    decide ((if s then -(m : Int) else m) * 2 ^ (e - k).toNat < (if t then -(n : Int) else n) * 2 ^ (g - k).toNat)
  | _, _ => false

/-! ## Reductions and scans (R51, R52) -/

/-- The fixed tree over `2 ^ k` values: each round joins every value of the lower half to the one as far up in the upper half. -/
def treeOf {α : Type} (node : α → α → α) : Nat → (Nat → α) → α
  | 0, x => x 0
  | k + 1, x => treeOf node k (fun i => node (x i) (x (i + 2 ^ k)))

/-- `k` rounds of an inclusive scan from distance `d` on, each of twice the distance: in a round every place from `d` on takes the
value `d` places below it joined to its own, all together. -/
def scanOf {α : Type} (node : α → α → α) : Nat → Nat → (Nat → α) → Nat → α
  | 0, _, x => x
  | k + 1, d, x => scanOf node k (2 * d) (fun i => if d ≤ i then node (x (i - d)) (x i) else x i)

/-! ## Stops -/

/-- A state from which no number of steps stops. -/
def neverStops (s : State) : Prop := ∀ k, ∃ t, Sys2Proof.core.run k s = .next t

end Sys2Proof.Machine
end

