-- ==== Sys2Proof/Certificates/Slice0/Obligations.lean ====
section
/-! DEFINITION. The statements. -/

open Sys2Proof Sys2Proof.Machine

/-! ## The S slot (09_scalar) -/

/-- R182, R183: ADD, SUB and MUL in their four forms: wrapped or saturated, at 64 bits or at the low words. -/
def Obligations.AddSubMul : Prop :=
  ∀ (s : State) (d a b : XNo), comesToIssue s = true →
    let x := (me s).rx a.toNat
    let y := (me s).rx b.toNat
    (exec (.add d a b false false) s = .next (lands .s 1 (.x d.toNat (x + y)) s) ∧
     exec (.add d a b true false) s = .next (lands .s 1 (.x d.toNat (clamp 64 (x.toInt + y.toInt))) s) ∧
     exec (.add d a b false true) s = .next (lands .s 1 (.x d.toNat ((low x + low y).signExtend 64)) s) ∧
     exec (.add d a b true true) s =
       .next (lands .s 1 (.x d.toNat ((clamp 32 ((low x).toInt + (low y).toInt)).signExtend 64)) s)) ∧
    (exec (.sub d a b false false) s = .next (lands .s 1 (.x d.toNat (x - y)) s) ∧
     exec (.sub d a b true false) s = .next (lands .s 1 (.x d.toNat (clamp 64 (x.toInt - y.toInt))) s) ∧
     exec (.sub d a b false true) s = .next (lands .s 1 (.x d.toNat ((low x - low y).signExtend 64)) s) ∧
     exec (.sub d a b true true) s =
       .next (lands .s 1 (.x d.toNat ((clamp 32 ((low x).toInt - (low y).toInt)).signExtend 64)) s)) ∧
    (exec (.mul d a b false false) s = .next (lands .s 3 (.x d.toNat (x * y)) s) ∧
     exec (.mul d a b true false) s = .next (lands .s 3 (.x d.toNat (clamp 64 (x.toInt * y.toInt))) s) ∧
     exec (.mul d a b false true) s = .next (lands .s 3 (.x d.toNat ((low x * low y).signExtend 64)) s) ∧
     exec (.mul d a b true true) s =
       .next (lands .s 3 (.x d.toNat ((clamp 32 ((low x).toInt * (low y).toInt)).signExtend 64)) s))

/-- R182, R183, R186, R191: the two-operand operations without forms: the high halves of products, the bitwise
operations, the minima and maxima, and SEL; the shifts by a register, at 64 bits and at the low words, SLL.s, and the
shifts by an immediate; CLZ and POPC count the leading zero bits and the one bits of the operand at its width. -/
def Obligations.TwoOperands : Prop :=
  ∀ (s : State) (d a b : XNo) (p : PNo) (sh : BitVec 6), comesToIssue s = true →
    let x := (me s).rx a.toNat
    let y := (me s).rx b.toNat
    let n := y.toNat % 64
    let m := y.toNat % 32
    let put (lat : Nat) (v : W64) : State := lands .s lat (.x d.toNat v) s
    exec (.mulh d a b) s = .next (put 3 (((x.signExtend 128 * y.signExtend 128) >>> 64).truncate 64)) ∧
    exec (.mulhu d a b) s = .next (put 3 (((x.zeroExtend 128 * y.zeroExtend 128) >>> 64).truncate 64)) ∧
    exec (.and d a b) s = .next (put 1 (x &&& y)) ∧
    exec (.or d a b) s = .next (put 1 (x ||| y)) ∧
    exec (.xor d a b) s = .next (put 1 (x ^^^ y)) ∧
    exec (.min d a b) s = .next (put 1 (if y.slt x then y else x)) ∧
    exec (.max d a b) s = .next (put 1 (if x.slt y then y else x)) ∧
    exec (.minu d a b) s = .next (put 1 (if y.ult x then y else x)) ∧
    exec (.maxu d a b) s = .next (put 1 (if x.ult y then y else x)) ∧
    exec (.sel d a b p) s = .next (put 1 (if (me s).rp p.toNat then x else y)) ∧
    exec (.sll d a b false false) s = .next (put 1 (x <<< n)) ∧
    exec (.sll d a b true false) s = .next (put 1 (clamp 64 (x.toInt * 2 ^ n))) ∧
    exec (.sll d a b false true) s = .next (put 1 ((low x <<< m).signExtend 64)) ∧
    exec (.sll d a b true true) s = .next (put 1 ((clamp 32 ((low x).toInt * 2 ^ m)).signExtend 64)) ∧
    exec (.srl d a b false) s = .next (put 1 (x >>> n)) ∧
    exec (.srl d a b true) s = .next (put 1 ((low x >>> m).signExtend 64)) ∧
    exec (.sra d a b false) s = .next (put 1 (x.sshiftRight n)) ∧
    exec (.sra d a b true) s = .next (put 1 (((low x).sshiftRight m).signExtend 64)) ∧
    exec (.slli d a sh) s = .next (put 1 (x <<< sh.toNat)) ∧
    exec (.srli d a sh) s = .next (put 1 (x >>> sh.toNat)) ∧
    exec (.srai d a sh) s = .next (put 1 (x.sshiftRight sh.toNat)) ∧
    ∀ w : Bool,
      let n := if w then 32 else 64
      let v := x.toNat % 2 ^ n
      (∃ z, exec (.clz d a w) s = .next (put 1 (BitVec.ofNat 64 z)) ∧
        (v = 0 → z = n) ∧ (v ≠ 0 → z < n ∧ 2 ^ (n - 1 - z) ≤ v ∧ v < 2 ^ (n - z))) ∧
      exec (.popc d a w) s = .next (put 1 (BitVec.ofNat 64 ((List.range n).countP (fun i => v.testBit i))))

/-- R184: a division whose divisor is not zero at its width lands its quotient or remainder after 12 cycles. -/
def Obligations.Divides : Prop :=
  ∀ (s : State) (d a b : XNo), comesToIssue s = true →
    let x := (me s).rx a.toNat
    let y := (me s).rx b.toNat
    let put (v : W64) : State := lands .s 12 (.x d.toNat v) s
    (y ≠ 0 →
      exec (.div d a b false) s = .next (put (x.sdiv y)) ∧ exec (.divu d a b false) s = .next (put (x.udiv y)) ∧
      exec (.rem d a b false) s = .next (put (x.srem y)) ∧ exec (.remu d a b false) s = .next (put (x.umod y))) ∧
    (low y ≠ 0 →
      exec (.div d a b true) s = .next (put (((low x).sdiv (low y)).signExtend 64)) ∧
      exec (.divu d a b true) s = .next (put (((low x).udiv (low y)).signExtend 64)) ∧
      exec (.rem d a b true) s = .next (put (((low x).srem (low y)).signExtend 64)) ∧
      exec (.remu d a b true) s = .next (put (((low x).umod (low y)).signExtend 64)))

/-- R185: a zero divisor, at the width of the form, takes DIVZERO (cause 0x02) at the bundle, with the dividend and the
instruction word as its details; no result of the instruction lands. -/
def Obligations.DivideByZero : Prop :=
  ∀ (s : State) (d a b : XNo) (w : Bool), comesToIssue s = true →
    (if w then low ((me s).rx b.toNat) = 0 else (me s).rx b.toNat = 0) →
    let trap (i : Instr) : State := trapOn s s.cur 0x02 ((me s).rx a.toNat) (BitVec.ofNat 64 (encode i)) (me s).bpc (me s).lpc false
    exec (.div d a b w) s = .next (trap (.div d a b w)) ∧ exec (.divu d a b w) s = .next (trap (.divu d a b w)) ∧
    exec (.rem d a b w) s = .next (trap (.rem d a b w)) ∧ exec (.remu d a b w) s = .next (trap (.remu d a b w))

/-- R186-R188, R201: the operations with an immediate, LI and LIS, the bit fields and LITR. -/
def Obligations.Immediates : Prop :=
  ∀ (s : State) (d a : XNo) (imm : BitVec 16) (k : BitVec 12) (len pos : BitVec 6), comesToIssue s = true →
    let x := (me s).rx a.toNat
    let put (v : W64) : State := lands .s 1 (.x d.toNat v) s
    let f : BitVec (len.toNat + 1) := x.extractLsb' pos.toNat (len.toNat + 1)
    let field : W64 := ((1#64 <<< (len.toNat + 1)) - 1) <<< pos.toNat
    exec (.addi d a imm) s = .next (put (x + imm.signExtend 64)) ∧
    exec (.andi d a imm) s = .next (put (x &&& imm.signExtend 64)) ∧
    exec (.ori d a imm) s = .next (put (x ||| imm.zeroExtend 64)) ∧
    exec (.xori d a imm) s = .next (put (x ^^^ imm.zeroExtend 64)) ∧
    exec (.li d imm) s = .next (put (imm.signExtend 64)) ∧
    exec (.lis d a imm) s = .next (put ((x <<< 16) ||| imm.zeroExtend 64)) ∧
    exec (.litr d a k) s = .next (put (tabGet 0 (me s).lit ((x.toNat + k.toNat) % 4096))) ∧
    (pos.toNat + len.toNat + 1 ≤ 64 →
      exec (.bfx d a false len pos) s = .next (put (f.zeroExtend 64)) ∧
      exec (.bfx d a true len pos) s = .next (put (f.signExtend 64)) ∧
      exec (.bfi d a len pos) s =
        .next (put (((me s).rx d.toNat &&& ~~~field) ||| ((x <<< pos.toNat) &&& field))))

/-- R189, R190, R192: CMP, CMPI and PLOG land in a predicate other than p0. -/
def Obligations.Predicates : Prop :=
  ∀ (s : State) (p : PNo) (a b : XNo) (c4 : BitVec 4) (c3 : BitVec 3) (imm : BitVec 13) (pa pb : PNo) (tt : BitVec 4),
    comesToIssue s = true → p ≠ 0 →
    let x := (me s).rx a.toNat
    let y := (me s).rx b.toNat
    let put (v : Bool) : State := lands .s 1 (.p p.toNat v) s
    (c4.toNat < 6 →
      exec (.cmp p a b false c4) s = .next (put (compares c4.toNat x y)) ∧
      exec (.cmp p a b true c4) s = .next (put (compares c4.toNat (low x) (low y)))) ∧
    (c3.toNat < 6 → exec (.cmpi p a c3 imm) s = .next (put (compares c3.toNat x (imm.signExtend 64)))) ∧
    exec (.plog p pa pb tt) s = .next (put (tt.getLsbD
      (2 * (if (me s).rp pa.toNat then 1 else 0) + (if (me s).rp pb.toNat then 1 else 0))))

/-- R193, R194, R196: a taken branch goes on at its target, which lies in the bundle store; BR is taken when its
predicate differs from its sense bit, CALL and JR always, and these land the address after their bundle. -/
def Obligations.Branches : Prop :=
  ∀ (s : State) (neg : Bool) (p : PNo) (l a : XNo) (disp : BitVec 21), comesToIssue s = true →
    let t := ((me s).bpc : Int) + disp.toInt
    let j := ((me s).rx a.toNat).toNat
    ((me s).rp p.toNat = neg → exec (.br neg p disp) s = .next (onward .s 1 s s)) ∧
    (0 ≤ t → t < 0x20000 →
      ((me s).rp p.toNat = !neg → exec (.br neg p disp) s = .next (goesTo t.toNat (onward .s 1 s s))) ∧
      exec (.call l disp) s =
        .next (goesTo t.toNat (lands .s 1 (.x l.toNat (BitVec.ofNat 64 ((me s).bpc + 5))) s))) ∧
    (j < 0x20000 → exec (.jr l a) s = .next (goesTo j (lands .s 1 (.x l.toNat (BitVec.ofNat 64 ((me s).bpc + 5))) s)))

/-- R195, R196: LOOP counts its register down and is taken until the count reaches 0; x0 as the counter, or a taken LOOP
whose target lies outside the bundle store, raises ILLOP with reason 5. -/
def Obligations.Loop : Prop :=
  ∀ (s : State) (c : XNo) (disp : BitVec 21), comesToIssue s = true →
    let n := ((me s).rx c.toNat).toNat
    let t := ((me s).bpc : Int) + disp.toInt
    let counted : State := lands .s 1 (.x c.toNat (BitVec.ofNat 64 (n - 1))) s
    (c = 0 → exec (.loop c disp) s = .next (illegal (.loop c disp) s)) ∧
    (c ≠ 0 → n = 0 → exec (.loop c disp) s = .next (onward .s 1 s s)) ∧
    (c ≠ 0 → n = 1 → exec (.loop c disp) s = .next counted) ∧
    (c ≠ 0 → 2 ≤ n → 0 ≤ t → t < 0x20000 → exec (.loop c disp) s = .next (goesTo t.toNat counted)) ∧
    (c ≠ 0 → 2 ≤ n → t < 0 ∨ 0x20000 ≤ t → exec (.loop c disp) s = .next (illegal (.loop c disp) s))

/-- R197-R199, R383: a scalar load within the scratchpad, aligned to its size, lands its bytes after 4 cycles, extended
with zeros (LDZ) or with their sign (LDS); a store sends its bytes to land after 2 cycles, or after 3 when narrower than
a word. A load of a poisoned word outside a phase takes the machine check (cause 0x07) of source 1 at the word, before
its bundle. It rests on the model's log entry 19. -/
def Obligations.ScalarAccess : Prop :=
  ∀ (s : State) (d b : XNo) (size : BitVec 2) (off : BitVec 14), comesToIssue s = true →
    let n := 2 ^ size.toNat
    let ea := ((me s).rx b.toNat + (off.signExtend 64 <<< size.toNat)).toNat
    ea < 0x100000 → ea % n = 0 →
    let v : BitVec (8 * n) := BitVec.ofNat (8 * n) ((me s).sp.readLE ea n)
    ((me s).poisonIn ea n = none →
      exec (.ldz d b size off) s = .next (lands .s 4 (.x d.toNat (v.zeroExtend 64)) s) ∧
      exec (.lds d b size off) s = .next (lands .s 4 (.x d.toNat (v.signExtend 64)) s)) ∧
    exec (.st d b size off) s = .next (lands .s (if n < 4 then 3 else 2)
      (.mem [(ea, (leBytes n ((me s).rx d.toNat).toNat).map some)] (decide (n < 4))) s) ∧
    (∀ at_, insidePhase s = false → (me s).poisonIn ea n = some at_ →
      let trap : State := trapOn s s.cur 0x07 1 (BitVec.ofNat 64 at_) (me s).bpc (me s).lpc false
      exec (.ldz d b size off) s = .next trap ∧ exec (.lds d b size off) s = .next trap)

/-- R200, R244, R248: the writes of shadow shape registers, tile registers and bank formats, each landing after 1 cycle;
TDW marks its tile as written until then. -/
def Obligations.DescriptorWrites : Prop :=
  ∀ (s : State) (n : BitVec 4) (f : BitVec 3) (t : TNo) (a : XNo), comesToIssue s = true →
    let x := (me s).rx a.toNat
    (f.toNat < 5 → exec (.shw n a f) s = .next (lands .s 1 (.shadow n.toNat f.toNat x) s)) ∧
    ((me s).sbAt (.tile t.toNat) = none →
      exec (.tdw t a) s =
        .next (onward .s 1 s (fly (insidePhase s) 1 (.tile t.toNat (x.truncate 40)) (marks [] [.tile t.toNat] s)))) ∧
    (x.toNat % 16 < 11 → (me s).bankBusy n.toNat = false →
      exec (.bfw n a) s = .next (lands .s 1 (.bf n.toNat (x.truncate 4)) s))

/-- R88, R122, R153, R202, R203, R249, R301, R307, R310, R363, R379, R386, R394, R408: CSRR lands the value of a CSR
after 2 cycles, each register's at its number, and raises ILLOP with reason 5 at a number without a register; DIGRD and
LCRCR land theirs alike. CSRW writes LPC, the layout-unit selection and TSEL, and THVEC, TSAVE and the writable
registers of both trap banks, each value within its limits; a value outside them, and every number that cannot be
written, raises ILLOP with reason 5. LCRCW sets the running CRC. -/
def Obligations.ControlRegisters : Prop :=
  ∀ (s : State) (d a : XNo), comesToIssue s = true →
    let c := me s
    let k := kernelOf s c
    let x := ctxAt s k.ctx
    let g := groupOf s c
    let lu := c.lusel.toNat
    let y := c.rx a.toNat
    let reads (n v : Nat) : Prop :=
      exec (.csrr d (BitVec.ofNat 16 n)) s = .next (lands .s 2 (.x d.toNat (BitVec.ofNat 64 v)) s)
    let bank (n : Nat) (b : TrapBank) : Prop :=
      reads n (b.cause % 256 + 256 * (b.from_ % 4) + (if b.re then 1024 else 0)) ∧ reads (n + 1) b.epc ∧
      reads (n + 2) b.lpc.toNat ∧ reads (n + 3) b.deta.toNat ∧ reads (n + 4) b.detb.toNat ∧ reads (n + 5) b.x30.toNat ∧
      reads (n + 6) b.x31.toNat ∧ reads (n + 7) (b.pred.toNat / 2 * 2 + 1)
    let numbers : List Nat := List.range 4 ++ (List.range 6).map (0x040 + ·) ++ (List.range 20).map (0x060 + ·) ++
      (List.range 6).map (0x080 + ·) ++ (List.range 4).map (0x0A0 + ·) ++ [0x0C0, 0x0C1, 0x0E0] ++
      (List.range 36).map (0x100 + ·)
    let writes (n : Nat) (f : Core → Core) : Prop := exec (.csrw a (BitVec.ofNat 16 n)) s = .next (onward .s 1 s (mapMe s f))
    let refuses (n : Nat) : Prop :=
      exec (.csrw a (BitVec.ofNat 16 n)) s = .next (illegal (.csrw a (BitVec.ofNat 16 n)) s)
    (reads 0x000 (if k.lr.nest then c.lcc - c.ld else c.lcc).toNat ∧ reads 0x001 c.bpc ∧ reads 0x002 c.lpc.toNat ∧
      reads 0x003 s.cur) ∧
    (reads 0x040 k.ctx ∧ reads 0x041 (4 * x.level + k.level) ∧ reads 0x042 x.grant.toNat ∧ reads 0x043 (bitSet k.bays) ∧
      reads 0x044 (c.group % 1024 * 2 ^ 16 + k.lr.gsize % 16 * 2 ^ 4 + c.cidx % 16) ∧
      reads 0x045 (g.canc % 4 * 2 ^ 32 + g.ncommit.toNat * 2 ^ 16 + g.ncommit.toNat % 2 * 4 +
        (match g.ph with | .closed => 0 | .open_ => 1 | .sealed => 2 | .prepare => 3))) ∧
    (reads 0x060 c.tl ∧ reads 0x061 c.thvec ∧ reads 0x062 c.tsave ∧ reads 0x063 c.budg ∧ bank 0x064 c.bank1 ∧
      bank 0x06C c.bank2) ∧
    (reads 0x080 s.pmap.toNat ∧
      reads 0x081 (s.rehashes.toNat * 2 ^ 48 + ((List.range 8).map (fun i => if planeSt s i = .up then 2 ^ i else 0)).sum) ∧
      reads 0x082 0x1249249249 ∧ reads 0x083 0x2492492492 ∧ reads 0x084 0x0924924924 ∧
      reads 0x085 (c.replays.toNat * 2 ^ 32 + c.gateclk.toNat)) ∧
    (reads 0x0A0 lu ∧ reads 0x0A1 (tabGet 0 s.lucnt (128 * (lu % 16) + 2 * (lu / 16 % 64) + lu / 1024)).toNat ∧
      reads 0x0A2 (c.uecnt.toNat * 2 ^ 32 + c.seccnt.toNat) ∧ reads 0x0A3 c.tags.length) ∧
    (reads 0x0C0 s.devid.toNat ∧ reads 0x0C1 c.lbpclk.toNat ∧ reads 0x0E0 (c.pulls.toNat * 2 ^ 32 + c.walks.toNat)) ∧
    (∀ i, i < 16 → reads (0x100 + i) (tabGet 0 c.shLive i).toNat ∧ reads (0x110 + i) (tabGet 0 c.shShadow i).toNat) ∧
    (reads 0x120 c.bfWord.toNat ∧ reads 0x121 c.tsel.toNat ∧ reads 0x122 (c.tileAt c.tsel.toNat).toNat ∧
      reads 0x123 (c.chkcnt.toNat * 2 ^ 32 + (if c.suspect then 1 else 0))) ∧
    (∀ n : BitVec 16, n.toNat ∉ numbers → exec (.csrr d n) s = .next (illegal (.csrr d n) s)) ∧
    exec (.digrd d) s = .next (lands .x 2 (.x d.toNat c.digest) s) ∧
    exec (.lcrcr d) s = .next (lands .l 2 (.x d.toNat ((c.lcrc ^^^ 0xFFFFFFFF).zeroExtend 64)) s) ∧
    exec (.lcrcw a) s = .next (onward .l 1 s (mapMe s (fun c => { c with lcrc := low y ^^^ 0xFFFFFFFF }))) ∧
    exec (.csrw a 0x002) s = .next (mapMe (onward .s 1 s s) (fun c => { c with lpc := y.truncate 12 })) ∧
    (if y.toNat < 0x20000 ∧ y.toNat % 64 = 0 then writes 0x061 (fun c => { c with thvec := y.toNat }) else refuses 0x061) ∧
    (if y.toNat < 2 ^ 60 ∧ y.toNat % 512 = 0 then writes 0x062 (fun c => { c with tsave := y.toNat }) else refuses 0x062) ∧
    writes 0x0A0 (fun c => { c with lusel := y.truncate 11 }) ∧ writes 0x121 (fun c => { c with tsel := y.truncate 6 }) ∧
    (if y.toNat < 0x20000 then
      writes 0x065 (fun c => { c with bank1 := { c.bank1 with epc := y.toNat } }) ∧
      writes 0x06D (fun c => { c with bank2 := { c.bank2 with epc := y.toNat } }) else refuses 0x065 ∧ refuses 0x06D) ∧
    (writes 0x066 (fun c => { c with bank1 := { c.bank1 with lpc := y.truncate 12 } }) ∧
      writes 0x069 (fun c => { c with bank1 := { c.bank1 with x30 := y } }) ∧
      writes 0x06A (fun c => { c with bank1 := { c.bank1 with x31 := y } }) ∧
      writes 0x06B (fun c => { c with bank1 := { c.bank1 with pred := (y.truncate 8 &&& 0xFE) ||| 1 } })) ∧
    (writes 0x06E (fun c => { c with bank2 := { c.bank2 with lpc := y.truncate 12 } }) ∧
      writes 0x071 (fun c => { c with bank2 := { c.bank2 with x30 := y } }) ∧
      writes 0x072 (fun c => { c with bank2 := { c.bank2 with x31 := y } }) ∧
      writes 0x073 (fun c => { c with bank2 := { c.bank2 with pred := (y.truncate 8 &&& 0xFE) ||| 1 } })) ∧
    (∀ n : BitVec 16, n.toNat ∉ [0x002, 0x061, 0x062, 0x065, 0x066, 0x069, 0x06A, 0x06B, 0x06D, 0x06E, 0x071, 0x072, 0x073,
      0x0A0, 0x121] → exec (.csrw a n) s = .next (illegal (.csrw a n) s))

/-- R95, R180, R188-R190, R196, R197, R200, R244: operands for which an S-slot instruction takes ILLOP with reason 5. -/
def Obligations.ScalarIllegal : Prop :=
  ∀ (s : State) (d a b : XNo) (p : PNo), comesToIssue s = true →
    (∀ (w : Bool) (cc : BitVec 4), p = 0 ∨ 6 ≤ cc.toNat →
      exec (.cmp p a b w cc) s = .next (illegal (.cmp p a b w cc) s)) ∧
    (∀ (cc : BitVec 3) (imm : BitVec 13), p = 0 ∨ 6 ≤ cc.toNat →
      exec (.cmpi p a cc imm) s = .next (illegal (.cmpi p a cc imm) s)) ∧
    (∀ (x y : PNo) (t : BitVec 4), exec (.plog 0 x y t) s = .next (illegal (.plog 0 x y t) s)) ∧
    (∀ (se : Bool) (len pos : BitVec 6), 64 < pos.toNat + len.toNat + 1 →
      exec (.bfx d a se len pos) s = .next (illegal (.bfx d a se len pos) s) ∧
      exec (.bfi d a len pos) s = .next (illegal (.bfi d a len pos) s)) ∧
    (∀ disp : BitVec 21, ((me s).bpc : Int) + disp.toInt < 0 ∨ 0x20000 ≤ ((me s).bpc : Int) + disp.toInt →
      exec (.call d disp) s = .next (illegal (.call d disp) s) ∧
      ∀ neg : Bool, (me s).rp p.toNat = !neg → exec (.br neg p disp) s = .next (illegal (.br neg p disp) s)) ∧
    (0x20000 ≤ ((me s).rx a.toNat).toNat → exec (.jr d a) s = .next (illegal (.jr d a) s)) ∧
    (∀ (size : BitVec 2) (off : BitVec 14),
      let ea := ((me s).rx b.toNat + (off.signExtend 64 <<< size.toNat)).toNat
      0x100000 ≤ ea ∨ ea % 2 ^ size.toNat ≠ 0 →
      exec (.lds d b size off) s = .next (illegal (.lds d b size off) s) ∧
      exec (.ldz d b size off) s = .next (illegal (.ldz d b size off) s) ∧
      exec (.st d b size off) s = .next (illegal (.st d b size off) s)) ∧
    (∀ (n : BitVec 4) (f : BitVec 3), 5 ≤ f.toNat → exec (.shw n a f) s = .next (illegal (.shw n a f) s)) ∧
    (∀ n : BitVec 4, 11 ≤ ((me s).rx a.toNat).toNat % 16 → exec (.bfw n a) s = .next (illegal (.bfw n a) s))

/-! ## The X slot -/

/-- R62, R74, R148, R317, R369, R388, R389: NOP lets one logical cycle pass, NOPN with n at or above 1 lets n, and n = 0
raises ILLOP with reason 5. PHACQ outside a phase, PFENCE once everything the core sent has completed, and SBWAIT once
its object is free enough change nothing but the time. END halts fetch, at TL0 and outside a phase, and raises ILLOP
with reason 5 elsewhere; TRAP takes cause 0x09 after its bundle; TRET, once every result of its level has landed,
returns, and raises ILLOP with reason 5 at TL0. A bundle with which the handler budget runs out ends neither in the trap
nor in the return, since its context is killed (R390). It rests on the model's log entries 10, 14 and 88. -/
def Obligations.WaitsAndEnds : Prop :=
  ∀ (s : State) (tile : TNo) (a : ANo) (imm n : BitVec 16), comesToIssue s = true →
    let t := onward .x 1 s s
    exec .nop s = .next t ∧
    exec (.nopn n) s = .next (if n = 0 then illegal (.nopn n) s else onward .x n.toNat s s) ∧
    ((groupOf s (me s)).ph.inside = false → exec .phacq s = .next t) ∧
    (fenceDone s s.cur = true → fenceStays s = false → exec .pfence s = .next t) ∧
    ((me s).sbAt (.tile tile.toNat) ≠ some .write → exec (.sbwaitTile false tile) s = .next t) ∧
    ((me s).sbAt (.tile tile.toNat) = none → exec (.sbwaitTile true tile) s = .next t) ∧
    ((me s).sbAt (.acc a.toNat) ≠ some .write → exec (.sbwaitAcc false a) s = .next t) ∧
    ((me s).sbAt (.acc a.toNat) = none → exec (.sbwaitAcc true a) s = .next t) ∧
    ((me s).tl = 0 → (groupOf s (me s)).ph.inside = false →
      exec .endp s = .next (mapMe t (fun c => { c with life := .ended }))) ∧
    ((me s).tl ≠ 0 ∨ (groupOf s (me s)).ph.inside = true → exec .endp s = .next (illegal .endp s)) ∧
    exec (.trap imm) s = .next (if spent t then t else
      trapOn t t.cur 0x09 (imm.zeroExtend 64) 0 (me t).bpc (me t).lpc true) ∧
    ((me s).tl ≠ 0 → (me s).pipe = [] → exec .tret s = .next (if spent t then t else comeBack (mapMe t Core.leave))) ∧
    ((me s).tl ≠ 0 → (me s).pipe = [] → spent t = false → (groupOf s (me s)).step = .none →
      exec .tret s = .next (mapMe t Core.leave)) ∧
    ((me s).tl = 0 → exec .tret s = .next (illegal .tret s))

/-- R155, R158, R165, R312, R314, R315: LALIGN, WNEXT, PHOPEN, PHSEAL and PHPUB come to their rendezvous: the bundle
waits there, and nothing else changes but the record of its stall. -/
def Obligations.RendezvousReached : Prop :=
  ∀ s : State, (me s).life = .running → (me s).stall = none →
    let waits (i : Instr) (r : Rdv) : Prop := ∃ t, exec i s = .next t ∧ waitingAt t = some r ∧
      t = mapMe s (fun c => { c with stall := (me t).stall })
    ((kernelOf s (me s)).lr.nest = false → (me s).aligned = false → (me s).tl = 0 →
      (groupOf s (me s)).ph.inside = false → waits .lalign .lalign) ∧
    (∀ d : PNo, d ≠ 0 → (kernelOf s (me s)).lr.nest = true → (me s).tl = 0 → (groupOf s (me s)).ph.inside = false →
      waits (.wnext d) .wnext) ∧
    (∀ (a : XNo) (e1 e0 : Bool) (acc1 acc0 : ANo), (e0 = true → e1 = true → acc0 ≠ acc1) →
      (e0 = true → ((me s).rx a.toNat).toNat % 64 = 0 ∧
        ((me s).rx a.toNat).toNat + 26624 * (1 + (if e1 then 1 else 0)) ≤ 0x100000) → (e1 = true → e0 = true) →
      (groupOf s (me s)).ph.inside = false → (me s).tl = 0 → (levelOf s (me s) = 2 → (groupOf s (me s)).opened = false) →
      waits (.phopen a e1 acc1 e0 acc0) .phopen) ∧
    ((groupOf s (me s)).ph = .open_ → (me s).tl = 0 → waits .phseal .phseal) ∧
    ((groupOf s (me s)).ph ≠ .closed → (me s).tl = 0 → waits .phpub .phpub)

/-- R155, R157, R158, R165, R313-R315: a bundle of LALIGN, WNEXT, PHOPEN, PHSEAL or PHPUB that its rendezvous has
released issues: its core is at the next bundle, at the cycle that the rendezvous set if it set one, and other cores,
kernels, requests and memories are as they were. WNEXT sends its predicate and, when an item was dispatched, its eight
registers on their way; PHOPEN takes the snapshot, the running log becoming the input log. It rests on the model's log
entry 30. -/
def Obligations.RendezvousReleased : Prop :=
  ∀ s : State, (me s).life = .running → ((me s).stall.map Stall.go).getD false = true →
    let issues (i : Instr) (more : Core → Core → Prop) : Prop := ∃ t, exec i s = .next t ∧
      t = setCore s s.cur (me t) ∧ (me t).bpc = (me s).bpc + 5 ∧ (me t).stall = none ∧ (me t).life = .running ∧
      (me t).x = (me s).x ∧ (me t).p = (me s).p ∧ (∀ v, ((me s).stall.bind Stall.lccNext) = some v → (me t).lcc = v) ∧
      more (me s) (me t)
    let fresh : Prop := ((me s).stall.map Stall.early).getD false = false
    (fresh → issues .lalign (fun _ c => c.aligned = true)) ∧
    (∀ d : PNo, d ≠ 0 →
      let got := ((me s).stall.map Stall.got).getD false
      issues (.wnext d) (fun b c => c.pipe = (b.pipe ++
        (if got then ((upto 8).zip (preload (kernelOf s b).lr ((groupOf s b).item.getD 0))).map
          (fun (q : Nat × W64) => (⟨1, false, .x (24 + q.1) q.2⟩ : Flight)) else []) ++
        [(⟨1, false, .p d.toNat got⟩ : Flight)]).map (fun f : Flight => { f with rem := f.rem - 1 }))) ∧
    (∀ (a : XNo) (acc0 acc1 : ANo) (e0 e1 : Bool), fresh → (e1 = true → e0 = true ∧ acc0 ≠ acc1) →
      let area := ((me s).rx a.toNat).toNat
      (e0 = true → area % 64 = 0 ∧ area + 26624 * (1 + (if e1 then 1 else 0)) ≤ 0x100000 ∧
        (me s).sbAt (.acc acc0.toNat) ≠ some .write) → (e1 = true → (me s).sbAt (.acc acc1.toNat) ≠ some .write) →
      issues (.phopen a e1 acc1 e0 acc0) (fun b c => c.inLog = b.runLog ∧ c.runLog = [] ∧ ∃ p, c.snap = some p ∧
        p.x = b.x ∧ p.p = b.p ∧ p.bpc = b.bpc + 5 ∧ p.lpc = b.lpc ∧ p.lcc = c.lcc - 1 ∧
        p.accs = (if e0 then [acc0.toNat] else []) ++ (if e1 then [acc1.toNat] else []) ∧
        p.area = if e0 then area else 0)) ∧
    (fresh → issues .phseal (fun b c => c.snap = b.snap)) ∧
    (fresh → issues .phpub (fun b c => c.snap = b.snap))

/-! ## Barriers (17_barrier) -/

/-- R336, R339: an arrival at a barrier that expects one counts it, and the last completes the phase when no sector is
outstanding; a sector counts down, NEG recording a count below 0 and ERR one that would pass the least, and at an
UNARMED barrier (EXP = 0) nothing completes; BEXP of arrivals or of sectors adds within the field, and completes where
both counts come to zero. A barrier put into the scratchpad reads back as it was put (R332). -/
def Obligations.BarrierUpdates : Prop :=
  (∀ (c : Core) (a : Nat) (b : Bar), c.sp.wf = true → b.ph < 16 → b.arr < 2 ^ 20 → b.exp < 2 ^ 20 → b.spare < 2 →
    b.res1 < 2 ^ 16 → b.res2 < 2 ^ 32 → -(2 ^ 31) ≤ b.sect → b.sect < 2 ^ 31 → (c.barPut a b).barAt a = b) ∧
  ∀ b : Bar,
    (b.exp = 0 ∨ b.arr = 0 → b.arrive = { b with err := true }) ∧
    (b.exp ≠ 0 → 2 ≤ b.arr → b.arrive = { b with arr := b.arr - 1 }) ∧
    (b.exp ≠ 0 → b.arr = 1 → b.sect ≠ 0 → b.arrive = { b with arr := 0 }) ∧
    (b.exp ≠ 0 → b.arr = 1 → b.sect = 0 → b.arrive = { b with arr := b.exp, ph := (b.ph + 1) % 16 }) ∧
    (b.sect = -(2 ^ 31) → b.sector = { b with err := true }) ∧
    (-(2 ^ 31) < b.sect → b.sect ≤ 0 → b.sector = { b with sect := b.sect - 1, neg := true }) ∧
    (2 ≤ b.sect → b.sector = { b with sect := b.sect - 1 }) ∧
    (b.sect = 1 → b.exp ≠ 0 → b.arr = 0 → b.sector = { b with sect := 0, arr := b.exp, ph := (b.ph + 1) % 16 }) ∧
    (b.sect = 1 → b.arr ≠ 0 ∨ b.exp = 0 → b.sector = { b with sect := 0 }) ∧
    (∀ n, b.arr + n < 2 ^ 20 → n ≠ 0 → b.expect true n = some { b with arr := b.arr + n }) ∧
    (∀ n, 2 ^ 20 ≤ b.arr + n → b.expect true n = none) ∧
    ∀ n : Nat,
      (b.sect + n ≤ 2 ^ 31 - 1 → b.sect + n ≠ 0 ∨ b.arr ≠ 0 ∨ b.exp = 0 →
        b.expect false n = some { b with sect := b.sect + n }) ∧
      (b.sect + n = 0 → b.arr = 0 → b.exp ≠ 0 →
        b.expect false n = some { b with sect := 0, arr := b.exp, ph := (b.ph + 1) % 16 }) ∧
      (2 ^ 31 - 1 < b.sect + n → b.expect false n = none)

/-- R334-R338: the owner's barrier instructions at an aligned address of the scratchpad, outside the phases in which a
level refuses them, on a barrier that holds no poison: BINIT, BARR, BEXP and its BOVF trap, BTEST, and BWAIT once the
phase differs from its token. -/
def Obligations.OwnBarriers : Prop :=
  ∀ (s : State) (a b : XNo), comesToIssue s = true →
    let at_ := ((me s).rx a.toNat).toNat
    let y := ((me s).rx b.toNat).toNat
    at_ % 16 = 0 → at_ ≤ 0xFFFF0 →
    let bar := (me s).barAt at_
    let nest : Prop := (kernelOf s (me s)).lr.nest = true
    let free : Prop := (groupOf s (me s)).ph.inside = false ∨ levelOf s (me s) = 0
    let clean : Prop := (me s).poisonIn at_ 16 = none
    (free → 0 < y → y < 2 ^ 20 →
      exec (.binit a b) s = .next (onward .x 1 s (ownUpdate at_ (fun _ => ⟨0, y, y, 0, false, false, false, 0, 0, 0⟩) s))) ∧
    (free → nest → clean → exec (.barr a) s = .next (onward .x 1 s (ownUpdate at_ Bar.arrive s))) ∧
    (∀ (arr : Bool) (v : Bar), free → clean → 0 < y → y < (if arr then 2 ^ 20 else 2 ^ 31) → bar.expect arr y = some v →
      exec (.bexp a b arr) s = .next (onward .x 1 s (ownUpdate at_ (fun _ => v) s))) ∧
    (∀ arr : Bool, free → clean → 0 < y → y < (if arr then 2 ^ 20 else 2 ^ 31) → bar.expect arr y = none →
      exec (.bexp a b arr) s =
        let t := mapMe s (fun c => c.barPut at_ { c.barAt at_ with ovf := true })
        .next (trapOn t t.cur 0x06 (BitVec.ofNat 64 at_) (if arr then 1 else 0) (me s).bpc (me s).lpc false)) ∧
    (clean → exec (.btest a b false) s = .next (lands .x 2 (.x b.toNat (BitVec.ofNat 64 (bar.word % 2 ^ 64))) s)) ∧
    (clean → exec (.btest a b true) s = .next (lands .x 2 (.x b.toNat (BitVec.ofInt 64 bar.sect)) s)) ∧
    (nest → clean → bar.ph ≠ y % 16 → exec (.bwait a b) s = .next (onward .x 1 s s)) ∧
    (nest → clean → bar.ph = y % 16 → (me s).stall = none →
      ∃ t, exec (.bwait a b) s = .next (mapMe s (fun c => { c with stall := some t })) ∧ t.bwait = some (at_, y % 16))

/-! ## Queues, pages, events (05_context, 06_queue, 18_page) -/

/-- R123, R128, R136, R137, R336: once walked, with the global-issue gate open and its address translated, ENQ sends a
packet of the scratchpad to the ring of a device-owned queue that has room for those on their way, QSIG the update of
its token to the token's home, and both are held with an open phase; where the token's address does not translate, QSIG
takes XLATE (cause 0x03) with the address and the reason (R350). QWAIT, in a nest kernel, sends a read of its token to
the token's home, and goes on when that has brought a value that has reached the threshold; BARR.G sends an arrival to
the home of its barrier. A packet that reaches its home enters the ring at QTAIL, with SEQ as its first field, every
other byte as it was; QTAIL moves on, and an IDLE queue becomes READY unless its context is suspended (R128). EVPOST
posts its record outside a phase, is held in an open one in the issue order of its core (R123), and raises ILLOP with
reason 5 in a sealed one (R314). It rests on the model's log entries 37, 48 and 91. -/
def Obligations.QueueInstructions : Prop :=
  ∀ (s : State) (a b : XNo) (q : BitVec 10) (o : Bool) (code : BitVec 16), comesToIssue s = true →
    let n := ctxNo s (me s)
    let u := queueAt s n q.toNat
    let x := ((me s).rx a.toNat).toNat
    let open_ : Prop := hasWalked s = true ∧ gateClosed s = false
    let ph := if insidePhase s then (me s).kernel.map (fun k => (k, (me s).group)) else none
    let sends (pg : Page) (va : Nat) (op : ReqOp) : State :=
      onward .x 1 s (sendReqBy s (.core s.cur) n none (pg.place va) va op ph pg.lg)
    (∀ pg, open_ → phaseOf s (me s) ≠ .sealed → q.toNat < (ctxAt s n).queues.length → u.device = true → x % 64 = 0 →
      x < 0x100000 → comingFor s n q.toNat < 2 ^ u.lg - (u.qtail + 2 ^ 48 - u.qcons) % 2 ^ 48 →
      let slot := u.ring + 64 * (u.qtail % 2 ^ u.lg)
      xlate s n slot .write = .ok pg →
      exec (.enq a q) s = .next (sends pg slot (.enq q.toNat ((me s).sp.readN x 64)))) ∧
    (∀ (r : Req) (packet : List Byte) pg k, r.op = .enq q.toNat packet → r.ctx = n → q.toNat < (ctxAt s n).queues.length →
      let slot := u.ring + 64 * (u.qtail % 2 ^ u.lg)
      let t := (homeServe r s).2
      xlate s n slot .write = .ok pg → (pg.place slot).home = .stack k → clean s (pg.place slot) →
      (∀ w ∈ (ctxAt s n).windows, w.fmt = 0) → (homeServe r s).1 = [] ∧
      wroteAt s t (pg.place slot) ((leBytes 6 u.qtail ++ packet.drop 6).map some) ∧
      queueAt t n q.toNat = { u with qtail := (u.qtail + 1) % 2 ^ 48
                                     st := if u.st = .idle ∧ (ctxAt s n).st ≠ .suspended then .ready else u.st }) ∧
    (∀ pg, open_ → phaseOf s (me s) ≠ .sealed → x % 8 = 0 → xlate s n x .write = .ok pg →
      exec (.qsig a b o) s = .next (sends pg x (.red (if o then 8 else 0) 1 ((me s).rx b.toNat)))) ∧
    (∀ r, open_ → phaseOf s (me s) ≠ .sealed → x % 8 = 0 → xlate s n x .write = .error r →
      exec (.qsig a b o) s = .next (trapOn s s.cur 0x03 (BitVec.ofNat 64 x) (BitVec.ofNat 64 r) (me s).bpc (me s).lpc false)) ∧
    (∀ pg, open_ → (kernelOf s (me s)).lr.nest = true → x % 8 = 0 → xlate s n x .read = .ok pg →
      let least := ((me s).rx b.toNat).toNat
      (∀ t v, (me s).stall = some t → t.poll = .got v → least ≤ v → exec (.qwait a b) s = .next (onward .x 1 s s)) ∧
      (∀ t, (me s).stall = some t → t.poll = .idle → ∃ u k r, exec (.qwait a b) s = .next u ∧ (me u).stall = some k ∧
        k.poll = .asked r.id ∧ r ∈ u.reqs ∧ r.src = .core s.cur ∧ r.xfer = none ∧ r.place = pg.place x ∧ r.ph = none ∧
        r.op = .read [⟨x % 64, 8, .bytes 0, 0⟩] ∧ (me u).bpc = (me s).bpc ∧ othersKept s u)) ∧
    (∀ (r : Req) (l : List Brought) (t : Stall) (c : Nat), r.src = .core c → r.xfer = none → r.op.isLoad = true →
      (coreAt s c).stall = some t → t.poll = .asked r.id →
      (coreAt (answer r l s) c).stall = some { t with poll := .got (leNat (l.flatMap Brought.bytes)) }) ∧
    (∀ pg, open_ → (kernelOf s (me s)).lr.nest = true →
      ((groupOf s (me s)).ph.inside = false ∨ levelOf s (me s) = 0) → x % 16 = 0 → x < 2 ^ 60 →
        xlate s n x .barrier = .ok pg →
      exec (.barrG a) s = .next (onward .x 1 s (sendReqBy s (.core s.cur) n none (pg.place x) x .arrive none pg.lg))) ∧
    (code.toNat < 0x8000 →
      let y := (me s).rx b.toNat
      let z := (me s).rx a.toNat
      (insidePhase s = false → exec (.evpost a b code) s = .next (onward .x 1 s (postEvent s n 6 code.toNat s.cur z y))) ∧
      (∀ k, (me s).kernel = some k → phaseOf s (me s) = .open_ →
        exec (.evpost a b code) s = .next (onward .x 1 s (mapGroup s k (me s).group (fun g =>
          { g with held := g.held ++ [((me s).cidx, .evpost code.toNat z y)] })))) ∧
      (phaseOf s (me s) = .sealed → exec (.evpost a b code) s = .next (illegal (.evpost a b code) s)))

/-- R352-R354, R357: PGINV waits for what captured a translation of its range, as a transfer that has not read its
bytes, and then invalidates it: the first held store of an open or a sealed phase that used one cancels the phase with a
home fault at its address, and nothing else changes, since the model keeps no translations (R353). PGPROBE lands the
leaf of a walked address with its page's size code, or twice the reason of the fault that a read would take but for
rights. PGMIG, on a page with no migration in progress and a free frame, switches it: the new leaf, with MIG set, stands
in its entry, a fill of the page begins with no line present, access-control entries of the context and held stores of
the page that name the old frame name the new one, and nothing else changes; the leaf that stands there already changes
nothing. An address of 2^60 or more, and PGMIG's other conditions on its operands, raise ILLOP with reason 5. It rests
on the model's log entries 10, 28 and 29. -/
def Obligations.PageInstructions : Prop :=
  ∀ (s : State) (a b d : XNo) (ret : Bool), comesToIssue s = true →
    let n := ctxNo s (me s)
    let va := ((me s).rx a.toNat).toNat
    let y := ((me s).rx b.toNat).toNat
    (2 ^ 60 ≤ va → ∀ i ∈ ([.pginv a b, .pgprobe a d, .pgmig a b ret] : List Instr), refused s i) ∧
    (migIllop s n va y = true → refused s (.pgmig a b ret)) ∧
    -- what an invalidation of a range leaves, of a page in it
    (let near (v lg : Nat) : Bool := y == 0 || decide (v / 2 ^ lg * 2 ^ lg < va + y) && decide (va < v / 2 ^ lg * 2 ^ lg + 2 ^ lg)
     let t := invalidate s n va y
     (∀ m c x p, (m, c) ∈ s.cores → ctxNo s c = n → c.kernel.isSome = true → x ∈ c.xfers → x.left ≠ [] → p ∈ x.pages →
        p.va % 2 ^ p.lg = 0 → near p.va p.lg = true → captured s n va y = true) ∧
     t = { s with kernels := t.kernels } ∧
     ∀ k g, let gr := groupAt s k g
       (gr.ph = .open_ ∨ gr.ph = .sealed) → gr.step = .none → groupAt t k g =
         match s.reqs.find? (fun r => r.ph == some (k, g) && r.ctx == n && r.st == .held && r.core?.isSome && r.lg != 0 &&
           near r.va r.lg) with
         | some r => { gr with step := .cancel true (r.core?.map (fun m => (m, r.va, 1))) }
         | none => gr) ∧
    -- what the switch of a page leaves
    (∀ lg l at_, walk s n va = .ok (lg, l, at_) →
      (l = y → migSwitch s n va y ret = s) ∧
      (let old := fld l 39 16 * 2 ^ 16
       let new := fld y 39 16 * 2 ^ 16
       let entry : Place := ⟨if at_ < 2 ^ 40 then .stack (at_ / 2 ^ 36) else .host, at_, 0⟩
       let t := migSwitch s n va y ret
       l ≠ y → clean s entry → wroteAt s t entry ((leBytes 8 (y + 2 ^ 12)).map some) ∧
        t.migs = s.migs ++ [⟨n, va / 2 ^ lg * 2 ^ lg, lg, old, new, at_, BitVec.ofNat 64 y, [], ret, fld l 10 8⟩] ∧
        t.reqs = s.reqs.map (fun r => if r.st = .held ∧ r.ctx = n ∧ r.va / 2 ^ lg = va / 2 ^ lg ∧ (∃ k, k < 16 ∧
          r.place.home = .stack k) ∧
          old ≤ r.place.addr ∧ r.place.addr < old + 2 ^ lg then
            let p := r.place.addr - old + new
            { r with place := ⟨.stack (p / 2 ^ 36), p, fld y 10 8⟩ } else r) ∧
        (∀ i, tabFind t.acl i = (tabFind s.acl i).map (fun x =>
          if x.getLsbD 0 = true ∧ (x.extractLsb' 32 12).toNat = n ∧ (x.extractLsb' 80 24).toNat = fld l 39 16 then
            (x &&& ~~~(BitVec.ofNat 256 (0xFFFFFF * 2 ^ 80))) ||| BitVec.ofNat 256 (fld y 39 16 * 2 ^ 80) else x)) ∧
        t = { s with hbm := t.hbm, hostMem := t.hostMem, lucnt := t.lucnt, migs := t.migs, reqs := t.reqs, acl := t.acl })) ∧
    (va < 2 ^ 60 → captured s n va y = true →
      ∃ w, exec (.pginv a b) s = .next (mapMe s (fun c => { c with stall := some w }))) ∧
    (va < 2 ^ 60 → captured s n va y = false → exec (.pginv a b) s = .next (onward .x 1 s (invalidate s n va y))) ∧
    (va < 2 ^ 60 → hasWalked s = true →
      (∀ r, walk s n va = .error r → exec (.pgprobe a d) s = .next (lands .x 2 (.x d.toNat (BitVec.ofNat 64 (2 * r))) s)) ∧
      (∀ lg l at_, walk s n va = .ok (lg, l, at_) →
        exec (.pgprobe a d) s = .next (lands .x 2 (.x d.toNat (BitVec.ofNat 64
          (if leafTT l = 7 then 6 else if targetRefuses (ctxAt s n) l .read then 10
            else if (leafTT l = 1 || leafTT l = 2) && !bayHeld s n (bayOf (resolve (ctxAt s n) (frameCore l))) then 12
            else l - fld l 15 13 * 2 ^ 13 + (if lg = 16 then 0 else if lg = 21 then 1 else 2) * 2 ^ 13))) s)) ∧
      (migIllop s n va y = false → migInside s n va = false → migFault s n va y = none → migWaits s n va y = false →
        exec (.pgmig a b ret) s = .next (onward .x 1 s (migSwitch s n va y ret))))

/-! ## The V slots (10_vector, 11_function, 13_rank) -/

/-- R209-R211: with its predicate true and the arithmetic unit of its cluster free, VADD, VSUB and VMUL land after 6
cycles the wrapped or saturated result of every integer lane, or the rounded one of every float lane, the first operand
negated under the negate modifier; VFMA and VFMS land after 8 the sum rounded once. It rests on the model's log entry
12. -/
def Obligations.VectorArithmetic : Prop :=
  ∀ (s : State) (c : Cluster) (vd va vb vc : VNo) (p : PNo) (ty : VTy) (rnd : Rnd) (neg : Bool), comesToIssue s = true →
    (me s).rp p.toNat = true → (me s).busy (.arith c) = false →
    let a := (me s).rv c va.toNat
    let b := (me s).rv c vb.toNat
    let d := (me s).rv c vc.toNat
    let w := ty.width
    let put (lat : Nat) (v : VReg) : State := vlands c.slot (.arith c) 4 lat (.v c vd.toNat v) s
    let sat (v : Int) : BitVec w := if ty.signed then clamp w v else BitVec.ofInt w (max 0 (min (2 ^ w - 1) v))
    let int (x : BitVec w) : Int := if ty.signed then x.toInt else x.toNat
    (ty.float? = none →
      exec (.vadd c vd va vb p false ty rnd false) s = .next (put 6 (map2 w (· + ·) a b)) ∧
      exec (.vsub c vd va vb p false ty rnd false) s = .next (put 6 (map2 w (· - ·) a b)) ∧
      exec (.vmul c vd va vb p false ty rnd false) s = .next (put 6 (map2 w (· * ·) a b)) ∧
      exec (.vadd c vd va vb p false ty rnd true) s = .next (put 6 (map2 w (fun x y => sat (int x + int y)) a b)) ∧
      exec (.vsub c vd va vb p false ty rnd true) s = .next (put 6 (map2 w (fun x y => sat (int x - int y)) a b)) ∧
      exec (.vmul c vd va vb p false ty rnd true) s = .next (put 6 (map2 w (fun x y => sat (int x * int y)) a b))) ∧
    (∀ f, ty.float? = some f →
      let n (x : BitVec w) : FVal := if neg then (FVal.ofBits f x.toNat).neg else FVal.ofBits f x.toNat
      let v (x : BitVec w) : FVal := FVal.ofBits f x.toNat
      exec (.vadd c vd va vb p neg ty rnd false) s =
        .next (put 6 (map2 w (fun x y => BitVec.ofNat w (fAdd f rnd (n x) (v y))) a b)) ∧
      exec (.vsub c vd va vb p neg ty rnd false) s =
        .next (put 6 (map2 w (fun x y => BitVec.ofNat w (fAdd f rnd (n x) (v y).neg)) a b)) ∧
      exec (.vmul c vd va vb p neg ty rnd false) s =
        .next (put 6 (map2 w (fun x y => BitVec.ofNat w (fMul f rnd (n x) (v y))) a b)) ∧
      exec (.vfma c vd va vb vc p neg ty rnd) s = .next (put 8 (ofLanes w (fun j =>
        BitVec.ofNat w (fFma f rnd (n (lane w j a)) (v (lane w j b)) (v (lane w j d)))))) ∧
      exec (.vfms c vd va vb vc p neg ty rnd) s = .next (put 8 (ofLanes w (fun j =>
        BitVec.ofNat w (fFma f rnd (n (lane w j a)) (v (lane w j b)) (v (lane w j d)).neg)))))

/-- R212, R213, R215, R219: the other element-wise instructions, each landing after 6 cycles. -/
def Obligations.VectorElements : Prop :=
  ∀ (s : State) (c : Cluster) (vd va vb vc : VNo) (p : PNo) (ty : VTy) (xs : XNo) (imm : BitVec 16),
    comesToIssue s = true → (me s).rp p.toNat = true → (me s).busy (.arith c) = false →
    let a := (me s).rv c va.toNat
    let b := (me s).rv c vb.toNat
    let m := (me s).rv c vc.toNat
    let x := (me s).rx xs.toNat
    let w := ty.width
    let put (v : VReg) : State := vlands c.slot (.arith c) 4 6 (.v c vd.toNat v) s
    let less (x y : BitVec w) : Bool := if ty.signed then x.slt y else x.ult y
    let top : BitVec w := BitVec.twoPow w (w - 1)
    exec (.vand c vd va vb p) s = .next (put (a &&& b)) ∧ exec (.vor c vd va vb p) s = .next (put (a ||| b)) ∧
    exec (.vxor c vd va vb p) s = .next (put (a ^^^ b)) ∧ exec (.vnot c vd va p) s = .next (put (~~~a)) ∧
    exec (.vsel c vd va vb vc p) s = .next (put ((a &&& m) ||| (b &&& ~~~m))) ∧ exec (.vmov c vd va p) s = .next (put a) ∧
    (ty.float? = none →
      exec (.vmin c vd va vb p ty) s = .next (put (map2 w (fun x y => if less y x then y else x) a b)) ∧
      exec (.vmax c vd va vb p ty) s = .next (put (map2 w (fun x y => if less x y then y else x) a b)) ∧
      (ty.signed = true →
        exec (.vabs c vd va p ty false) s = .next (put (map1 w (fun x => if x.slt 0 then -x else x) a)) ∧
        exec (.vabs c vd va p ty true) s =
          .next (put (map1 w (fun x => if x = top then ~~~top else if x.slt 0 then -x else x) a)) ∧
        exec (.vmulh c vd va vb p ty) s = .next (put (map2 w (fun x y => BitVec.ofInt w (x.toInt * y.toInt / 2 ^ w)) a b))) ∧
      (ty.signed = false → exec (.vmulh c vd va vb p ty) s =
        .next (put (map2 w (fun x y => BitVec.ofNat w (x.toNat * y.toNat / 2 ^ w)) a b)))) ∧
    (∀ f, ty.float? = some f →
      exec (.vmin c vd va vb p ty) s = .next (put (map2 w (fun x y => BitVec.ofNat w (fMin f x.toNat y.toNat)) a b)) ∧
      exec (.vmax c vd va vb p ty) s = .next (put (map2 w (fun x y => BitVec.ofNat w (fMax f x.toNat y.toNat)) a b)) ∧
      exec (.vabs c vd va p ty false) s = .next (put (map1 w (fun x => x &&& ~~~top) a))) ∧
    exec (.vcsgn c vd va vb p ty) s = .next (put (map2 w (fun x y => (x &&& ~~~top) ||| (y &&& top)) a b)) ∧
    exec (.vclz c vd va p ty) s = .next (put (map1 w (fun x => BitVec.ofNat w (clz w x.toNat)) a)) ∧
    exec (.vpopc c vd va p ty) s =
      .next (put (map1 w (fun x => BitVec.ofNat w ((List.range w).countP (fun i => x.getLsbD i))) a)) ∧
    exec (.vsplat c vd p ty xs) s = .next (put (ofLanes w (fun _ => x.truncate w))) ∧
    exec (.viota c vd p ty xs) s = .next (put (ofLanes w (fun j => x.truncate w + BitVec.ofNat w j))) ∧
    exec (.vli c vd p .i32 imm) s = .next (put (ofLanes 32 (fun _ => imm.signExtend 32))) ∧
    exec (.vli c vd p .i64 imm) s = .next (put (ofLanes 64 (fun _ => imm.signExtend 64))) ∧
    exec (.vli c vd p .f32 imm) s = .next (put (ofLanes 32 (fun _ => imm.zeroExtend 32 <<< 16))) ∧
    exec (.vli c vd p .f64 imm) s = .next (put (ofLanes 64 (fun _ => imm.zeroExtend 64 <<< 48))) ∧
    (ty ≠ .i32 → ty ≠ .i64 → ty ≠ .f32 → ty ≠ .f64 →
      exec (.vli c vd p ty imm) s = .next (put (ofLanes w (fun _ => imm.setWidth w))))

/-- R28, R32, R37, R214, R216-R218: the shifts by a lane or by an immediate below the width; the comparisons, whose mask
is all ones in the lanes that meet the condition and zeros in the others, and whose predicate says whether any or all of
them do; and the conversions of an existing part, whose lanes come from the positions of R217's table and whose values
are rounded, or wrapped or saturated, as R218 says. A greater immediate, condition code or part raises ILLOP with reason
5. -/
def Obligations.VectorShiftsComparesConversions : Prop :=
  ∀ (s : State) (c : Cluster) (vd va vb : VNo) (p pd : PNo) (ty src : VTy) (n : BitVec 6) (cc : BitVec 4) (all st : Bool)
    (rnd : Rnd) (h : BitVec 2), comesToIssue s = true → (me s).rp p.toNat = true → (me s).busy (.arith c) = false →
    let a := (me s).rv c va.toNat
    let b := (me s).rv c vb.toNat
    let w := ty.width
    let put (v : VReg) : State := vlands c.slot (.arith c) 4 6 (.v c vd.toNat v) s
    exec (.vsll c vd va vb p ty false n) s = .next (put (map2 w (fun x y => x <<< (y.toNat % w)) a b)) ∧
    exec (.vsrl c vd va vb p ty false n) s = .next (put (map2 w (fun x y => x >>> (y.toNat % w)) a b)) ∧
    exec (.vsra c vd va vb p ty false n) s = .next (put (map2 w (fun x y => x.sshiftRight (y.toNat % w)) a b)) ∧
    (n.toNat < w →
      exec (.vsll c vd va vb p ty true n) s = .next (put (map1 w (fun x => x <<< n.toNat) a)) ∧
      exec (.vsrl c vd va vb p ty true n) s = .next (put (map1 w (fun x => x >>> n.toNat) a)) ∧
      exec (.vsra c vd va vb p ty true n) s = .next (put (map1 w (fun x => x.sshiftRight n.toNat) a))) ∧
    (w ≤ n.toNat → exec (.vsll c vd va vb p ty true n) s = .next (illegal (.vsll c vd va vb p ty true n) s)) ∧
    (cc.toNat < 6 →
      -- equal and below, and each of the six conditions of them; with a NaN only "not equal" is met
      let on (eq lt : Bool) : Bool := match cc.toNat with
        | 0 => eq | 1 => !eq | 2 => lt | 3 => !lt | 4 => lt || eq | _ => !(lt || eq)
      let holds (j : Nat) : Bool :=
        let x := lane w j a
        let y := lane w j b
        match ty.float? with
        | none => on (x == y) (if ty.signed then x.slt y else x.ult y)
        | some f =>
          let u := FVal.ofBits f x.toNat
          let v := FVal.ofBits f y.toNat
          if u.isNan || v.isNan then decide (cc.toNat = 1) else on (!below u v && !below v u) (below u v)
      let lanes := List.range (32768 / w)
      let mask : Landing := .v c vd.toNat (ofLanes w (fun j => if holds j then BitVec.allOnes w else 0))
      let met : Bool := if all then lanes.all holds else lanes.any holds
      exec (.vcmp c vd va vb p ty cc pd all) s = .next (
        if pd = 0 then vlands c.slot (.arith c) 4 6 mask s
        else onward c.slot 1 s (occupy (.arith c) 4
          (fly (insidePhase s) 6 (.p pd.toNat met) (fly (insidePhase s) 6 mask s))))) ∧
    (6 ≤ cc.toNat → exec (.vcmp c vd va vb p ty cc pd all) s = .next (illegal (.vcmp c vd va vb p ty cc pd all) s)) ∧
    (let ws := src.width
     let k := h.toNat
     let old (j : Nat) : BitVec w := lane w j ((me s).rv c vd.toNat)
     let value (i : Nat) : BitVec w :=
       let x := lane ws i a
       let n : Int := if src.signed then x.toInt else x.toNat
       match src.float?, ty.float? with
       | some f, some g => BitVec.ofNat w ((FVal.ofBits f x.toNat).toBits g rnd)
       | none, some g => BitVec.ofNat w (roundInt g rnd n 0)
       | some f, none => BitVec.ofInt w ((FVal.ofBits f x.toNat).toIntSat rnd ty.signed w)
       | none, none =>
         if !st then BitVec.ofInt w n
         else if ty.signed then clamp w n else BitVec.ofInt w (max 0 (min (2 ^ w - 1) n))
     let gives (f : Nat → BitVec w) : Prop := exec (.vcvt c vd va p ty rnd src h st) s = .next (put (ofLanes w f))
     -- of `m` values at a place, the place and the value of lane `j`
     let at_ (m j : Nat) : Nat := j / m
     let sub_ (m j : Nat) : Nat := j % m
     (k < max ws w / min ws w →
       (ws = w → gives value) ∧
       (ws ≤ 32 → w < ws → gives (fun j => let m := 32 / ws
         if sub_ (32 / w) j / m = k then value (m * at_ (32 / w) j + sub_ (32 / w) j % m) else old j)) ∧
       (ws = 64 → w = 32 → gives (fun j => if sub_ 64 j / 32 = k then value (32 * at_ 64 j + sub_ 64 j % 32) else old j)) ∧
       (ws < w → w ≤ 32 → gives (fun j => value (32 / ws * at_ (32 / w) j + (32 / w * k + sub_ (32 / w) j)))) ∧
       (ws = 32 → w = 64 → gives (fun j => value (64 * at_ 32 j + (32 * k + sub_ 32 j))))) ∧
     (max ws w / min ws w ≤ k → exec (.vcvt c vd va p ty rnd src h st) s = .next (illegal (.vcvt c vd va p ty rnd src h st) s)))

/-- R206, R220, R224: the lanes of a register that is made of lanes are those lanes; the movements along an axis, by an
immediate below its length or by a register modulo it, and VEXT. An immediate at or above the length, and a column that
the type has not, raise ILLOP with reason 5. -/
def Obligations.VectorMoves : Prop :=
  (∀ (w : Nat) (f : Nat → BitVec w) (j : Nat), w = 8 ∨ w = 16 ∨ w = 32 ∨ w = 64 → j < 32768 / w →
    lane w j (ofLanes w f) = f j) ∧
  ∀ (s : State) (c : Cluster) (vd va : VNo) (p : PNo) (ty : VTy) (n : BitVec 6) (xs xd : XNo) (row : BitVec 4)
    (col : BitVec 6) (i : Bool), comesToIssue s = true → (me s).rp p.toNat = true → (me s).busy (.perm c) = false →
    let a := (me s).rv c va.toNat
    let w := ty.width
    let m := cols ty
    let by_ (len : Nat) : Nat := if i then n.toNat else ((me s).rx xs.toNat).toNat % len
    let put (lat : Nat) (v : VReg) : State := vlands c.slot (.perm c) 1 lat (.v c vd.toNat v) s
    ((i = true → n.toNat < m) →
      exec (.vrotr c vd va p ty i n xs) s =
        .next (put 6 (ofLanes w (fun j => lane w (m * (j / m) + (j % m + m - by_ m) % m) a))) ∧
      exec (.vbcr c vd va p ty i n xs) s = .next (put 6 (ofLanes w (fun j => lane w (m * (j / m) + by_ m) a)))) ∧
    ((i = true → n.toNat < 16) →
      exec (.vrotc c vd va p ty i n xs) s =
        .next (put 3 (ofLanes w (fun j => lane w (m * ((j / m + 16 - by_ 16) % 16) + j % m) a))) ∧
      exec (.vbcc c vd va p ty i n xs) s = .next (put 3 (ofLanes w (fun j => lane w (m * by_ 16 + j % m) a)))) ∧
    (col.toNat < m →
      let v := lane w (m * row.toNat + col.toNat) a
      exec (.vext c va p ty xd row col) s = .next (vlands c.slot (.perm c) 1 6
        (.x xd.toNat (if ty.signed then v.signExtend 64 else v.zeroExtend 64)) s)) ∧
    (m ≤ n.toNat → ∀ j ∈ ([.vrotr c vd va p ty true n xs, .vbcr c vd va p ty true n xs] : List Instr),
      exec j s = .next (illegal j s)) ∧
    (16 ≤ n.toNat → ∀ j ∈ ([.vrotc c vd va p ty true n xs, .vbcc c vd va p ty true n xs] : List Instr),
      exec j s = .next (illegal j s)) ∧
    (m ≤ col.toNat → exec (.vext c va p ty xd row col) s = .next (illegal (.vext c va p ty xd row col) s))

/-- R28, R32, R51, R52, R221-R223: the reductions and scans along rows and columns of each subelement position, by the
fixed tree and by the doubling distances, with the sum, the least, the greatest or the saturated sum of two values at
every node, an exclusive scan one place further with the identity first; ADDS of a float type raises ILLOP with reason
5. VCOMPACT packs the kept lanes in the order of their identifiers, equal ones by lane, with their count. -/
def Obligations.VectorReductions : Prop :=
  ∀ (s : State) (c : Cluster) (vd va vb vc : VNo) (p : PNo) (ty : VTy) (rnd : Rnd) (op : BitVec 2) (ex : Bool) (xc : XNo),
    comesToIssue s = true → (me s).rp p.toNat = true → (me s).busy (.perm c) = false →
    let a := (me s).rv c va.toNat
    let put (lat : Nat) (v : VReg) : State := vlands c.slot (.perm c) 1 lat (.v c vd.toNat v) s
    let w := ty.width
    let top : BitVec w := BitVec.twoPow w (w - 1)
    let int (x : BitVec w) : Int := if ty.signed then x.toInt else x.toNat
    let node (x y : BitVec w) : BitVec w := match ty.float? with
      | some f => BitVec.ofNat w (match op.toNat with
        | 0 => fAdd f rnd (FVal.ofBits f x.toNat) (FVal.ofBits f y.toNat)
        | 1 => fMin f x.toNat y.toNat
        | _ => fMax f x.toNat y.toNat)
      | none => match op.toNat with
        | 0 => x + y
        | 1 => if int y < int x then y else x
        | 2 => if int x < int y then y else x
        | _ => if ty.signed then clamp w (int x + int y) else BitVec.ofInt w (min (2 ^ w - 1) (int x + int y))
    let first : BitVec w := match op.toNat, ty.float? with
      | 1, some f => BitVec.ofNat w f.infBits
      | 2, some f => top ||| BitVec.ofNat w f.infBits
      | 1, none => if ty.signed then ~~~top else BitVec.allOnes w
      | 2, none => if ty.signed then top else 0
      | _, _ => 0
    -- the columns of a row, the power of two that they are, and the values at one place
    let m := if w = 64 then 32 else 64
    let lg := if w = 64 then 5 else 6
    let b := if w = 64 then 1 else 32 / w
    let row (j : Nat) : Nat → BitVec w := fun q => lane w (b * (m * (j / b / m) + q) + j % b) a
    let col (j : Nat) : Nat → BitVec w := fun r => lane w (b * (m * r + j / b % m) + j % b) a
    let scan (levels : Nat) (x : Nat → BitVec w) (i : Nat) : BitVec w :=
      if !ex then scanOf node levels 1 x i else if i = 0 then first else scanOf node levels 1 x (i - 1)
    let all : List Instr := [.vredr c vd va p ty rnd op, .vredc c vd va p ty rnd op, .vscanr c vd va p ty rnd op ex,
      .vscanc c vd va p ty rnd op ex]
    (op ≠ 3 ∨ ty.isFloat = false →
      exec (.vredr c vd va p ty rnd op) s = .next (put 12 (ofLanes w (fun j => treeOf node lg (row j)))) ∧
      exec (.vredc c vd va p ty rnd op) s = .next (put 8 (ofLanes w (fun j => treeOf node 4 (col j)))) ∧
      exec (.vscanr c vd va p ty rnd op ex) s = .next (put 14 (ofLanes w (fun j => scan lg (row j) (j / b % m)))) ∧
      exec (.vscanc c vd va p ty rnd op ex) s = .next (put 10 (ofLanes w (fun j => scan 4 (col j) (j / b / m))))) ∧
    (op = 3 → ty.isFloat = true → ∀ i ∈ all, exec i s = .next (illegal i s)) ∧
    (∃ (kept : List Nat), kept.Perm ((List.range 1024).filter (fun l => lane 32 l ((me s).rv c vb.toNat) != 0)) ∧
      kept.Pairwise (fun i j => lane 32 i ((me s).rv c vc.toNat) < lane 32 j ((me s).rv c vc.toNat) ∨
        lane 32 i ((me s).rv c vc.toNat) = lane 32 j ((me s).rv c vc.toNat) ∧ i < j) ∧
      exec (.vcompact c vd va vb vc p xc) s = .next (onward c.slot 1 s (occupy (.perm c) 1
        (fly (insidePhase s) 16 (.x xc.toNat (BitVec.ofNat 64 kept.length)) (fly (insidePhase s) 16 (.v c vd.toNat
          (ofLanes 32 (fun j => ((kept.drop j).head?.map (fun l => lane 32 l a)).getD 0))) s)))))

/-- R233: the values of the functions at NaN, at the infinities and at the zeros, the same for both forms. -/
def Obligations.FunctionSpecialValues : Prop :=
  ∀ (form : FnForm) (f : FFmt) (x : Nat), x < 2 ^ f.width →
    let one := (FVal.fin false 1 0).toBits f .rne
    let half := (FVal.fin false 1 (-1)).toBits f .rne
    let inf := f.infBits
    let minus := f.signBit
    let at_ (fn : Fn) (nInf nZero pZero pInf : Nat) : Prop :=
      fnEval form f fn (minus + inf) = nInf ∧ fnEval form f fn minus = nZero ∧ fnEval form f fn 0 = pZero ∧
      fnEval form f fn inf = pInf
    (∀ fn, (FVal.ofBits f x).isNan = true → fnEval form f fn x = f.nan) ∧
    at_ .exp 0 one one inf ∧ at_ .exp2 0 one one inf ∧
    at_ .log f.nan (minus + inf) (minus + inf) inf ∧ at_ .log2 f.nan (minus + inf) (minus + inf) inf ∧
    at_ .sin f.nan minus 0 f.nan ∧ at_ .cos f.nan one one f.nan ∧ at_ .tanh (minus + one) minus 0 one ∧
    at_ .sigm 0 half half one ∧ at_ .rsqrt f.nan (minus + inf) inf 0 ∧ at_ .recip minus (minus + inf) inf 0 ∧
    at_ .erf (minus + one) minus 0 one

/-- R232, R237, R240: a function of every lane, landing after 10 cycles in its quick form and after 20 in its exact
form, and the generator's values, landing after 12. -/
def Obligations.VectorFunctions : Prop :=
  ∀ (s : State) (c : Cluster) (vd va : VNo) (p : PNo) (ty : VTy) (f : FFmt) (v : Bool) (xc xk : XNo),
    comesToIssue s = true → (me s).rp p.toNat = true → (me s).busy (.func c) = false → ty.float? = some f →
    let a := (me s).rv c va.toNat
    let w := ty.width
    let put (lat : Nat) (v : VReg) : State := vlands c.slot (.func c) 1 lat (.v c vd.toNat v) s
    let q (fn : Fn) : State := put 10 (map1 w (fun x => BitVec.ofNat w (fnEval .q f fn x.toNat)) a)
    let x (fn : Fn) : State := put 20 (map1 w (fun x => BitVec.ofNat w (fnEval .x f fn x.toNat)) a)
    let gen (j : Nat) : Nat := shawm ((me s).rx xk.toNat).toNat
      (((me s).rx xc.toNat).toNat + (if v then (lane 32 j a).toNat else j))
    exec (.vexpQ c vd va p ty) s = .next (q .exp) ∧ exec (.vexpX c vd va p ty) s = .next (x .exp) ∧
    exec (.vexp2Q c vd va p ty) s = .next (q .exp2) ∧ exec (.vexp2X c vd va p ty) s = .next (x .exp2) ∧
    exec (.vlogQ c vd va p ty) s = .next (q .log) ∧ exec (.vlogX c vd va p ty) s = .next (x .log) ∧
    exec (.vlog2Q c vd va p ty) s = .next (q .log2) ∧ exec (.vlog2X c vd va p ty) s = .next (x .log2) ∧
    exec (.vsinQ c vd va p ty) s = .next (q .sin) ∧ exec (.vsinX c vd va p ty) s = .next (x .sin) ∧
    exec (.vcosQ c vd va p ty) s = .next (q .cos) ∧ exec (.vcosX c vd va p ty) s = .next (x .cos) ∧
    exec (.vtanhQ c vd va p ty) s = .next (q .tanh) ∧ exec (.vtanhX c vd va p ty) s = .next (x .tanh) ∧
    exec (.vsigmQ c vd va p ty) s = .next (q .sigm) ∧ exec (.vsigmX c vd va p ty) s = .next (x .sigm) ∧
    exec (.vrsqrtQ c vd va p ty) s = .next (q .rsqrt) ∧ exec (.vrsqrtX c vd va p ty) s = .next (x .rsqrt) ∧
    exec (.vrecipQ c vd va p ty) s = .next (q .recip) ∧ exec (.vrecipX c vd va p ty) s = .next (x .recip) ∧
    exec (.verfQ c vd va p ty) s = .next (q .erf) ∧ exec (.verfX c vd va p ty) s = .next (x .erf) ∧
    exec (.vshawm c vd va p v xc xk) s = .next (put 12 (ofLanes 32 (fun j => BitVec.ofNat 32 (gen j / 2 ^ 32)))) ∧
    exec (.vshawmf c vd va p v xc xk) s =
      .next (put 12 (ofLanes 32 (fun j => BitVec.ofNat 32 (roundInt .f32 .rne ((gen j / 2 ^ 40 : Nat) : Int) (-24)))))

/-- R225, R226, R228, R229: VLD of sixteen aligned rows within the scratchpad that hold no poison, VST whole and masked,
and XMV to the other cluster. Another row raises ILLOP with reason 5. It rests on the model's log entry 16. -/
def Obligations.VectorMemory : Prop :=
  ∀ (s : State) (c : Cluster) (vd va vc : VNo) (p : PNo) (ty : VTy) (xb xs : XNo) (off : BitVec 16),
    comesToIssue s = true → (me s).rp p.toNat = true →
    let step := if xs = 0 then 256 else ((me s).rx xs.toNat).toNat
    let rows := (List.range 16).map (fun r => ((me s).rx xb.toNat + (off.signExtend 64 <<< 6) + BitVec.ofNat 64 (r * step)).toNat)
    let a := (me s).rv c va.toNat
    let m := (me s).rv c vc.toNat
    let w := ty.width
    let bytes (r : Nat) : List Byte := leBytes 256 (a.extractLsb' (2048 * r) 2048).toNat
    let kept (r b : Nat) : Bool := lane w ((256 * r + b) / (w / 8)) m != 0
    let fits : Prop := ∀ r ∈ rows, r % 64 = 0 ∧ r + 255 ≤ 0xFFFFF
    (¬fits → exec (.vld c vd p xb xs off) s = .next (illegal (.vld c vd p xb xs off) s) ∧
      ∀ mk, exec (.vst c va vc p ty mk xb xs off) s = .next (illegal (.vst c va vc p ty mk xb xs off) s)) ∧
    ((me s).busy (.mem c) = false → fits →
      ((∀ r ∈ rows, (me s).poisonIn r 256 = none) →
        exec (.vld c vd p xb xs off) s = .next (vlands c.slot (.mem c) 4 6 (.v c vd.toNat
          (BitVec.ofNat 32768 (leNat ((rows.map (fun r => (me s).sp.readN r 256)).flatten)))) s)) ∧
      exec (.vst c va vc p ty false xb xs off) s = .next (vlands c.slot (.mem c) 4 6
        (.mem (rows.zipWith (fun r i => (r, (bytes i).map some)) (List.range 16)) false) s) ∧
      exec (.vst c va vc p ty true xb xs off) s = .next (vlands c.slot (.mem c) 4 (if w < 32 then 7 else 6)
        (.mem (rows.zipWith (fun r i => (r, (bytes i).zipWith (fun v b => if kept i b then some v else none)
          (List.range 256))) (List.range 16)) (decide (w < 32))) s)) ∧
    ((me s).busy (.move c) = false →
      exec (.xmv c vd va p) s = .next (vlands c.slot (.move c) 4 1 (.v c.other vd.toNat a) s))

/-- R269-R274: the rank order of a row holds every column once, each preceding those after it. With the rank unit free,
RANK keeps the first k columns of every row, RANKT at most those at or above its threshold, RVAL puts the attenuation
weights back at their columns, and VATT takes a row as the table; a k of 0 or above 64 raises ILLOP with reason 5. -/
def Obligations.RankStream : Prop :=
  (∀ (ty : VTy) (v : Nat → Nat), ty.rankOk = true → (∀ c, v c < 2 ^ 32) →
    (rankOrder ty v).Perm (List.range 64) ∧ (rankOrder ty v).Pairwise (fun c d => precedes ty (v c) (v d) c d = true)) ∧
  ∀ (s : State) (vd va : VNo) (p : PNo) (ty : VTy) (k : BitVec 7) (xt : XNo) (row : BitVec 4), comesToIssue s = true →
    (me s).rp p.toNat = true → (me s).busy .zig = false →
    let a := (me s).rv .b va.toNat
    let put (lat : Nat) (d : Landing) : State := vlands .vb .zig 1 lat d s
    let order (r : Nat) : List Nat := rankOrder ty (fun c => (lane 32 (64 * r + c) a).toNat)
    let th := ((me s).rx xt.toNat).toNat % 2 ^ 32
    let above (r : Nat) : Nat := ((List.range 64).filter (fun c => atLeast ty (lane 32 (64 * r + c) a).toNat th)).length
    let ranks (n : Nat → Nat) : VReg :=
      ofLanes 32 (fun j => BitVec.ofNat 32 ((rankRow (order (j / 64)) (n (j / 64))).getD (j % 64) 0))
    (0 < k.toNat → k.toNat ≤ 64 →
      exec (.rank vd va p ty k) s = .next (put 24 (.v .b vd.toNat (ranks (fun _ => k.toNat)))) ∧
      exec (.rankt vd va p ty k xt) s = .next (put 24 (.v .b vd.toNat (ranks (fun r => min k.toNat (above r)))))) ∧
    (k.toNat = 0 ∨ 64 < k.toNat → exec (.rank vd va p ty k) s = .next (illegal (.rank vd va p ty k) s) ∧
      exec (.rankt vd va p ty k xt) s = .next (illegal (.rankt vd va p ty k xt) s)) ∧
    exec (.rval vd va p xt) s = .next (put 6 (.v .b vd.toNat (ofLanes 32 (fun j =>
      BitVec.ofNat 32 ((weightOf (me s).att (rankBytes a (j / 64)) (j % 64)).getD ((me s).rx xt.toNat).toNat))))) ∧
    exec (.vatt va p row) s = .next (put 6 (.att (a.extractLsb' (2048 * row.toNat) 2048)))

/-- R65, R208: under a false predicate VADD, VFMA, VSEL, VCOMPACT, VEXP.X, XMV and RVAL take their unit for its
interval, and nothing lands; a unit that is still occupied raises ILLOP with reason 6 even then. It rests on the model's
log entry 15. -/
def Obligations.FalsePredicate : Prop :=
  ∀ (s : State) (c : Cluster) (vd va vb vc : VNo) (p : PNo) (ty : VTy) (rnd : Rnd) (neg st : Bool) (xs : XNo),
    comesToIssue s = true → (me s).rp p.toNat = false →
    let idle (sl : Slot) (u : VUnit) (ii : Nat) : State := onward sl 1 s (occupy u ii s)
    ((me s).busy (.arith c) = false →
      exec (.vadd c vd va vb p neg ty rnd st) s = .next (idle c.slot (.arith c) 4) ∧
      exec (.vfma c vd va vb vc p neg ty rnd) s = .next (idle c.slot (.arith c) 4) ∧
      exec (.vsel c vd va vb vc p) s = .next (idle c.slot (.arith c) 4)) ∧
    ((me s).busy (.perm c) = false → exec (.vcompact c vd va vb vc p xs) s = .next (idle c.slot (.perm c) 1)) ∧
    ((me s).busy (.func c) = false → exec (.vexpX c vd va p ty) s = .next (idle c.slot (.func c) 1)) ∧
    ((me s).busy (.move c) = false → exec (.xmv c vd va p) s = .next (idle c.slot (.move c) 4)) ∧
    ((me s).busy .zig = false → exec (.rval vd va p xs) s = .next (idle .vb .zig 1)) ∧
    ((me s).busy (.arith c) = true → ∀ sl, sl = c.slot → exec (.vand c vd va vb p) s = .next (trapOn s s.cur 0x01
      (BitVec.ofNat 64 (6 + 16 * sl.bit)) (BitVec.ofNat 64 (encode (.vand c vd va vb p))) (me s).bpc (me s).lpc false))

/-! ## The M slot (12_tile, 13_rank) -/

/-- R250-R255, R275, R276: a product whose shape its tiles and their formats allow, with room in the engine and its
tiles and its accumulator free, is queued, reads its tiles and writes its accumulator; where no operand holds an error,
every element is the old one with the terms of its row and column added, each truncated on its own: one exact product
for every depth (MMA, IMMA, and MMAS for the depths that the literal word keeps), or one integer for the whole depth
(PMM, PMMS, BMM), or the attenuated values of the ranked columns (RACC). Any other shape, tile or format raises ILLOP
with reason 5. It rests on the model's log entry 17. -/
def Obligations.MatrixProducts : Prop :=
  ∀ (s : State) (acc : ANo) (tA tB : TNo) (sh : ShNo) (sw : Bool) (pa pb : BitVec 4) (sub : Bool),
    let c := me s
    let a := c.win tA.toNat
    let b := c.win tB.toNat
    let v := c.shape sh.toNat sw
    let fa := precFmt pa.toNat
    let fb := precFmt pb.toNat
    let reads : List Obj := if tA = tB then [.tile tA.toNat] else [.tile tA.toNat, .tile tB.toNat]
    let elA (i k : Nat) : Nat := elAt fa (rowCap fa a.len) (c.rowBytes a i a.len) k
    let elB (f : BFmt) (l k : Nat) : Nat := elAt f (rowCap f b.len) (c.rowBytes b l b.len) k
    let all := List.range (dim v 2)
    let some_ := all.filter (kept (tabGet 0 c.lit c.lpc.toNat).toNat)
    let each (ks : List Nat) (i l : Nat) : List FVal := ks.map (fun k => (elVal fa (elA i k)).num.mul (elVal fb (elB fb l k)).num)
    let planes (ks : List Nat) (i l : Nat) : List FVal :=
      [(ElVal.int (ks.map (fun k => plInt (elA i k) (planesOf pa.toNat) * plInt (elB fb l k) (planesOf pb.toNat))).sum).num]
    let binary (ks : List Nat) (i l : Nat) : List FVal :=
      [(ElVal.int ((ks.length : Int) - 2 * (ks.countP (fun k => elA i k != elB fb l k) : Nat))).num]
    -- the ranked columns of a row; a row without any keeps its elements
    let ranks (i : Nat) : List (Nat × Nat) :=
      let bs := (c.rowBytes a i 64).map BitVec.toNat
      ((List.range 64).zip bs).take (min (dim v 2) (cutOf bs))
    let rank (i l : Nat) : List FVal :=
      (ranks i).map (fun q => (FVal.ofBits .f32 (attAt c.att q.1)).mul (elVal fb (elB fb q.2 l)).num)
    let free : Prop := comesToIssue s = true ∧ c.mops.length < 8 ∧ c.sbAt (.tile tA.toNat) ≠ some .write ∧
      c.sbAt (.tile tB.toNat) ≠ some .write ∧ c.sbAt (.acc acc.toNat) = none
    let issues (i : Instr) (op : Nat) (terms : Nat → Nat → List FVal) : Prop :=
      free → ∃ o els, exec i s = .next (onward .m 1 s (queued o (swapIf sh.toNat sw (marks reads [.acc acc.toNat] s)))) ∧
        o.op = op ∧ o.reads = reads ∧ o.writes = [.acc acc.toNat] ∧ o.readDone = false ∧ o.ph = insidePhase s ∧
        o.acc = some (acc.toNat, els) ∧
        (c.spPoison = [] → c.accPoison = [] → ∀ i l, i < dim v 0 → l < dim v 1 → tabFind els (64 * i + l) =
          if op = 0x06 ∧ ranks i = [] then none
          else some (addTerms sub (c.accEl acc.toNat (64 * i + l)) (terms i l)))
    let shared : Prop := 1 ≤ dim v 0 ∧ dim v 0 ≤ 16 ∧ 1 ≤ dim v 1 ∧ dim v 1 ≤ 64 ∧ 1 ≤ dim v 2 ∧ dim v 3 = 0 ∧ tileOk c a ∧
      tileOk c b ∧ dim v 0 ≤ a.rows ∧ c.fmtOf b = fb
    let fits : Prop := shared ∧ c.fmtOf a = fa ∧ dim v 1 ≤ b.rows ∧ dim v 2 ≤ rowCap fa a.len ∧ dim v 2 ≤ rowCap fb b.len
    let ranked : Prop := shared ∧ dim v 2 ≤ 64 ∧ (c.fmtOf a = .raw ∨ c.fmtOf a = .n8) ∧ 64 ≤ b.rows ∧
      dim v 1 ≤ rowCap fb b.len
    let mma : Instr := .mma acc tA tB sh sw pa pb sub
    let imma : Instr := .imma acc tA tB sh sw pa pb sub
    let pmm : Instr := .pmm acc tA tB sh sw pa pb sub
    let pmms : Instr := .pmms acc tA tB sh sw pa pb sub
    let bmm : Instr := .bmm acc tA tB sh sw pa pb sub
    let mmas : Instr := .mmas acc tA tB sh sw pa pb sub
    let racc : Instr := .racc acc tA tB sh sw pb sub
    (fits → issues mma 0x00 (each all) ∧ issues imma 0x01 (each all) ∧ issues pmm 0x02 (planes all) ∧
      issues pmms 0x03 (planes some_) ∧ issues bmm 0x04 (binary all) ∧ issues mmas 0x05 (each some_)) ∧
    (ranked → issues racc 0x06 rank) ∧
    (¬fits → ∀ i ∈ [mma, imma, pmm, pmms, bmm, mmas], refused s i) ∧ (¬ranked → refused s racc)

/-- R257-R259, R261: the operations on whole accumulators, where none holds an error: ANCH anchors every element at the
literal word, AZERO clears, NORM re-anchors (above level 0 at a declared point), ACCADD adds, ACCMV copies; ACCSV and
ACCLD write and read the saved form of 26 bytes an element. An anchor beyond -32,767 to 32,767, a NORM above level 0
elsewhere, and a tile that cannot hold the saved form raise ILLOP with reason 5. It rests on the model's log entry
17. -/
def Obligations.Accumulators : Prop :=
  ∀ (s : State) (acc src : ANo) (t : TNo),
    let c := me s
    let lit := tabGet 0 c.lit c.lpc.toNat
    let w := c.win t.toNat
    let whole : Prop := tileOk c w ∧ 16 ≤ w.rows ∧ 1664 ≤ w.len ∧ c.fmtOf w = .raw
    let near : Prop := -32767 ≤ lit.toInt ∧ lit.toInt ≤ 32767
    let point : Prop := (kernelOf s c).level = 0 ∨ c.bpc ∈ (kernelOf s c).points
    let free : Prop := comesToIssue s = true ∧ c.mops.length < 8 ∧ c.sbAt (.acc acc.toNat) = none ∧ c.accPoison = [] ∧
      c.spPoison = []
    let fills (i : Instr) (op : Nat) (reads : List Obj) (f : Nat → AccEl) : Prop :=
      free → ∃ o els, exec i s = .next (onward .m 1 s (queued o (marks reads [.acc acc.toNat] s))) ∧ o.op = op ∧
        o.reads = reads ∧ o.writes = [.acc acc.toNat] ∧ o.acc = some (acc.toNat, els) ∧
        ∀ i, i < 1024 → tabFind els i = some (f i)
    (near → fills (.anch acc) 0x07 [] (fun _ => AccEl.anchor (lit.truncate 16))) ∧
    (point → fills (.norm acc) 0x08 [] (fun i => (c.accEl acc.toNat i).norm)) ∧
    fills (.azero acc) 0x09 [] (fun i => elZeroed (c.accEl acc.toNat i)) ∧
    (src ≠ acc → c.sbAt (.acc src.toNat) ≠ some .write →
      fills (.accadd acc src) 0x0B [.acc src.toNat] (fun i => elAdd (c.accEl acc.toNat i) (c.accEl src.toNat i)) ∧
      fills (.accmv acc src) 0x0C [.acc src.toNat] (fun i => c.accEl src.toNat i)) ∧
    (src = acc → fills (.accadd acc src) 0x0B [] (fun i => elAdd (c.accEl acc.toNat i) (c.accEl acc.toNat i)) ∧
      fills (.accmv acc src) 0x0C [] (fun i => c.accEl acc.toNat i)) ∧
    (whole → c.sbAt (.tile t.toNat) ≠ some .write →
      fills (.accld acc t) 0x0E [.tile t.toNat] (fun i => AccEl.ofNat (leNat
        (((c.rowBytes w (i / 64) w.len).drop (26 * (i % 64))).take 26)))) ∧
    (whole → c.sbAt (.tile t.toNat) = none → free →
      ∃ o, exec (.accsv acc t) s = .next (onward .m 1 s (queued o (marks [.acc acc.toNat] [.tile t.toNat] s))) ∧
        o.writes = [.tile t.toNat] ∧ o.acc = none ∧ o.land = (List.range 16).map (fun i => (w.row i,
          ((List.range 64).flatMap (fun l => accBytes (c.accEl acc.toNat (64 * i + l)))).map some))) ∧
    (¬near → refused s (.anch acc)) ∧ (¬point → refused s (.norm acc)) ∧
    (¬whole → refused s (.accsv acc t) ∧ refused s (.accld acc t))

/-- R250, R260, R262, R266: with room in the engine, its objects free and no error among its operands, ACCRD lands rows
of elements, each scaled where asked and rounded once; TTRN lands the transpose, leaving every element of a row beyond
it as it was, whatever the format; TZERO clears every byte of its tile; and KCHK begins the known-answer check against
the literal word and restarts the check count. Any other shape, tile or format raises ILLOP with reason 5. It rests on
the model's log entry 17. -/
def Obligations.MatrixTiles : Prop :=
  ∀ (s : State) (acc : ANo) (tA tB : TNo) (sh : ShNo) (sw sc : Bool) (rnd : Rnd) (fmt : VTy) (seed : BitVec 8),
    let c := me s
    let a := c.win tA.toNat
    let b := c.win tB.toNat
    let v := c.shape sh.toNat sw
    let f := c.fmtOf a
    let m := dim v 0
    let n := dim v 1
    let flat : Prop := dim v 2 = 0 ∧ dim v 3 = 0
    let free : Prop := comesToIssue s = true ∧ c.mops.length < 8 ∧ c.accPoison = [] ∧ c.spPoison = []
    let issues (i : Instr) (op : Nat) (reads writes : List Obj) (t : State) (what : MatOp → Prop) : Prop :=
      free → ∃ o, exec i s = .next (onward .m 1 s (queued o t)) ∧ o.op = op ∧ o.reads = reads ∧ o.writes = writes ∧
        o.acc = none ∧
        o.readDone = false ∧ o.bad = none ∧ o.ph = insidePhase s ∧ what o
    let also (r : TNo) (w : TNo) : List Obj := if r = w then [] else [.tile r.toNat]
    let scale (o : Nat) : FVal :=
      FVal.ofBits .f32 (if sc then leNat (((c.rowBytes b 0 320).drop o).take 4) else 0x3F800000)
    let laid (old : List Byte) (new : List (Option Byte)) : List Byte :=
      (List.range old.length).map (fun j => (new.getD j none).getD (old.getD j 0))
    let bank : Option BFmt := match fmt with
      | .i8x4 => some .i8 | .i16x2 => some .i16 | .i32 => some .i32 | .n8x4 => some .n8
      | .f16x2 => some .f16 | .bf16x2 => some .bf16 | .f32 => some .f32 | .f64 => some .f64
      | _ => none
    let reads_ : Prop := 1 ≤ m ∧ m ≤ 16 ∧ 1 ≤ n ∧ n ≤ 64 ∧ flat ∧ tileOk c a ∧ m ≤ a.rows ∧ n * (fmt.width / 8) ≤ a.len ∧
      (f = .raw ∨ bank = some f) ∧ (sc = true → tileOk c b ∧ 320 ≤ b.len ∧ (c.fmtOf b = .raw ∨ c.fmtOf b = .f32))
    let turns : Prop := 1 ≤ m ∧ m ≤ 256 ∧ 1 ≤ n ∧ n ≤ 256 ∧ flat ∧ tileOk c a ∧ tileOk c b ∧ f ≠ .raw ∧ c.fmtOf b = f ∧
      m ≤ a.rows ∧ n ≤ rowCap f a.len ∧ n ≤ b.rows ∧ m ≤ rowCap f b.len
    (reads_ → (sc = true → tA ≠ tB → c.sbAt (.tile tB.toNat) ≠ some .write) →
      c.sbAt (.acc acc.toNat) ≠ some .write → c.sbAt (.tile tA.toNat) = none →
      let reads := .acc acc.toNat :: (if sc then also tB tA else [])
      issues (.accrd acc tA tB sh sw sc rnd fmt) 0x0A reads [.tile tA.toNat]
        (swapIf sh.toNat sw (marks reads [.tile tA.toNat] s)) (fun o => o.land = (List.range m).map (fun i => (a.row i,
          ((List.range n).flatMap (fun l => leBytes (fmt.width / 8) ((c.accEl acc.toNat (64 * i + l)).readout
            (scale (4 * i)) (scale (64 + 4 * l)) (readFmt fmt) rnd))).map some)))) ∧
    (turns → (tA ≠ tB → c.sbAt (.tile tA.toNat) ≠ some .write) → c.sbAt (.tile tB.toNat) = none →
      issues (.ttrn tA tB sh sw) 0x0F (also tA tB) [.tile tB.toNat]
        (swapIf sh.toNat sw (marks (also tA tB) [.tile tB.toNat] s)) (fun o => o.land.length = n ∧ ∀ k, k < n →
          ∃ r, o.land[k]? = some (b.row k, r) ∧ r.length ≤ b.len ∧ ∀ i, i < rowCap f b.len →
            elAt f (rowCap f b.len) (laid (c.rowBytes b k b.len) r) i =
              if i < m then elAt f (rowCap f a.len) (c.rowBytes a i a.len) k
              else elAt f (rowCap f b.len) (c.rowBytes b k b.len) i)) ∧
    (c.sbAt (.tile tA.toNat) = none → tileOk c a →
      issues (.tzero tA) 0x10 [] [.tile tA.toNat] (marks [] [.tile tA.toNat] s) (fun o =>
        o.land = (List.range a.rows).map (fun j => (a.row j, List.replicate a.len (some 0))))) ∧
    issues (.kchk seed) 0x11 [] [] (mapMe s (fun c => { c with kcount := 0 })) (fun o =>
      o.land = [] ∧ o.kchk = some (kchkDigest seed.toNat == tabGet 0 c.lit c.lpc.toNat)) ∧
    (¬reads_ → refused s (.accrd acc tA tB sh sw sc rnd fmt)) ∧ (¬turns → refused s (.ttrn tA tB sh sw)) ∧
    (¬tileOk c a → refused s (.tzero tA))

/-! ## The C slots (14_tensor) -/

/-- R282-R293, R308: a load that its tile, its shape and its handle allow, with its tile, tag and handle free and its
addresses translated, begins a transfer that writes its tile. Each of its requests reads pieces within one line, and no
two of them one line. They bring every in-bounds element of the tensor that the coordinates (TLD, TLDB) or the index
list (TGATH) name, every byte of the strided range (SCOPY), every line of the vault (VTLD), each to its place in the
tile; an element out of bounds brings the handle's pad value and TFILL its value, with no request. PREF's requests bring
the lines of the in-bounds elements that translate to the line buffers, and nothing more. Where addresses of a TLD do
not translate, it takes XLATE (cause 0x03) at the lowest of them, with its reason, and no transfer begins (R350). What
its tile, its shape or its handle does not allow raises ILLOP with reason 5, as does a 513th load of a phase. It rests
on the model's log entries 10, 18 and 21. -/
def Obligations.TensorLoads : Prop :=
  ∀ (s : State) (e : CopyEng) (g : TagNo) (t : TNo) (h : HNo) (sh : ShNo) (sw : Bool) (cb xi xa xs : XNo)
    (pr : BitVec 24),
    let c := me s
    let n := ctxNo s c
    let w := c.win t.toNat
    let f := c.fmtOf w
    let hd := handleOf (c.handleAt h.toNat)
    let v := c.shape (CopyEng.shape e sh) sw
    let rows := ext1 (dim v 1)
    let base := (c.rx xa.toNat).toNat
    let pitch := (c.rx xs.toNat).toInt
    let list := (c.rx xi.toNat).toNat
    let full : Prop := insidePhase s = true ∧ 512 ≤ c.runLog.length
    let free : Prop := comesToIssue s = true ∧ c.sbAt (.tile t.toNat) = none ∧ ¬full
    let open_ (tag handle : Option Nat) : Prop := comesToIssue s = true ∧ hasWalked s = true ∧ gateClosed s = false ∧
      held s tag handle = false
    let thin : Prop := dim v 2 ≤ 1 ∧ dim v 3 ≤ 1
    -- a request of a load: pieces within its line
    let whole (r : Req) : Prop := r.va % 64 = 0 ∧ r.place.addr % 64 = 0 ∧ ∃ ps, r.op = .read ps ∧ ps ≠ [] ∧
      ∀ p ∈ ps, p.off + p.n ≤ 64
    -- among requests, one reads the byte at a place for an address of the scratchpad
    let fetched (new : List Req) (q : Place) (at_ : Nat) : Prop := ∃ r ∈ new, sameLine r.place q = true ∧
      ∃ ps, r.op = .read ps ∧
      ∃ p ∈ ps, ∃ o, p.dst = .bytes o ∧ p.off ≤ q.addr % 64 ∧ q.addr % 64 < p.off + p.n ∧ at_ = o + (q.addr % 64 - p.off)
    let loads (i : Instr) (kind : Nat) (tag : Option Nat) (promise : Nat) (what : Xfer → List Req → Prop) : Prop :=
      ∃ u x new, exec i s = .next u ∧ begins s u x new ∧ othersKept s u ∧ x.kind = kind ∧ x.tag = tag ∧
        x.writes = [.tile t.toNat] ∧ x.reads = [] ∧ x.readDone = true ∧
        x.due = (if promise = 0 then none else some (c.lcc.toNat + promise)) ∧
        (me u).sbAt (.tile t.toNat) = some .write ∧ (∀ r ∈ new, whole r ∧ r.ph = none) ∧
        new.Pairwise (fun a b => sameLine a.place b.place = false) ∧ what x new
    -- the elements of a tile of a tensor
    let tensor (m : RowMap) (x : Xfer) (new : List Req) : Prop :=
      ∀ el ∈ tensorEls hd m v (coordsOf s cb hd.rank),
        let dst := elDst hd.bfmt f w el.row el.pos
        (∀ va, el.va = some va → ∃ pg, xlate s n va .read = .ok pg ∧ ∃ r ∈ new, sameLine r.place (pg.place va) = true ∧
          ∃ ps, r.op = .read ps ∧ ∃ p ∈ ps, p.off = va % 64 ∧ p.n = hd.esize ∧ p.dst = dst) ∧
        (el.va = none → ∃ b ∈ x.land, b.dst = dst ∧ b.bytes = leBytes hd.esize hd.pad ∧ b.poison = false)
    let fits (m : RowMap) : Prop := shapeOk hd m v cb ∧ holdsShape c hd m v w
    let listed : Prop := fits (.gather (indexList c list rows)) ∧ list % 4 = 0 ∧ list + 4 * rows ≤ 0x100000
    let copies : Prop := tileOk c w ∧ 1 ≤ dim v 0 ∧ dim v 0 ≤ w.len ∧ rows ≤ w.rows ∧ thin
    let fills : Prop := tileOk c w ∧ dim v 0 ≤ rowCap f w.len ∧ rows ≤ w.rows ∧ thin
    let shaped (m : RowMap) : Prop := free ∧ open_ (some g.toNat) (some h.toNat) ∧ fits m ∧
      reaches s .read ((tensorEls hd m v (coordsOf s cb hd.rank)).filterMap (fun el => el.va.map (fun va => (va, hd.esize)))) = true
    (shaped .tile → loads (.tld e g t h sh sw cb pr) 0x00 (some g.toNat) pr.toNat (tensor .tile)) ∧
    (let vas := (tensorEls hd .tile v (coordsOf s cb hd.rank)).filterMap TEl.va
     free → open_ (some g.toNat) (some h.toNat) → fits .tile → levelOf s c ≠ 2 ∨ insidePhase s = true →
       ∀ va ∈ vas, ∀ r, xlate s n va .read = .error r →
     (∀ y ∈ vas, y < va → ∃ pg, xlate s n y .read = .ok pg ∧ leafTT pg.leaf.toNat ≠ 6) →
     exec (.tld e g t h sh sw cb pr) s =
       .next (trapOn s s.cur 0x03 (BitVec.ofNat 64 va) (BitVec.ofNat 64 r) c.bpc c.lpc false)) ∧
    (shaped (.gather (indexList c list rows)) → listed →
      loads (.tgath e g t h sh sw cb xi pr) 0x03 (some g.toNat) pr.toNat (tensor (.gather (indexList c list rows)))) ∧
    (shaped .bcast → loads (.tldb e g t h sh sw cb pr) 0x05 (some g.toNat) pr.toNat (tensor .bcast)) ∧
    (let row (j : Nat) : Nat := (((base : Int) + (j : Int) * pitch) % 2 ^ 60).toNat
     free → open_ (some g.toNat) none → copies →
     reaches s .read ((List.range rows).flatMap (fun j => runs 64 (row j) (dim v 0))) = true →
     loads (.scopyLd e g t sh sw xa xs pr) 0x06 (some g.toNat) pr.toNat (fun x new => x.land = [] ∧
       ∀ j k va, j < rows → k < dim v 0 → va = (row j + k) % 2 ^ 60 →
         ∃ pg, xlate s n va .read = .ok pg ∧ fetched new (pg.place va) (w.row j + k))) ∧
    (free → vaultOk c v w base pitch → levelOf s c ≠ 2 ∨ insidePhase s = true →
      loads (.vtld e t sh sw xa xs) 0x07 none 0 (fun x new => x.land = [] ∧
        x.cap = some (4 + (dim v 0 * rows + 255) / 256) ∧ ∀ j k, j < rows → k < dim v 0 →
          fetched new ⟨.vault s.cur, ((base : Int) + (j : Int) * pitch + (k : Int)).toNat, 0⟩ (w.row j + k))) ∧
    (free → fills →
      loads (.tfill e t sh sw xa) 0x09 none 0 (fun x new => new = [] ∧ ∀ j k, j < rows → k < dim v 0 → ∃ b ∈ x.land,
        b.poison = false ∧
        (f ≠ .pni → f ≠ .b1 → b.dst = .bytes (w.row j + f.bytes * k) ∧ b.bytes = leBytes f.bytes base) ∧
        (f = .pni ∨ f = .b1 → b.dst = .conv .i8 f (w.row j) (rowCap f w.len) k ∧ b.bytes = leBytes 1 base))) ∧
    (let vas := (tensorEls hd .tile v (coordsOf s cb hd.rank)).filterMap TEl.va
     open_ (some g.toNat) (some h.toNat) → shapeOk hd .tile v cb → levelOf s c ≠ 2 ∨ insidePhase s = true →
     ∃ u x new, exec (.pref e g h sh sw cb) s = .next u ∧ begins s u x new ∧ othersKept s u ∧ x.kind = 0x02 ∧
       x.tag = some g.toNat ∧ x.writes = [] ∧ x.reads = [] ∧ x.land = [] ∧
       (∀ r ∈ new, r.op = .fetch ∧ r.ph = none ∧
         ∃ va ∈ vas, ∃ pg, xlate s n va .read = .ok pg ∧ sameLine r.place (pg.place va) = true) ∧
       new.Pairwise (fun a b => sameLine a.place b.place = false) ∧
       ((∀ va ∈ vas, ∃ pg, xlate s n va .read = .ok pg) → ∀ va ∈ vas, ∃ pg, xlate s n va .read = .ok pg ∧
         ∃ r ∈ new, sameLine r.place (pg.place va) = true)) ∧
    -- what each of them is refused for
    (let tld : Instr := .tld e g t h sh sw cb pr
     let tldb : Instr := .tldb e g t h sh sw cb pr
     let tgath : Instr := .tgath e g t h sh sw cb xi pr
     let scopy : Instr := .scopyLd e g t sh sw xa xs pr
     let vtld : Instr := .vtld e t sh sw xa xs
     let tfill : Instr := .tfill e t sh sw xa
     (full → ∀ i ∈ [tld, tldb, tgath, scopy, vtld, tfill], refused s i) ∧
     (¬fits .tile → refused s tld) ∧ (¬fits .bcast → refused s tldb) ∧ (¬listed → refused s tgath) ∧
     (¬copies → refused s scopy) ∧ (¬vaultOk c v w base pitch → refused s vtld) ∧ (¬fills → refused s tfill) ∧
     (¬shapeOk hd .tile v cb → refused s (.pref e g h sh sw cb)) ∧
     -- outside the phase of a level-2 item a load reaches its own scratchpad alone
     (levelOf s c = 2 → insidePhase s = false → free → exec vtld s = .next (illegal vtld s) ∧
       ∀ el ∈ tensorEls hd .tile v (coordsOf s cb hd.rank), ∀ va pg, open_ (some g.toNat) (some h.toNat) → fits .tile →
         el.va = some va → xlate s n va .read = .ok pg → (pg.place va).home ≠ .scratch s.cur →
         exec tld s = .next (illegal tld s)))

/-- R284, R288, R289, R291, R292, R299, R305: a store that its tile, its shape and its handle allow, with no write of
its tile outstanding, its tag and handle free and its addresses translated, begins a transfer that reads its tile. It
sends one request for each line that it writes: to every byte of the line that the elements in bounds (TST, TSCAT) or
the rows of the tile (SCOPY, VTST) write, the last value written there, and to no other; inside a phase they are held
with it. Outside, their bytes enter the running digest in their order. Where addresses of a TST do not translate, it
takes XLATE (cause 0x03) at the lowest of them, with its reason (R350). What its tile, its shape or its handle does not
allow raises ILLOP with reason 5, as does any store in a sealed phase. That SCOPY and VTST take a D1 of 0 for one row is
the model's choice (DEDUCED, its log entry 21). It rests on the model's log entries 18, 19 and 21. -/
def Obligations.TensorStores : Prop :=
  ∀ (s : State) (e : CopyEng) (g : TagNo) (t : TNo) (h : HNo) (sh : ShNo) (sw : Bool) (cb xi xa xs : XNo),
    let c := me s
    let n := ctxNo s c
    let w := c.win t.toNat
    let f := c.fmtOf w
    let hd := handleOf (c.handleAt h.toNat)
    let v := c.shape (CopyEng.shape e sh) sw
    let rows := ext1 (dim v 1)
    let base := (c.rx xa.toNat).toInt
    let pitch := (c.rx xs.toNat).toInt
    let list := (c.rx xi.toNat).toNat
    let unsealed : Prop := phaseOf s c ≠ .sealed
    let free : Prop := comesToIssue s = true ∧ unsealed ∧ c.sbAt (.tile t.toNat) ≠ some .write
    let open_ (tag handle : Option Nat) : Prop := free ∧ hasWalked s = true ∧ gateClosed s = false ∧
      held s tag handle = false
    let fits (m : RowMap) : Prop := shapeOk hd m v cb ∧ holdsShape c hd m v w
    let listed : Prop := fits (.gather (indexList c list rows)) ∧ list % 4 = 0 ∧ list + 4 * rows ≤ 0x100000
    let copies : Prop := tileOk c w ∧ 1 ≤ dim v 0 ∧ dim v 0 ≤ w.len ∧ rows ≤ w.rows ∧ dim v 2 ≤ 1 ∧ dim v 3 ≤ 1
    let kept : Prop := vaultOk c v w (c.rx xa.toNat).toNat pitch
    let stores (i : Instr) (kind : Nat) (tag : Option Nat) (home : Nat → Place →
      Prop) (els : List (Nat × List Byte)) : Prop :=
      ∃ u x new, exec i s = .next u ∧ begins s u x new ∧ othersKept s u ∧ x.kind = kind ∧ x.tag = tag ∧
        x.reads = [.tile t.toNat] ∧ x.writes = [] ∧ x.readDone = false ∧
        (c.sbAt (.tile t.toNat) = none → (me u).sbAt (.tile t.toNat) = some (.read 1)) ∧
        (∀ r ∈ new, r.va % 64 = 0 ∧ home r.va r.place ∧
          r.ph = (if insidePhase s then c.kernel.map (fun k => (k, c.group)) else none) ∧
          (∃ y ∈ els, r.va = y.1 / 64 * 64) ∧ ∃ bs po, r.op = .write bs po ∧ (c.spPoison = [] → po = []) ∧
            bs = (List.range 64).map (fun k => lastAt els (r.va + k))) ∧
        (∀ y ∈ els, ∃ r ∈ new, r.va = y.1 / 64 * 64) ∧ new.Pairwise (fun a b => a.va ≠ b.va) ∧
        (insidePhase s = false → (me u).digest = crc64 c.digest (els.flatMap Prod.snd))
    let mapped (va : Nat) (p : Place) : Prop := ∃ pg, xlate s n va .write = .ok pg ∧ p = pg.place va
    -- the in-bounds elements of a tile, in the handle's format
    let value (el : TEl) : List Byte :=
      let bs := c.rowBytes w el.row w.len
      if hd.bfmt = f ∨ hd.bfmt = .raw ∨ f = .raw then (bs.drop (hd.esize * el.pos)).take hd.esize
      else leBytes hd.esize (convEl f hd.bfmt (elAt f (rowCap f w.len) bs el.pos))
    let tensor (m : RowMap) : List (Nat × List Byte) :=
      (tensorEls hd m v (coordsOf s cb hd.rank)).filterMap (fun el => el.va.map (fun va => (va, value el)))
    let shaped (m : RowMap) : Prop := open_ (some g.toNat) (some h.toNat) ∧ fits m ∧
      reaches s .write ((tensor m).map (fun y => (y.1, y.2.length))) = true
    -- the leading bytes of every row of the tile, row j from an address on
    let strided (at_ : Nat → Nat) : List (Nat × List Byte) := (List.range rows).flatMap (fun j =>
      (List.range (dim v 0)).map (fun k => ((at_ j + k) % 2 ^ 60, ((c.rowBytes w j w.len).drop k).take 1)))
    let far (j : Nat) : Nat := ((base + (j : Int) * pitch) % 2 ^ 60).toNat
    (shaped .tile → stores (.tst e g t h sh sw cb) 0x01 (some g.toNat) mapped (tensor .tile)) ∧
    (let vas := (tensorEls hd .tile v (coordsOf s cb hd.rank)).filterMap TEl.va
     open_ (some g.toNat) (some h.toNat) → fits .tile → levelOf s c ≠ 2 ∨ insidePhase s = true →
       ∀ va ∈ vas, ∀ r, xlate s n va .write = .error r →
     (∀ y ∈ vas, y < va → ∃ pg, xlate s n y .write = .ok pg ∧ leafTT pg.leaf.toNat ≠ 6) →
     exec (.tst e g t h sh sw cb) s =
       .next (trapOn s s.cur 0x03 (BitVec.ofNat 64 va) (BitVec.ofNat 64 r) c.bpc c.lpc false)) ∧
    (shaped (.gather (indexList c list rows)) → listed →
      stores (.tscat e g t h sh sw cb xi) 0x04 (some g.toNat) mapped (tensor (.gather (indexList c list rows)))) ∧
    (open_ (some g.toNat) none → copies → reaches s .write ((List.range rows).flatMap (fun j => runs 64 (far j) (dim v 0))) = true →
      stores (.scopySt e g t sh sw xa xs) 0x06 (some g.toNat) mapped (strided far)) ∧
    (free → kept → levelOf s c ≠ 2 ∨ insidePhase s = true →
      stores (.vtst e t sh sw xa xs) 0x08 none (fun va p => p = ⟨.vault s.cur, va, 0⟩)
        (strided (fun j => (((c.rx xa.toNat).toNat : Int) + (j : Int) * pitch).toNat))) ∧
    -- what each of them is refused for
    (let tst : Instr := .tst e g t h sh sw cb
     let tscat : Instr := .tscat e g t h sh sw cb xi
     let scopy : Instr := .scopySt e g t sh sw xa xs
     let vtst : Instr := .vtst e t sh sw xa xs
     (¬unsealed → ∀ i ∈ [tst, tscat, scopy, vtst], refused s i) ∧ (¬fits .tile → refused s tst) ∧ (¬listed →
       refused s tscat) ∧
     (¬copies → refused s scopy) ∧ (¬kept → refused s vtst) ∧
     -- outside the phase of a level-2 item a store reaches its own scratchpad alone
     (levelOf s c = 2 → insidePhase s = false → free → exec vtst s = .next (illegal vtst s) ∧
       ∀ y ∈ tensor .tile, ∀ pg, open_ (some g.toNat) (some h.toNat) → fits .tile → xlate s n y.1 .write = .ok pg →
         (pg.place y.1).home ≠ .scratch s.cur → exec tst s = .next (illegal tst s)))

/-- R294-R297: an ATOM, a RED or a REDT whose operation, size, address, level and phase the rules allow, with its
objects and its tag free and its addresses translated, begins a transfer with the request of its operation at the
translated address: the operation with its operands, CREAD of the window's cell, or an addend of the cell; REDT one for
each element in bounds, with the element's value. Those of RED and REDT are held with an open phase. An ATOM whose
address does not translate takes XLATE (cause 0x03) with the address and the reason (R350). Another operation, size,
address, tile, level or phase raises ILLOP with reason 5. It rests on the model's log entry 22. -/
def Obligations.Atomics : Prop :=
  ∀ (s : State) (e : CopyEng) (g : TagNo) (t : TNo) (h : HNo) (sh : ShNo) (sw : Bool) (op : BitVec 6) (op5 : BitVec 5)
    (sz : BitVec 2) (xa xv cb : XNo) (pr : BitVec 24),
    let c := me s
    let n := ctxNo s c
    let va := (c.rx xa.toNat).toNat % 2 ^ 60
    let v := c.rx xv.toNat
    let w := c.win t.toNat
    let bytes := 4 * 2 ^ sz.toNat
    let ph := if insidePhase s then c.kernel.map (fun k => (k, c.group)) else none
    let one (i : Instr) (a : Acc) (kind : Nat) (writes : List Obj) (ph : Option (Nat × Nat)) (rop : ReqOp) : Prop :=
      ∀ pg, xlate s n va a = .ok pg → ∃ u x r, exec i s = .next u ∧ begins s u x [r] ∧ othersKept s u ∧ x.kind = kind ∧
        x.tag = some g.toNat ∧ x.writes = writes ∧ x.reads = [] ∧ r.place = pg.place va ∧ r.va = va ∧ r.ph = ph ∧ r.op = rop
    let leaves : Prop := comesToIssue s = true ∧ hasWalked s = true ∧ gateClosed s = false
    let aligned : Prop := sz.toNat ≤ 1 ∧ (c.rx xa.toNat).toNat % bytes = 0
    -- the address is that of a cell of a window
    let cell (win : Window) : Prop := windowOf s va = some win ∧ (va - win.base) % 32 = 0
    let atomOk : Prop := aligned ∧ tileOk c w ∧ (levelOf s c = 0 ∨ levelOf s c = 1 ∧ insidePhase s = false)
    let worded : Prop := op.toNat ≤ 9 ∧ (op.toNat = 9 → xv.toNat ≠ 31) ∧ windowOf s va = none
    let redOk : Prop := aligned ∧ phaseOf s c ≠ .sealed
    let plain : Prop := windowOf s va = none ∧ (op.toNat ≤ 7 ∨ op.toNat = 11 ∧ levelOf s c = 0)
    let adds (win : Window) : Prop := op.toNat = 11 ∧ cell win ∧ win.fmt = 8 + sz.toNat
    let atom : Prop := leaves ∧ held s (some g.toNat) none = false ∧ atomOk ∧ c.sbAt (.tile t.toNat) = none
    let red : Prop := leaves ∧ held s (some g.toNat) none = false ∧ redOk
    (atom → worded → reaches s .atom [(va, bytes)] = true →
      one (.atom e g t op sz xa xv pr) .atom 0x0A [.tile t.toNat] none
        (.atom op.toNat sz.toNat v (c.rx (xv.toNat + 1)) (w.row 0))) ∧
    (∀ r, atom → worded → xlate s n va .atom = .error r →
      exec (.atom e g t op sz xa xv pr) s =
        .next (trapOn s s.cur 0x03 (BitVec.ofNat 64 va) (BitVec.ofNat 64 r) c.bpc c.lpc false)) ∧
    (∀ win, atom → op.toNat = 10 → cell win → reaches s .cread [(va, bytes)] = true →
      one (.atom e g t op sz xa xv pr) .cread 0x0A [.tile t.toNat] none (.cread win.fmt win.x (w.row 0))) ∧
    (red → plain → op.toNat ≠ 11 → reaches s .red [(va, bytes)] = true →
      one (.red e g op sz xa xv) .red 0x0B [] ph (.red op.toNat sz.toNat v)) ∧
    (red → plain → op.toNat = 11 → reaches s .fadd [(va, bytes)] = true →
      one (.red e g op sz xa xv) .fadd 0x0B [] ph (.red 11 sz.toNat v)) ∧
    (∀ win, red → adds win →
      reaches s .fadd [(va, bytes)] = true →
      one (.red e g op sz xa xv) .fadd 0x0B [] ph (.cell win.fmt win.x (sz.toNat == 1) v)) ∧
    (¬(atomOk ∧ (worded ∨ op.toNat = 10 ∧ ∃ win, cell win)) → refused s (.atom e g t op sz xa xv pr)) ∧
    (¬(redOk ∧ (plain ∨ ∃ win, adds win)) → refused s (.red e g op sz xa xv)) ∧
    (let hd := handleOf (c.handleAt h.toNat)
     let shp := c.shape (CopyEng.shape e sh) sw
     let k := op5.toNat
     let f := c.fmtOf w
     let a : Acc := if k = 11 then .fadd else .red
     let value (el : TEl) : W64 :=
       let bs := c.rowBytes w el.row w.len
       BitVec.ofNat 64 (if hd.bfmt = f ∨ hd.bfmt = .raw ∨ f = .raw then leNat ((bs.drop (hd.esize * el.pos)).take hd.esize)
         else convEl f hd.bfmt (elAt f (rowCap f w.len) bs el.pos) % 2 ^ (8 * hd.esize))
     let els := (tensorEls hd .tile shp (coordsOf s cb hd.rank)).filterMap (fun el => el.va.map (fun va => (va, value el)))
     let does (y : Nat × W64) : ReqOp := match windowOf s y.1 with
       | some win => .cell win.fmt win.x (hd.bfmt == .f64) y.2
       | none => .red k (if hd.bfmt = .f64 then 1 else 0) y.2
     let fits : Prop := (k ≤ 7 ∧ hd.bfmt = .i32 ∨ k = 11 ∧ (hd.bfmt = .f32 ∨ hd.bfmt = .f64)) ∧ shapeOk hd .tile shp cb ∧
       holdsShape c hd .tile shp w ∧ phaseOf s c ≠ .sealed
     let outside : Prop := (∀ y ∈ els, windowOf s y.1 = none) ∧ (k = 11 → els = [] ∨ levelOf s c = 0)
     let within_ (win : Window) : Prop := k = 11 ∧ win.fmt = (if hd.bfmt = .f64 then 9 else 8) ∧
       ∀ y ∈ els, windowOf s y.1 = some win ∧ (y.1 - win.base) % 32 = 0
     -- it meets a window with another operation, or above level 0 meets none
     let wrong : Prop := (k ≠ 11 ∧ ∃ y ∈ els, windowOf s y.1 ≠ none) ∨
       (k = 11 ∧ els ≠ [] ∧ levelOf s c ≠ 0 ∧ ∀ y ∈ els, windowOf s y.1 = none)
     let ready : Prop := leaves ∧ held s (some g.toNat) (some h.toNat) = false ∧ c.sbAt (.tile t.toNat) ≠ some .write ∧
       fits ∧
       reaches s a (els.map (fun y => (y.1, hd.esize))) = true
     (¬fits ∨ wrong → refused s (.redt e g t h sh sw cb op5)) ∧
     (ready → ¬outside → (∀ win, ¬within_ win) → exec (.redt e g t h sh sw cb op5) s = .next (illegal (.redt e g t h sh sw cb op5) s)) ∧
     (ready → c.spPoison = [] → (outside ∨ ∃ win, within_ win) →
     ∃ u x new, exec (.redt e g t h sh sw cb op5) s = .next u ∧ begins s u x new ∧ othersKept s u ∧ x.kind = 0x0C ∧
       x.tag = some g.toNat ∧ x.reads = [.tile t.toNat] ∧ x.writes = [] ∧
       new.map (fun r => (r.va, r.op)) = els.map (fun y => (y.1, does y)) ∧
       ∀ r ∈ new, r.ph = ph ∧ ∃ pg, xlate s n r.va a = .ok pg ∧ r.place = pg.place r.va))

/-- R149, R151, R298: with its objects free HLD begins to take a handle from a tile of 128 bytes a row, HST to put one
into such a tile, HMOD to write one field of one, and no other byte of it; another tile or field raises ILLOP with
reason 5. OVL of an overlay of the image, with its tag free and its source translated, leaves a present overlay alone,
and otherwise makes the lines of its destination pending and sends for each line the reads of the bytes of the source
that are to land there; an overlay that the image has not, or a busy tag, raises ILLOP with reason 5. It rests on the
model's log entries 18 and 60. -/
def Obligations.HandlesAndOverlays : Prop :=
  ∀ (s : State) (e : CopyEng) (g : TagNo) (t : TNo) (h : HNo) (xv : XNo) (f : BitVec 8) (n : BitVec 24),
    let c := me s
    let w := c.win t.toNat
    let free : Prop := comesToIssue s = true ∧ held s none (some h.toNat) = false
    let fits : Prop := tileOk c w ∧ 128 ≤ w.len
    (free → fits → c.sbAt (.tile t.toNat) ≠ some .write →
      ∃ u x, exec (.hld e t h) s = .next u ∧ begins s u x [] ∧ othersKept s u ∧ x.kind = 0x0D ∧ x.handle = some h.toNat ∧
        x.newHandle = some (h.toNat, .all (BitVec.ofNat 1024 (leNat (c.rowBytes w 0 128))))) ∧
    (free → fits → c.sbAt (.tile t.toNat) = none →
      ∃ u x, exec (.hst e t h) s = .next u ∧ begins s u x [] ∧ othersKept s u ∧ x.kind = 0x0E ∧
        x.land = [⟨0, .bytes (w.row 0), leBytes 128 (c.handleAt h.toNat).toNat, false⟩]) ∧
    (¬fits → refused s (.hld e t h) ∧ refused s (.hst e t h)) ∧ (10 < f.toNat → refused s (.hmod e h xv f)) ∧
    (free → f.toNat ≤ 10 →
      ∃ u x, exec (.hmod e h xv f) s = .next u ∧ begins s u x [] ∧ othersKept s u ∧ x.kind = 0x0F ∧
        x.newHandle = some (h.toNat, .field (handleField f.toNat) (c.rx xv.toNat))) ∧
    (∀ (k : HandleBits) (v : W64) (b : Nat), f.toNat ≤ 10 → b < 128 →
      let at_ := handleField f.toNat
      ((HandleEdit.field at_ v).put k).extractLsb' (8 * b) 8 =
        if at_ ≤ b ∧ b < at_ + 8 then v.extractLsb' (8 * (b - at_)) 8 else k.extractLsb' (8 * b) 8) ∧
    (let k := kernelOf s c
     let o := k.overlays.getD n.toNat default
     let src := (k.lr.image + o.off) % 2 ^ 60
     let known : Prop := n.toNat < k.overlays.length ∧ g.toNat ∉ c.tags
     (¬known → refused s (.ovl e g n)) ∧
     (comesToIssue s = true → known → hasWalked s = true → gateClosed s = false →
      (∀ a, src ≤ a → a < src + o.len → ∃ pg, xlate s (ctxNo s c) a .read = .ok pg ∧
        (leafTT pg.leaf.toNat = 6 → src % 8 = 0 ∧ o.len % 8 = 0)) →
      (n.toNat ∈ c.present → o.tag ≠ 0 → exec (.ovl e g n) s = .next (onward e.slot 1 s s)) ∧
      (n.toNat ∉ c.present ∨ o.tag = 0 → ∃ u, exec (.ovl e g n) s = .next u ∧ othersKept s u ∧ (me u).bundle = c.bundle ∧
        (∀ l, l ∈ (me u).bPend ↔ l ∈ c.bPend ∨ (o.dest / 64 ≤ l ∧ l < o.dest / 64 + o.len / 64)) ∧
        (∃ y, (me u).ovls = c.ovls ++ [y] ∧ y.n = n.toNat ∧ y.tag = g.toNat ∧
          y.lines.map Prod.fst = (List.range (o.len / 64)).map (o.dest / 64 + ·) ∧
          ∀ p ∈ y.lines, ∃ x ∈ (me u).xfers, x.id = p.2 ∧ x.kind = 0x22 ∧ x.left ≠ [] ∧
            (∀ i ∈ x.left, ∃ r ∈ u.reqs, r.id = i ∧ r.xfer = some x.id ∧ r.src = .core s.cur ∧ r.place.addr % 64 = 0 ∧
              ∃ y, r.op = .read [y] ∧ y.off + y.n ≤ 64) ∧
            -- byte b of the line comes from the byte of the source as far from its begin as the line is from the destination's
            ∀ b, b < 64 → ∃ pg, let a := src + 64 * (p.1 - o.dest / 64) + b
              xlate s (ctxNo s c) a .read = .ok pg ∧ ∃ r ∈ u.reqs, r.id ∈ x.left ∧ sameLine r.place (pg.place a) = true ∧
                ∃ y d, r.op = .read [y] ∧ y.dst = .bytes d ∧ y.off ≤ (pg.place a).addr % 64 ∧
                  (pg.place a).addr % 64 < y.off + y.n ∧ b = d + ((pg.place a).addr % 64 - y.off)))))

/-! ## The L slot (08_group, 13_rank, 22_link) -/

/-- R159, R160, R278, R279, R365, R401: SEND of a tile of 64 to 256 bytes and SENDR of its leading rank bytes, with room
in the outbox or the skid and no write of the tile outstanding, put their message at the end of the core's outbox (port
16) or send it to the port's transmit skid, stamped with the low 40 bits of LCC; over a port it carries DEVID as its
source and the configured peer as its destination (R394, R403), and the kernel claims the port. Another tile, or a core,
a kernel, a level or a phase that allows no message, raises ILLOP with reason 5; a port that is not the kernel's raises
LINKERR (R403, R411). A message that reaches its skid stands there last. It rests on the model's log entries 25 and
74. -/
def Obligations.MessagesSent : Prop :=
  ∀ (s : State) (port : BitVec 5) (t : TNo) (peer : BitVec 10) (k : BitVec 6) (rows : BitVec 4),
    let c := me s
    let w := c.win t.toNat
    let n := k.toNat + 1
    let r := rows.toNat + 1
    -- the tiles of SEND and of SENDR
    let window : Prop := tileOk c w ∧ w.rows * w.len ∈ [64, 128, 192, 256]
    let ranked : Prop := tileOk c w ∧ r ≤ w.rows ∧ (c.fmtOf w = .raw ∨ c.fmtOf w = .n8) ∧ r * n ≤ 1024
    let sends (i : Instr) (fits : Prop) (onChip : Nat) (sendr : Bool) (nk nr : Nat) (bytes : List Byte) : Prop :=
      (¬(fits ∧ mayMessage s port.toNat peer.toNat) → refused s i) ∧
      (fits → mayMessage s port.toNat peer.toNat → unlinked s port.toNat i) ∧
      (comesToIssue s = true → fits → mayMessage s port.toNat peer.toNat → c.sbAt (.tile t.toNat) ≠ some .write →
      (port.toNat < 16 → portReason s port.toNat = 0 ∧ gateClosed s = false ∧
        skidUsed s port.toNat + (bytes.length + 63) / 64 ≤ 64) →
      (port = 16 → slotsOf c.outbox + onChip ≤ 16) → ∃ u x m, exec i s = .next u ∧ othersKept s u ∧ x.kind = 0x21 ∧
        x.reads = [.tile t.toNat] ∧ m.src = gangIndex s c ∧ m.dst = peer.toNat ∧ m.sendr = sendr ∧
        m.stamp = c.lcc.toNat % 2 ^ 40 ∧ m.k = nk ∧ m.rows = nr ∧ m.payload = bytes ∧
        (port = 16 → begins s u x [] ∧ (me u).outbox = c.outbox ++ [m] ∧ u.links = s.links) ∧
        (port.toNat < 16 → streams s u x port.toNat m ∧ m.dest = (linkAt s port.toNat).peer ∧ (me u).outbox = c.outbox ∧
          (linkAt u port.toNat).tx = (linkAt s port.toNat).tx ∧
          (linkAt u port.toNat).claim = if (linkAt s port.toNat).claim.isSome then (linkAt s port.toNat).claim else c.kernel))
    (∀ (r : Req) (m : Msg) (p : Nat), r.op = .msg m → r.place = skidPlace p →
      homeServe r s = ([], mapLink s p (fun l => { l with tx := l.tx ++ [{ m with sender := r.core? }] }))) ∧
    sends (.send port t peer) window 1 false 0 0
      ((List.range w.rows).flatMap (fun j => c.rowBytes w j w.len)) ∧
    sends (.sendr port t peer k rows) ranked ((r * n + 255) / 256) true n r
      ((List.range r).flatMap (fun j => c.rowBytes w j n))

/-- R161, R278, R279, R403, R404: a receive whose tile and port allow it, with its tile free and a message of its stamp
and shape in its channel, takes the oldest message of the channel, out of the sender's outbox (port 16) or of the port's
receive skid, and begins to land its rows: the payload's (RECV), the leading rank bytes padded with 0xFF (RECVR), or
those combined with the tile's own (RADD, RMAX, RMIN). Where the message has another stamp than the one expected, or
another shape, it takes TSMISMATCH (cause 0x04) with the expected stamp, reason 1 or 2, and the message's stamp, and the
message stays where it is. Another tile, a time of 0, or a core, a kernel, a level or a phase that allows no message,
raises ILLOP with reason 5; a port that is not the kernel's raises LINKERR. It rests on the model's log entry 18. -/
def Obligations.MessagesReceived : Prop :=
  ∀ (s : State) (port : BitVec 5) (t : TNo) (peer : BitVec 10) (k : BitVec 6) (rows : BitVec 4) (ts : BitVec 24) (m : Msg),
    let c := me s
    let w := c.win t.toNat
    let f := c.fmtOf w
    let nk := k.toNat + 1
    let nr := rows.toNat + 1
    let want := ((c.lcc.toInt - ts.toNat) % 2 ^ 40).toNat
    let gets (i : Instr) (fits : Prop) (shape : Prop) (n : Nat) (row : Nat → List Byte) : Prop :=
      let ok : Prop := fits ∧ ts ≠ 0 ∧ mayMessage s port.toNat peer.toNat
      let ready : Prop := comesToIssue s = true ∧ ok ∧ (port.toNat < 16 → portReason s port.toNat = 0) ∧
        c.sbAt (.tile t.toNat) = none ∧ channelHead s port.toNat peer.toNat = some m
      (¬ok → refused s i) ∧ (ok → unlinked s port.toNat i) ∧
      (ready → m.stamp ≠ want ∨ ¬shape →
        ∃ why, (m.stamp ≠ want → why = 1) ∧ (m.stamp = want → why = 2) ∧ exec i s = .next (trapOn s s.cur 0x04
          (BitVec.ofNat 64 (want + why * 2 ^ 40)) (BitVec.ofNat 64 m.stamp) c.bpc c.lpc false)) ∧
      (ready → m.stamp = want → shape → ∃ u x, exec i s = .next u ∧ begins s u x [] ∧ x.kind = 0x20 ∧
        x.writes = [.tile t.toNat] ∧ (me u).sbAt (.tile t.toNat) = some .write ∧
        x.land = (List.range n).map (fun j => (⟨j, .bytes (w.row j), row j, false⟩ : Brought)) ∧
        (port.toNat < 16 → (linkAt u port.toNat).rx =
          dropFirst (fun m => m.src == peer.toNat && m.dst == gangIndex s c) (linkAt s port.toNat).rx) ∧
        (∀ k sender, port = 16 → c.kernel = some k → gangCore s k peer.toNat = some sender →
          (coreAt u sender).outbox = dropFirst (fun m => m.dst == gangIndex s c) (coreAt s sender).outbox))
    let whole : Prop := m.sendr = false ∧ m.payload.length = w.rows * w.len
    let pay (j : Nat) : List Byte := (m.payload.drop (w.len * j)).take w.len
    let window : Prop := tileOk c w ∧ w.rows * w.len ∈ [64, 128, 192, 256]
    let ranked : Prop := tileOk c w ∧ nr ≤ w.rows ∧ (f = .raw ∨ f = .n8) ∧ nr * nk ≤ 1024
    let sums : Prop := window ∧ f ≠ .raw ∧ f ≠ .b1 ∧ f ≠ .pni
    -- the elements of a row combined, floats by one operation and integers by another; where the tile's own holds an error a NaN or 0
    let comb (fl : FFmt → Nat → Nat → Nat) (int : Int → Int → Int) (j : Nat) : List Byte :=
      (List.range (w.len / f.bytes)).flatMap (fun i =>
        let el (bs : List Byte) : Nat := leNat ((bs.drop (f.bytes * i)).take f.bytes)
        let x := el (c.rowBytes w j w.len)
        let y := el (pay j)
        let z : Nat → Int := fun x => if f = .n8 then x else (BitVec.ofNat (8 * f.bytes) x).toInt
        leBytes f.bytes (if (c.poisonIn (w.row j + f.bytes * i) f.bytes).isSome then (f.float?.map FFmt.nan).getD 0
          else match f.float? with
            | some g => fl g x y
            | none => (BitVec.ofInt (8 * f.bytes) (int (z x) (z y))).toNat))
    gets (.recv port t peer ts) window whole w.rows pay ∧
    gets (.recvr port t peer k rows ts) ranked (m.sendr = true ∧ m.k = nk ∧ m.rows = nr) nr
      (fun j => (m.payload.drop (nk * j)).take nk ++ List.replicate (64 - nk) 0xFF) ∧
    gets (.radd port t peer ts) sums whole w.rows
      (comb (fun g x y => fAdd g .rne (FVal.ofBits g x) (FVal.ofBits g y)) (· + ·)) ∧
    gets (.rmax port t peer ts) sums whole w.rows (comb fMax max) ∧
      gets (.rmin port t peer ts) sums whole w.rows (comb fMin min)

/-- R405-R410: LCOPY of a shape that its tile holds, in a chain that it starts, or that is open at its port, and that
has room for its bytes, with room in the skid and its addresses translated to PEER pages of its port, sends one command
of its chain to the device and the address of its PEER page, the first with LEN8, and extends the running CRC over its
bytes; another shape, tile, chain, level or phase raises ILLOP with reason 5; LSTAT lands the state of a port of the
context's mask that its context uses and that is not DOWN, and takes LINKERR with reason 1 or 2 for another; LFENCE,
once every message is accepted and every verdict is here, reports no failed chain where there is none, and the first
failed one by a trap or, in its quiet form, in CBAD and CREF. It rests on the model's log entries 24, 26 and 74. -/
def Obligations.ChainedCopies : Prop :=
  ∀ (s : State) (port : BitVec 5) (t : TNo) (sh : ShNo) (sw : Bool) (xd xbar xe d : XNo) (f st q : Bool) (len8 : BitVec 3),
    let c := me s
    let w := c.win t.toNat
    let v := c.shape (12 + sh.toNat) sw
    let i : Instr := .lcopy port t sh sw xd xbar xe f st len8
    let bytes := (List.range (dim v 1)).flatMap (fun j => c.rowBytes w j (dim v 0))
    let count := dim v 0 * dim v 1
    let ok : Prop := port.toNat < 16 ∧ tileOk c w ∧ 1 ≤ dim v 0 ∧ dim v 0 ≤ w.len ∧ 1 ≤ dim v 1 ∧ dim v 1 ≤ w.rows ∧
      dim v 2 = 0 ∧
      dim v 3 = 0 ∧ (st = true → c.chain = none ∧ count ≤ 8192 * (len8.toNat + 1)) ∧
      (st = false → ∃ k, c.chain = some k ∧ k.port = port.toNat ∧ k.sent + count ≤ k.limit) ∧ insidePhase s = false ∧
        c.tl = 0
    -- an address is translated to a PEER page of the port
    let far (x : XNo) (pg : Page) : Prop := xlate s (ctxNo s c) (c.rx x.toNat).toNat .write = .ok pg ∧
      leafTT pg.leaf.toNat = 4 ∧ (pg.leaf.extractLsb' 40 4).toNat = port.toNat
    let idle : Prop := (∀ l ∈ s.links, ∀ m ∈ l.2.tx, m.sender ≠ some s.cur) ∧ (∀ r ∈ c.chains, r.verdict.isSome = true) ∧
      ∀ r ∈ s.reqs, r.src = .core s.cur → r.waiting = true → ∀ m, r.op ≠ .msg m
    (¬ok → refused s i) ∧ (ok → unlinked s port.toNat i) ∧
    (∀ pg bar, comesToIssue s = true → ok → portReason s port.toNat = 0 → c.sbAt (.tile t.toNat) ≠ some .write →
      skidUsed s port.toNat + (count + 63) / 64 ≤ 64 → (st = true → c.stall.map Stall.staged = some true) →
        hasWalked s = true →
      gateClosed s = false → far xd pg → (xbar ≠ 0 → far xbar bar) → ∃ u x m cmd, exec i s = .next u ∧
      streams s u x port.toNat m ∧ othersKept s u ∧ (me u).lcrc = crc32c c.lcrc bytes ∧
      m.dest = pg.leaf.extractLsb' 44 20 ∧ m.chain = some cmd ∧ cmd.dest = (pg.place (c.rx xd.toNat).toNat).addr ∧
      cmd.bar = (if xbar = 0 then none else some (bar.place (c.rx xbar.toNat).toNat).addr) ∧
      cmd.bytes = bytes ∧ cmd.start = (if st then some len8.toNat else none) ∧
      cmd.final.isSome = f ∧ (me u).chain.isSome = !f ∧ (st = true → cmd.seed = c.lcrc)) ∧
    (port.toNat < 16 → comesToIssue s = true →
      let l := linkAt s port.toNat
      let mine := (ctxAt s (ctxNo s c)).portMask.getLsbD port.toNat
      let up : Prop := l.st ≠ .down ∧ l.ctx.toNat = ctxNo s c ∧ l.v = true
      let refused (reason : Nat) : State :=
        trapOn s s.cur 0x0A (BitVec.ofNat 64 port.toNat) (BitVec.ofNat 64 reason) c.bpc c.lpc false
      exec (.lstat port d) s = .next (if mine = false then refused 1 else if up then
        lands .l 2 (.x d.toNat (linkStatus s port.toNat)) s else refused 2)) ∧
    (16 ≤ port.toNat → comesToIssue s = true → exec (.lstat port d) s = .next (illegal (.lstat port d) s)) ∧
    (comesToIssue s = true → idle → (∀ r ∈ c.chains, r.failed = false) →
      exec (.lfence q) s = .next (onward .l 1 s (mapMe s (fun c => { c with chains := [] })))) ∧
    (∀ r, comesToIssue s = true → idle → c.chains.find? ChainRec.failed = some r →
      (exec (.lfence false) s =
        let u := mapMe s (fun c => { c with chains := [], lcrc := r.seed, chain := none })
        .next (if r.verdict = some .refused then
            trapOn u u.cur 0x0A (BitVec.ofNat 64 r.port) 4 c.bpc c.lpc false
          else trapOn u u.cur 0x0B (r.expected.zeroExtend 64) (r.crc.zeroExtend 64) c.bpc c.lpc false)) ∧
      ∃ u, exec (.lfence true) s = .next u ∧ othersKept s u ∧ (me u).chains = [] ∧ (me u).lcrc = r.seed ∧
        (me u).chain = none ∧ (me u).bpc = c.bpc + 9 ∧
        (me u).cbad = (c.cbad || c.chains.any (fun r => r.verdict == some .bad)) ∧
        (me u).cref = (c.cref || c.chains.any (fun r => r.verdict == some .refused)))

/-! ## What comes about on a core besides the issue of bundles -/

/-- R63, R64, R68, R148, R244, R248, R273: of a running core the result that is due, the earliest and among those of one
cycle the first issued, lands. The register that it names takes it, be it a scalar register or a predicate (x0 and p0
take none), a vector register, a field of a shadow shape register, the attenuation table, a tile register, whose object
is free again, or a bank format; every other register of the sort, and the rest of the core, keep their values. A
store's bytes reach the scratchpad and no others change. It rests on the model's log entry 19. -/
def Obligations.ResultsLand : Prop :=
  (∀ (s : State) (n : Nat) (f : Flight) (before after : List Flight), (coreAt s n).life = .running →
    (coreAt s n).pipe = before ++ f :: after → f.rem ≤ 0 → (∀ g ∈ before, f.rem < g.rem) → (∀ g ∈ after, f.rem ≤ g.rem) →
    exec (.resultLanding n) s = .next (setCore s n ({ coreAt s n with pipe := before ++ after }.land f.dst))) ∧
  (∀ (c : Core) (n m : Nat) (v : W64) (b : Bool), m < 32 →
    (c.land (.x n v)).rx m = (if m = n ∧ n ≠ 0 then v else c.rx m) ∧
    c.land (.x n v) = { c with x := (c.land (.x n v)).x } ∧
    (m < 8 → n < 8 → (c.land (.p n b)).rp m = (if m = n ∧ n ≠ 0 then b else c.rp m) ∧
      c.land (.p n b) = { c with p := (c.land (.p n b)).p })) ∧
  (∀ (c : Core) (k : Cluster) (n m : Nat) (v : VReg),
    let d := c.land (.v k n v)
    d.rv k m = (if m = n then v else c.rv k m) ∧ d.rv k.other m = c.rv k.other m ∧ d = { c with va := d.va, vb := d.vb }) ∧
  (∀ (c : Core) (n m f i : Nat) (v : W64),
    let d := c.land (.shadow n f v)
    let get (c : Core) (m : Nat) : W64 := tabGet 0 c.shShadow m
    (f < 4 → i < 4 → (get d n).extractLsb' (16 * i) 16 = if i = f then v.truncate 16 else (get c n).extractLsb' (16 * i) 16) ∧
    (f = 4 → get d n = v) ∧ (m ≠ n → get d m = get c m) ∧ d = { c with shShadow := d.shShadow }) ∧
  (∀ (c : Core) (v : BitVec 2048), c.land (.att v) = { c with att := v }) ∧
  (∀ (c : Core) (n m : Nat) (v : BitVec 40), n < 64 →
    let d := c.land (.tile n v)
    d.tileAt m = (if m = n then v else c.tileAt m) ∧ d.sbAt (.tile m) = (if m = n then none else c.sbAt (.tile m)) ∧
    d.sbAt (.acc m) = c.sbAt (.acc m) ∧ d = { c with tile := d.tile, sb := d.sb }) ∧
  (∀ (c : Core) (n m : Nat) (f : BitVec 4),
    let d := c.land (.bf n f)
    d.bfAt m = (if m = n then f else c.bfAt m) ∧ d = { c with bf := d.bf }) ∧
  (∀ (c : Core) (a i : Nat) (bs : List (Option Byte)) (sub : Bool), c.sp.wf = true →
    let d := c.land (.mem [(a, bs)] sub)
    d.sp.read i = (if a ≤ i then ((bs[i - a]?).bind id).getD (c.sp.read i) else c.sp.read i) ∧
    d = { c with sp := d.sp, spPoison := d.spPoison })

/-- R69, R149, R161, R245, R262, R263, R267, R287, R298: engine operations and transfers finish: what they bring lands,
and the objects that they held are free; checks complete. The rows of a matrix operation, each with the bits that it
replaces, reach their bytes of the scratchpad and its elements their places in the accumulator; the pieces of a transfer
reach theirs in their order, whole or in the format of their row, and a handle that it brings its register; nothing else
changes. It rests on the model's log entries 17 and 18. -/
def Obligations.EnginesFinish : Prop :=
  ∀ (s : State) (n : Nat),
    let c := coreAt s n
    (∀ m r, c.mops = m :: r → m.stepped = true → m.readDone = false →
      exec (.engineReadFinished n 0) s =
        .next (setCore s n { c.readDone m.reads with mops := { m with readDone := true } :: r })) ∧
    (∀ id x before after, id ≠ 0 → c.xfers = before ++ x :: after → x.id = id → x.readDone = false → x.kind ≠ 0x0D →
      (∀ y ∈ before ++ after, y.id ≠ id) →
      exec (.engineReadFinished n id) s = .next (setCore s n (if x.kind = 0x21 then
        { c.readDone x.reads with xfers := before ++ after }
        else { c.readDone x.reads with xfers := before ++ { x with readDone := true } :: after }))) ∧
    (∀ m r, c.mops = m :: r → m.bad = none → ∃ t, exec (.engineOpDone n) s = .next t ∧
      t = setCore s n ({ c with mops := r }.matDone m) ∧ (coreAt t n).mops = r ∧
      ∀ o ∈ m.writes, (coreAt t n).sbAt o = none) ∧
    (∀ m r a, c.mops = m :: r → m.bad = some a → m.ph = false →
      exec (.engineOpDone n) s =
        let d := { c with mops := r }.matDone m
        .next (setCore s n { d with pend := d.pend ++ [.mchk 3 a none] })) ∧
    (∀ id x, c.finished? id = some x →
      let t := setCore s n (c.xferDone x)
      (x.kind < 0x20 → exec (.transferDone n id) s = .next t) ∧
      (x.kind = 0x20 → exec (.receivePayloadLanded n id) s = .next t) ∧
      (∀ y ∈ (coreAt t n).xfers, y.id ≠ x.id) ∧
      ∀ o ∈ x.writes, (∀ y ∈ (coreAt t n).xfers, o ∉ y.writes) → (coreAt t n).sbAt o = none) ∧
    -- what the rows of an operation and the elements of its accumulator reach, and nothing else
    (∀ (c : Core) (m : MatOp), let d := c.matDone m
      (c.sp.wf = true → ∀ i, d.sp.read i = rowsOver m i (c.sp.read i)) ∧
      (∀ k, tabGet AccEl.zero d.acc k = ((m.acc.bind (fun a => (a.2.reverse.find? (fun e => 1024 * a.1 + e.1 == k)).map Prod.snd)).getD
        (tabGet AccEl.zero c.acc k))) ∧
      d = { c with
        sp := d.sp, spPoison := d.spPoison, acc := d.acc, accPoison := d.accPoison, sb := d.sb
        kchks := c.kchks ++ (m.kchk.map (fun good => (⟨m.ph, good⟩ : Kchk))).toList }) ∧
    -- what the pieces of a transfer, in their order, and its handle reach
    (∀ (c : Core) (x : Xfer), let d := c.xferDone x
      (c.sp.wf = true → ∀ i, d.sp.read i = (sortBrought x.land).foldl (pieceOver i) (c.sp.read i)) ∧
      (x.newHandle = none → d.handle = c.handle) ∧
      (∀ h e, x.newHandle = some (h, e) → (∀ k, k ≠ h → d.handleAt k = c.handleAt k) ∧
        (∀ v, e = .all v → d.handleAt h = v) ∧
        (∀ off v, e = .field off v → off + 8 ≤ 128 → ∀ i, i < 1024 → (d.handleAt h).getLsbD i =
          if 8 * off ≤ i ∧ i < 8 * off + 64 then v.getLsbD (i - 8 * off) else (c.handleAt h).getLsbD i)) ∧
      d = { c with sp := d.sp, spPoison := d.spPoison, handle := d.handle, sb := d.sb, xfers := d.xfers }) ∧
    (∀ line id o x, c.ovls.find? (fun o => o.lines.any (fun l => l.1 == line)) = some o →
      o.lines.find? (fun l => l.1 == line) = some (line, id) → c.finished? id = some x →
      ∃ d, exec (.ovlLineLanded n line) s = .next (setCore s n d) ∧
        d.bundle = c.bundle.writeN (64 * line) (gathered x.land).1 ∧
        (∀ l, l ∈ d.bPoison ↔ if l = line then (gathered x.land).2 = true else l ∈ c.bPoison) ∧
        (∀ l, l ≠ line → (l ∈ d.bPend ↔ l ∈ c.bPend)) ∧ (∀ y, y ∈ d.xfers ↔ y ∈ c.xfers ∧ y.id ≠ x.id) ∧
        (o.lines = [(line, id)] → o.n ∈ d.present ∧ ∀ p ∈ d.ovls, p ≠ o) ∧ d.x = c.x ∧ d.sp = c.sp ∧ d.bpc = c.bpc) ∧
    (∀ ph r, c.inject = ph :: r →
      exec (.injectedCheck n) s = .next (setCore s n { c with inject := r, kchks := c.kchks ++ [⟨ph, true⟩] })) ∧
    (∀ k r, c.kchks = k :: r → k.good = true →
      exec (.kchkComplete n true) s = .next (setCore s n { c with kchks := r, chkcnt := c.chkcnt + 1 })) ∧
    (∀ k r ok, c.kchks = k :: r → k.ph = false → (k.good && ok) = false → c.suspect = false →
      exec (.kchkComplete n ok) s =
        .next (setCore s n { c with kchks := r, chkcnt := c.chkcnt + 1, suspect := true }))

/-- R72, R146, R148, R151, R165, R167, R177, R286, R306, R346, R349, R385, R390, R392, R406: a released bundle comes to
issue again; the walks of a bundle that waits send reads to the homes of the entries they need, and are done once those
have been served; a chain's reservation is remembered by the bundle that waits for it; PROMISE and the boundary causes
are taken as traps; a handler beyond its budget issues no bundle and takes no trap, and its context is killed, with the
record of that; a core that has ended, with nothing outstanding, retires: of a timed gang with its digest; of a nest
group with its group, which dissolves, its item going back to the walker, while its walker holds work, and else, with
its last core, finishes its item; a late fault poisons its line, and the record of an operation's fault goes to its
context. It rests on the model's log entries 14, 34, 35, 53, 88 and 90. -/
def Obligations.CoreEvents : Prop :=
  ∀ (s : State) (n : Nat),
    let c := coreAt s n
    let at_ : State := { s with cur := n }
    (c.life = .running → c.stall.isSome = true → c.spent = false → c.nextDue = none →
      (c.firstPend = none ∨ trapBoundary s n = false) →
      frozen s n = false → stillHeld at_ = false →
      exec (.stallRelease n) s = .next { boundary at_ with cur := s.cur }) ∧
    (∀ t, c.stall = some t → t.skid.map SkidWait.stage = some true →
      exec (.chainStagingReserved n) s = .next (setCore s n { c with stall := some { t with staged := true } })) ∧
    (∀ t, c.stall = some t → c.life = .running → t.walked = false → t.walks ≠ [] →
      -- the entries of the translation tables that the walks read
      let entries := stallEntries s (ctxNo s c) t
      ((∃ e ∈ entries, e.1 ∉ t.reads.map Prod.fst) → gateClosed s = true → exec (.translationWalkDone n) s = .next s) ∧
      -- they are counted as they begin
      ((∃ e ∈ entries, e.1 ∉ t.reads.map Prod.fst) → gateClosed s = false →
        ∃ u k, exec (.translationWalkDone n) s = .next u ∧
        (coreAt u n).stall = some k ∧ k.walked = false ∧ (∀ e ∈ entries, e.1 ∈ k.reads.map Prod.fst) ∧
        (coreAt u n).walks = (if t.reads = [] then c.walks + BitVec.ofNat 32 t.walks.length else c.walks) ∧
        ∀ q ∈ k.reads, q ∈ t.reads ∨ ∃ r ∈ u.reqs, r.id = q.2 ∧ r.op = .fetch ∧ r.src = .core n ∧ r.place = entryPlace q.1) ∧
      ((∀ e ∈ entries, e.1 ∈ t.reads.map Prod.fst) → (∀ r ∈ s.reqs, r.id ∈ t.reads.map Prod.snd → r.waiting = false) → ∃ u,
        exec (.translationWalkDone n) s = .next u ∧ (coreAt u n).stall = some { t with walked := true } ∧
        (coreAt u n).walks = c.walks ∧ (coreAt u n).bpc = c.bpc ∧
        ((∀ w ∈ (ctxAt s (ctxNo s c)).windows, w.fmt = 0) → u = setCore s n { c with stall := some { t with walked := true } }))) ∧
    (∀ t x tile, c.stall = some t → c.promised = some (x, tile) → trapBoundary s n = true → c.firstPend = none → c.tl < 2 →
      c.spent = false →
      (kernelOf s c).lr.slack ≠ 0 → (kernelOf s c).lr.slack < t.clk →
      exec (.promise n) s = .next (trapOn s n 0x05 (BitVec.ofNat 64 (x.tag.getD 0 + tile * 2 ^ 16)) (BitVec.ofNat 64 t.clk)
        c.bpc c.lpc false)) ∧
    (∀ p, c.firstPend = some p → trapBoundary s n = true → c.spent = false →
      let t := setCore s n { c with pend := dropPend p c.pend }
      exec (.boundaryTrapEntry n) s = .next (match p with
        | .mchk src a entry => trapOn t n 0x07 (BitVec.ofNat 64 src) (BitVec.ofNat 64 a) (entry.getD c.bpc) c.lpc false
        | .homeflt va r entry => trapOn t n 0x08 (BitVec.ofNat 64 va) (BitVec.ofNat 64 r) entry c.lpc false)) ∧
    -- a handler beyond its budget issues no bundle and takes no trap; its context is killed, with the record of the kill
    (c.tl ≠ 0 → 65536 < c.budg →
      exec (.boundaryTrapEntry n) s = .next s ∧ exec (.promise n) s = .next s ∧ exec (.stallRelease n) s = .next s ∧
      boundary at_ = at_ ∧
      (c.life = .running →
        let x := ctxAt s (ctxNo s c)
        ∃ t, exec (.handlerBudgetExceeded n) s = .next t ∧ (ctxAt t (ctxNo s c)).st = .killed ∧
        t = killCtx s (ctxNo s c) 0x0104 (256 * c.tl) n c.kernel (BitVec.ofNat 64 c.bank1.epc) ∧
        (s.hostMem.wf = true → (x.erprod.truncate 32 - x.ercons).toNat ≠ x.erSize →
          t.hostMem.readN (x.erBase + 32 * (x.erprod.toNat % x.erSize)) 32 = leBytes 2 0x0103 ++ leBytes 2 (256 * c.tl) ++
            leBytes 2 n ++ leBytes 2 0 ++ leBytes 8 x.erprod.toNat ++ leBytes 8 0x0104 ++
            leBytes 8 (BitVec.ofNat 64 c.bank1.epc).toNat))) ∧
    (c.life = .ended → quiet s n = true →
      (groupNo? s n = none → exec (.coreRetire n) s = .next (setCore s n { c with life := .retired })) ∧
      (∀ k g, groupNo? s n = some (k, g) → (kernelAt s k).lr.nest = false → mayRetire s n k g = true → ∃ t,
        exec (.coreRetire n) s = .next t ∧ t.cores = (setCore s n { c with life := .retired }).cores ∧
        tabGet 0 (kernelAt t k).digests (gangNo (kernelAt s k) c) = c.digest) ∧
      (∀ k g, groupNo? s n = some (k, g) → (kernelAt s k).lr.nest = true → mayRetire s n k g = true →
        let u := setCore s n { c with life := .retired }
        let kn := kernelAt s k
        let gr := groupAt s k g
        let work := ((kn.walkerOf gr.bay).map Walker.hasWork).getD false
        let last : Prop := ∀ m ∈ gr.cores, m ≠ n → (coreAt s m).life = .retired
        (work = true → g < kn.groups.length → ∃ t, exec (.coreRetire n) s = .next t ∧ (groupAt t k g).st = .retired ∧
          (groupAt t k g).cores = [] ∧ (groupAt t k g).item = none ∧ (coreAt t n).life = .retired ∧
          (∀ m ∈ gr.cores, m ≠ n → (coreAt s m).life ≠ .retired → (coreAt t m).life = .idle) ∧
          ∀ o, gr.item = some o → gr.committed = false →
            ∃ w ∈ (kernelAt t k).walkers, w.bay = gr.bay ∧ (o, o + 1) ∈ w.pending) ∧
        (work = false → ¬last → exec (.coreRetire n) s = .next u) ∧
        (work = false → last → ∃ t, exec (.coreRetire n) s = .next t ∧ t.cores = u.cores ∧ (groupAt t k g).st = .retired ∧
          (groupAt t k g).item = none ∧ ∀ o, gr.item = some o →
            tabGet 0 (kernelAt t k).digests o = itemDigest u gr.cores))) ∧
    (∀ ctx va addr, addr < 2 ^ 40 → ∃ t, exec (.lateFault ⟨ctx, n, va⟩ addr) s = .next t ∧ addr / 64 ∈ t.hbmPoison ∧
      let u : State := { s with hbmPoison := setIns (addr / 64) s.hbmPoison }
      ((∀ p ∈ s.ctxs, p.2.live = false) → t = if ctx < 4096 then
        postError u ctx 0x0101 0 (if n < 1024 then n else noCore) (BitVec.ofNat 64 va) 0 else u))

/-! ## Groups, kernels and phases (07_kernel, 08_group, 16_phase) -/

/-- R154, R155, R158, R163-R166, R311: a group all of whose cores have reached one rendezvous, with bundles that nothing
else keeps, passes it: the phase opens or is sealed, or the gang is aligned, and their bundles issue; a PHPUB begins the
drain, and at WNEXT the item is finished. A walker hands its next ordinal to a waiting group, and an empty one takes
half of the largest range. It rests on the model's log entry 11. -/
def Obligations.GroupEvents : Prop :=
  ∀ (s : State) (k g bay : Nat),
    let kn := kernelAt s k
    let gr := groupAt s k g
    let gang := (kn.groups.map (fun p => p.2.cores)).flatten
    let go (r : Rdv) : Prop := allAt s r gr.cores = true ∧ gr.st = .running ∧ gr.steady = true
    -- the bundles of cores: one instruction each, ready but for the rendezvous
    let ready (r : Rdv) (l : List Nat) : Prop := allReady s r l = true ∧ l.Nodup ∧
      ∀ n ∈ l, (aloneAt (coreAt s n)).isSome = true
    let passed (t : State) (n : Nat) : Prop := (coreAt t n).stall = none ∧ (coreAt t n).bpc = (coreAt s n).bpc + 5 ∧
      (coreAt t n).x = (coreAt s n).x ∧ (coreAt t n).life = .running
    kn.st = .running → halting s kn = false →
    (go .phopen → ready .phopen gr.cores → ∃ t, exec (.groupRendezvous k g) s = .next t ∧ (∀ n ∈ gr.cores, passed t n) ∧
      (groupAt t k g).ph = .open_ ∧ (groupAt t k g).step = .none ∧ (groupAt t k g).opened = true ∧
      ∀ n ∈ gr.cores, ∀ a e1 acc1 e0 acc0, aloneAt (coreAt s n) = some (.phopen a e1 acc1 e0 acc0) →
        ∃ p, (coreAt t n).snap = some p ∧ p.x = (coreAt s n).x ∧ p.bpc = (coreAt s n).bpc + 5 ∧
          (coreAt t n).inLog = (coreAt s n).runLog ∧ (coreAt t n).runLog = []) ∧
    (go .phseal → ready .phseal gr.cores → ∃ t, exec (.groupRendezvous k g) s = .next t ∧ (∀ n ∈ gr.cores, passed t n) ∧
      (groupAt t k g).ph = .sealed) ∧
    (go .phpub → gr.ph.inside = true →
      exec (.groupRendezvous k g) s = .next (mapGroup s k g (fun gr => { gr with ph := .prepare }))) ∧
    (go .wnext → turnOf kn gr = true → ∃ t, exec (.groupRendezvous k g) s = .next t ∧ (groupAt t k g).st = .waiting ∧
      (groupAt t k g).item = none ∧ (groupAt t k g).since = kn.waits ∧ (kernelAt t k).waits = kn.waits + 1 ∧
      t.cores = s.cores) ∧
    (go .lalign → ready .lalign gang → ∃ t, exec (.groupRendezvous k g) s = .next t ∧ (kernelAt t k).aligned = true ∧
      ∀ n ∈ gang, passed t n ∧ (coreAt t n).lcc = BitVec.ofNat 64 (maxLcc s gang + 1) ∧
        (aloneAt (coreAt s n) = some .lalign → (coreAt t n).aligned = true)) ∧
    (∀ w o, kn.walkerOf bay = some w → w.next = some o → gr.st = .waiting → gr.bay = bay → waitsFirst kn bay g gr = true →
      (kn.level ≠ 2 ∨ o < kn.luo + 4096) → gr.cores.Nodup → ∃ t, exec (.dispatch k bay g) s = .next t ∧
        (groupAt t k g).item = some o ∧ (groupAt t k g).st = .running ∧ (groupAt t k g).cores = gr.cores ∧
        (kernelAt t k).walkers = kn.walkers.map (fun v => if v.bay = bay then v.take else v) ∧
        ∀ n ∈ gr.cores, coreAt t n = (coreAt s n).dispatch kn.lr o (maxLcc s gr.cores)) ∧
    (∀ w v, kn.walkerOf bay = some w → w.hasWork = false → v ∈ kn.walkers → v.bay ≠ bay → 2 ≤ v.left →
      (∀ u ∈ kn.walkers, u.left < v.left ∨ u = v ∨ (u.left = v.left ∧ v.bay < u.bay)) →
      kn.groups.any (fun p => p.2.st == .waiting && p.2.bay == bay) = true →
      let cut := v.lo + (v.left + 1) / 2
      exec (.workSteal k bay) s = .next (mapKernel s k (fun kn => { kn with walkers := kn.walkers.map (fun u =>
        if u.bay = v.bay then { u with hi := cut } else if u.bay = bay then { u with lo := cut, hi := v.hi } else u) })))

/-- R139, R145, R147, R172-R174, R178, R306: the image of a loading kernel is read through its context's pages, and the
kernel then runs, or is killed; a finished one retires once the writes of its cores have been accepted; a pre-empted one
leaves its cores, and is killed where its grant can form its gang no more; and a resumed one has its bays again. It
rests on the model's log entries 44, 59 and 82. -/
def Obligations.KernelEvents : Prop :=
  ∀ (s : State) (k : Nat),
    let kn := kernelAt s k
    (kn.st = .loading → fetchesIn s (.image k) kn.ctx (imageReads s k) = false →
      exec (.kernelLoadDone k) s = .next (startFetches (.image k) kn.ctx (imageReads s k) s)) ∧
    (kn.st = .loading → fetchesIn s (.image k) kn.ctx (imageReads s k) = true →
      (loadImage s k = none → exec (.kernelLoadDone k) s = .next (killOne s k 0x0101)) ∧
      (∀ l, loadImage s k = some l → ∃ t, exec (.kernelLoadDone k) s = .next t ∧ (kernelAt t k).st = .running ∧
        (kernelAt t k).start = l.start ∧ (kernelAt t k).overlays = l.overlays ∧ (kernelAt t k).points = l.points ∧
        (kernelAt t k).luo = kn.lr.first)) ∧
    (kn.st = .running → (∀ p ∈ kn.groups, p.2.st = .retired) → (kn.lr.nest = true → kn.luo = kn.lr.first + kn.lr.count) →
      exec (.kernelFinish k) s = .next (mapKernel s k (fun kn => { kn with st := .finishing }))) ∧
    (kn.st = .finishing → (∃ r ∈ s.reqs, r.waiting = true ∧ r.op.onlyReads = false ∧ r.kn = some k) ∨ restIdle s k = false →
      exec (.kernelRetire k) s = .next s) ∧
    (kn.st = .finishing → (∀ r ∈ s.reqs, r.kn = some k → r.waiting = true → r.op.onlyReads = true) → restIdle s k = true →
      ∃ t,
      exec (.kernelRetire k) s = .next t ∧ (kernelAt t k).st = .retired ∧ (kernelAt t k).bays = [] ∧
      ∀ n, (coreAt s n).kernel = some k → (coreAt t n).kernel = none ∧ (coreAt t n).life = .idle) ∧
    (kn.st = .running → kn.preempt = true → mayPreempt s k = true → (∀ p ∈ kn.liveGroups, p.2.ph = .closed) → ∃ t,
      exec (.kernelPreempt k) s = .next t ∧
      (∀ n, (coreAt s n).kernel = some k → (coreAt t n).kernel = none ∧ (coreAt t n).life = .idle) ∧
      (kn.lr.nest = true ∨ kn.lr.gang ≤ canForm s k → (kernelAt t k).st = .preempted ∧ (kernelAt t k).preempt = false ∧
        (kernelAt t k).saved = (coresOfBays kn.bays).map (fun n => (n, coreAt s n))) ∧
      -- a gang that the grant cannot form any more
      (kn.lr.nest = false → canForm s k < kn.lr.gang → (kernelAt t k).st.alive = false)) ∧
    (∀ bays, mayResume s kn bays = true → ∃ t, exec (.kernelResume k bays) s = .next t ∧ (kernelAt t k).st = .running ∧
      (kernelAt t k).bays = bays ∧ (kernelAt t k).saved = [])

/-- R137, R311, R315, R316, R320, R324: a drained phase is prepared: its tokens go to the homes that hold something of
it; a home that they have all reached votes; once the votes are back the commit tokens go out; a home that those have
reached applies its stores and addends, those that hold an ENQ or a QSIG all in one step, in which these are done in
issue order (log entry 32); after the last of them the phase is CLOSED, and the PHPUB bundles issue. A home that may not
take a store cancels it; a cancelled phase discards what it holds, its cores go back to their snapshots, and it is OPEN
again. That a far side's refusal (R399) is found at the vote, before the store is sent at the commit (R316), is the
model's choice (DEDUCED, its log entry 49). It rests on the model's log entries 6, 32, 49 and 74. -/
def Obligations.PhaseEvents : Prop :=
  ∀ (s : State) (k g home : Nat) (far : FarResp),
    let kn := kernelAt s k
    let gr := groupAt s k g
    let mine := phaseReqs s k g
    let held := commitOrder s (heldAt s k g home)
    let prepares := tokensFor s k g false home
    -- eight tokens of a kind on their way to the home of a request
    let told (t : State) (commit : Bool) (q : Req) : Prop :=
      ∀ b, b < 8 → ∃ w ∈ t.reqs, w.op = .token k g commit ∧ w.place = ⟨q.place.home, 64 * b, 0⟩ ∧ w.waiting = true
    (gr.ph = .prepare → gr.steady = true → kn.st = .running → halting s kn = false → pubDrained s k g = true →
      (mine = [] → (∀ r ∈ s.reqs, r.op ≠ .token k g false) →
        ∃ t, exec (.phasePrepare k g) s = .next t ∧ groupAt t k g = { gr with step := .committing } ∧ t.cores = s.cores ∧
          ((∀ q ∈ s.partials, addendsOf s gr.cores q.ids = false) → t.reqs = s.reqs)) ∧
      (mine ≠ [] → ∃ t, exec (.phasePrepare k g) s = .next t ∧ (groupAt t k g).step = .voting [] ∧
        ∀ q ∈ mine, told t false q)) ∧
    (∀ voted r rest, gr.step = .voting voted → held = r :: rest → home ∉ voted → tokensIn s prepares = true →
      wayOpen s r = true →
      ((∀ q ∈ held, homeFault s far q = none) → exec (.homePrepareVote k g home far) s =
        .next (mapGroup (answerTokens s prepares) k g (fun gr => { gr with step := .voting (setIns home voted) }))) ∧
      (∀ before q after why n, held = before ++ q :: after → (∀ p ∈ before, homeFault s far p = none) →
        homeFault s far q = some why → q.src = .core n →
        exec (.homePrepareVote k g home far) s = .next (cancelPhase s k g true (some (n, q.va, why))))) ∧
    (∀ id r voted, reqOf s id = some r → r.op = .token k g false → r.st = .applied → r.ph = none → gr.step = .voting voted →
      (∀ q ∈ mine, q.st = .held → q.place.home.code ∈ voted) → (∀ q ∈ s.reqs, q.id ≠ id → q.op ≠ .token k g false) → ∃ t,
      exec (.homeAck id) s = .next t ∧ (groupAt t k g).step = .committing ∧
      ∀ q ∈ mine, q.id ≠ id → q.st = .held → told t true q) ∧
    -- the homes that apply in one step, and what they hold
    (let acts (h : Nat) : Prop := ∃ r ∈ mine, r.st = .held ∧ r.isAct = true ∧ r.place.home.code = h
     (¬acts home → commitWith s k g home = [home]) ∧ (acts home → ∀ h, h ∈ commitWith s k g home ↔ acts h)) ∧
    (gr.step = .committing →
      let homes := commitWith s k g home
      let all := commitOrder s (mine.filter (fun r => r.st == .held && homes.contains r.place.home.code))
      let tokens := homes.flatMap (tokensFor s k g true)
      let t := applyAll all (answerTokens s tokens)
      (tokens = [] → exec (.homeCommitApply k g home) s = .next (applyAll (all.filter Req.isAct) s)) ∧
      (tokens ≠ [] → (∀ h ∈ homes, tokensIn s (tokensFor s k g true h) = true) →
        (∀ r ∈ all, r.isAct = true ∨ wayOpen s r = true ∧ awayHome s r.ctx r.place = false) →
        ((∃ r ∈ t.reqs, r.op = .token k g true ∧ (r.waiting = true ∨ r.st = .held)) →
          exec (.homeCommitApply k g home) s = .next t) ∧
        ((∀ r ∈ t.reqs, r.op = .token k g true → r.waiting = false ∧ r.st ≠ .held) →
          exec (.homeCommitApply k g home) s = .next (actsDone k g t)))) ∧
    -- one after another; an act that cannot be done keeps back those after it
    (∀ (b : Bool) (t : State) (r : Req) (l : List Req), applyAll l t = (l.foldl applyNext (false, t)).2 ∧
      (r :: l).foldl applyNext (b, t) = l.foldl applyNext (
        if r.isAct = true ∧ (b = true ∨ ringRoom t r = false ∨ wayOpen t r = false ∨ awayHome t r.ctx r.place = true) then (true, t)
        else (b, applyHeld t r))) ∧
    ((groupAt (actsDone k g s) k g).held = [] ∧
      ∀ (t : State) (r : Req), isFar r.place = false →
        (∀ p ∈ t.partials, sameL p.place r.place = false) → (∀ q ∈ t.reqs, partFor r.place q = false) →
        applyHeld t r = setReqSt (homeServe r t).2 r.id .applied) ∧
    (gr.step = .committing → (∀ r ∈ s.reqs, r.ph = some (k, g) → r.st = .applied) → (∀ r ∈ s.reqs, r.op ≠ .token k g true) →
      s.rehash = false → gr.cores.Nodup →
      (∀ n ∈ gr.cores, let c := coreAt s n
        aloneAt c = some .phpub ∧ fetchHeld c = false ∧ c.life = .running ∧ c.stall.isSome = true ∧
        (c.stall.map Stall.early) = some false ∧ c.tl = 0) → ∃ t,
      exec (.phaseCommitComplete k g) s = .next t ∧ (groupAt t k g).ph = .closed ∧ (groupAt t k g).step = .none ∧
      (groupAt t k g).held = [] ∧ (groupAt t k g).canc = 0 ∧ (groupAt t k g).cores = gr.cores ∧
      (groupAt t k g).ncommit = gr.ncommit + 1 ∧ (∀ r ∈ t.reqs, r.ph ≠ some (k, g)) ∧
      ∀ n ∈ gr.cores, (coreAt t n).stall = none ∧ (coreAt t n).bpc = (coreAt s n).bpc + 5 ∧
        (coreAt t n).x = (coreAt s n).x) ∧
    (∀ count, gr.step = .cancel count none → (∀ n ∈ gr.cores, (coreAt s n).tl = 0 ∧ (coreAt s n).idleEngines = true ∧
        (coreAt s n).opening = false) →
      badSnaps s gr.cores = [] → (count = true → gr.canc < 2) → ∃ t, exec (.phaseCancel k g) s = .next t ∧
        (groupAt t k g).ph = .open_ ∧ (groupAt t k g).step = .none ∧ (groupAt t k g).held = [] ∧
        (groupAt t k g).canc = (if count then gr.canc + 1 else gr.canc) ∧ (∀ r ∈ t.reqs, r.ph ≠ some (k, g)) ∧
        ∀ n ∈ gr.cores, ∀ p, (coreAt s n).snap = some p → (coreAt t n).x = p.x ∧ (coreAt t n).p = p.p ∧
          (coreAt t n).bpc = p.bpc ∧ (coreAt t n).lpc = p.lpc ∧ (coreAt t n).lcc = p.lcc + 1 ∧ (coreAt t n).stall = none)

/-! ## Boot, power and registers (01_module, 14_tensor, 22_link) -/

/-- R14, R19-R23, R373, R377, R303, R394, R395: the boot stages follow one another; the power controller counts and
gates; the reports of attestation are written; writes of registers put their values, and those that the rules drop are
counted. That DRAM lists nothing, and so reads 0, after PERST# is the model's choice (log entry 3; R20 says that all
state is lost), and so are the reset values of the links (log entry 5), the bytes that firmware is measured by (log
entry 70) and that the THROTTLE record is posted when the gate closes (log entry 71). It rests on the model's log
entries 3, 5, 51, 55, 70 and 71. -/
def Obligations.BootPowerAndRegisters : Prop :=
  ∀ (s : State) (v : W64) (d : BitVec 256) (bad bays off : List Nat) (watts port : Nat),
    (s.boot = .off → exec .suppliesValid s = .next { s with boot := .reset }) ∧
    (s.boot = .reset → exec .perstDeassert s = .next { s with boot := .romboot }) ∧
    (∃ t, exec .perstAssert s = .next t ∧ t.hostMem = s.hostMem ∧ t.boot = State.reset.boot ∧ t.hbm = [] ∧ t.ctxs = [] ∧
      t.kernels = [] ∧ t.cores = [] ∧ t.reqs = [] ∧ t.links = State.reset.links) ∧
    (s.boot = .romboot → ∀ modulus exponent signature,
      exec (.firmwareSignatureCheck ⟨modulus, exponent, signature⟩ d) s = .next (
        if firmwareGood modulus exponent signature d then extend 0 d { s with boot := .measure }
        else { s with boot := .failed, bootstat := 2 })) ∧
    (s.boot = .measure → exec (.measureDone [d]) s = .next (extend 1 d { s with boot := .selftest }) ∧
      ∀ l : List (BitVec 256), ∃ t, exec (.measureDone l) s = .next t ∧ t.boot = .selftest ∧
        tabGet 0 t.mreg 0 = tabGet 0 s.mreg 0) ∧
    (s.boot = .selftest → exec (.selftestDone ⟨bad, bays⟩ off true) s = .next { s with boot := .failed, bootstat := 3 } ∧
      ((∃ p, p < 8 ∧ p ∉ off) → ∃ t, exec (.selftestDone ⟨bad, bays⟩ off false) s = .next t ∧ t.boot = .ready ∧
        t.bootstat = 1 ∧ t.listed = true ∧
        (∀ n, n ∈ t.fenced ↔ n ∈ s.fenced ∨ n < 1024 ∧ (n ∈ bad ∨ n / 16 ∈ bays)) ∧
        (∀ b, b ∈ t.fencedBays ↔ b ∈ s.fencedBays ∨ b < 64 ∧ b ∈ bays) ∧
        (∀ p, p < 8 → planeSt t p = if p ∈ off then .off else .up) ∧
        ∀ b, b < 8 → pmapAt t.pmap b ∉ off)) ∧
    (watts ≤ 4000 → ∀ l, exec (.powerWindowCheck watts l) s = .next { s with watts := watts, overMs := 0 }) ∧
    (4000 < watts →
      (∀ n, mayLower s n = true → ∃ t, exec (.powerWindowCheck watts [n]) s = .next t ∧ t.watts = watts ∧
        t.overMs = (if slowest s then s.overMs + 1 else 0) ∧
        ∀ m, tabGet nominalMhz t.mhz m =
          if m = n then max 300 (tabGet nominalMhz s.mhz n - 25) else tabGet nominalMhz s.mhz m) ∧
      ∀ l, (∃ n, mayLower s n = true) → ∃ t, exec (.powerWindowCheck watts l) s = .next t ∧
        ∃ n, mayLower s n = true ∧ tabGet nominalMhz t.mhz n < tabGet nominalMhz s.mhz n) ∧
    (10 ≤ s.overMs → s.pgate = false → exec .globalIssueGateClose s =
      .next (postAll { s with pgate := true } (fun _ => true) 1 (BitVec.ofNat 64 s.watts) 0)) ∧
    (s.pgate = true → s.watts < 3800 → exec .globalIssueGateOpen s = .next { s with pgate := false, overMs := 0 }) ∧
    exec (.apbaseWrite v) s = .next (if fld v.toNat 39 30 * 2 ^ 30 % 2 ^ s.bar2log = 0 then
      { s with apbase := v.extractLsb' 30 10 } else { s with dbdrop := s.dbdrop + 1 }) ∧
    (v.getLsbD 0 = true → s.attbusy = false → exec (.attgo v) s = .next (if s.boot = .ready then
      { s with attdone := 0, attbusy := true } else { s with attdone := 2 })) ∧
    (s.attbusy = true → exec .attestationReportDone s = .next { s with
      hostMem := s.hostMem.writeN s.attaddr.toNat (reportBody s ++ leBytes 384 (Config.signature (reportBody s)).toNat)
      attdone := 1, attbusy := false }) ∧
    exec (.registerWrite 0x2008 v) s = .next { s with ctxdesc := v } ∧
    exec (.registerWrite 0x2058 v) s = .next { s with pgiarg := v } ∧
    exec (.registerWrite 0x2020 v) s = .next { s with qsel := BitVec.ofNat 64 (v.toNat % 2 ^ 22) } ∧
    exec (.registerWrite 0x2050 v) s = .next { s with pgiaddr := BitVec.ofNat 64 (v.toNat % 2 ^ 60) } ∧
    exec (.registerWrite 0x2070 v) s = exec (.devidWrite v) s ∧
    exec (.registerWrite 0x80010 v) s = .next (mapCtx s 0 (fun x => { x with evcons := v.truncate 32 })) ∧
    exec (.devidWrite v) s = .next (if s.ctxs.any (fun p => p.2.live) then { s with dbdrop := s.dbdrop + 1 }
      else { s with devid := v.truncate 20 }) ∧
    (port < 16 → exec (.lpcfgWrite port v) s = .next (
      if (linkAt s port).claim = none ∧ (ctxAt s (v.toNat % 4096)).portMask.getLsbD port = true then
        mapLink s port (fun l => { l with peer := v.extractLsb' 32 20, v := v.getLsbD 12, ctx := v.truncate 12 })
      else { s with dbdrop := s.dbdrop + 1 })) ∧
    (∀ stack profile i m, stack < 16 → 1 ≤ profile → profile < 8 → i < 6 → v.toNat % 2 ^ 36 = m → m % 2 ^ 13 = 2 ^ (7 + i) →
      s.ctxs.any (fun p => p.2.live && p.2.profMask.getLsbD profile) = false →
      exec (.profileMaskWrite stack profile i v) s =
        .next { s with profmask := tabPut s.profmask (48 * stack + 6 * profile + i) (BitVec.ofNat 36 m) }) ∧
    (∀ stack i, exec (.profileMaskWrite stack 0 i v) s = .next { s with dbdrop := s.dbdrop + 1 })

/-! ## Contexts and queues (05_context, 06_queue) -/

/-- R113-R119, R126-R128, R425: the commands of contexts from the states that allow them, and status 1 from the others,
a suspend walking to the last byte of its area, which must translate, and then saving its kernels and writing the area
before it ends; the doorbell moves QTAIL within its window; QCTL turns a queue on, off, and resets it, after which the
packets that still run count no more. It rests on the model's log entries 8, 39, 40, 62, 63 and 82. -/
def Obligations.ContextsAndDoorbells : Prop :=
  ∀ (s : State) (n : Nat), s.ctxpend = none →
    let x := ctxAt s n
    let done (t : State) (status off : Nat) : State := { t with ctxstat := BitVec.ofNat 64 (16 * status + 65536 * off) }
    let refused : State := done s 1 0
    (let d := s.hostMem.readN s.ctxdesc.toNat 256
     let table := (List.range (min (at_ d 0x16 2) 1024)).map (fun i => s.hostMem.readN (at_ d 0x18 8 + 64 * i) 64)
     (x.st ≠ .free → exec (.ctxCreate n) s = .next refused) ∧
     (x.st = .free → ∀ off st, lowest (descBad d table) = some (off, st) → exec (.ctxCreate n) s = .next (done s st off)) ∧
     (x.st = .free → lowest (descBad d table) = none → ∃ t, exec (.ctxCreate n) s = .next t ∧ t.ctxstat = 0 ∧
      (ctxAt t n).st = .idle ∧ (ctxAt t n).root = at_ d 0 8 ∧ (ctxAt t n).queues.length = table.length ∧
      t.kernels = s.kernels)) ∧
    (x.st ≠ .idle → x.st ≠ .active → exec (.ctxSuspend n) s = .next refused) ∧
    -- the walk of the last byte of the save area begins; its end decides
    (x.st = .idle ∨ x.st = .active →
      let busy : State := { s with ctxpend := some n, ctxstat := 1, savePos := 0 }
      exec (.ctxSuspend n) s = .next (startWalk (.probe n) n (x.saveBase + saveBytes x - 1) .write busy)) ∧
    (∀ (u : State) (a : Nat) (acc : Acc), ∃ f, (startWalk (.probe n) n a acc u).fetches = u.fetches ++ [f] ∧
      f.own = .probe n ∧
      (f.fault = none ↔ ∃ pg, xlate (startWalk (.probe n) n a acc u) n a acc = .ok pg) ∧
        (startWalk (.probe n) n a acc u).ctxpend = u.ctxpend) ∧
    (∀ (u : State) (f : Fetch), u.ctxpend = some n → probeOf u n = some f →
      (allServed u f.ids = false → exec (.ctxSuspend n) u = .next u) ∧
      (allServed u f.ids = true → ∃ t, exec (.ctxSuspend n) u = .next t ∧ probeOf t n = none ∧ t.ctxs = u.ctxs ∧
        t.cores = u.cores ∧
        (f.fault = none → t.ctxpend = some n ∧
          ∀ p ∈ t.kernels, p.2.ctx = n → p.2.st = .loading ∨ p.2.st = .running → p.2.preempt = true ∧ p.2.inSave = true) ∧
        (f.fault ≠ none → t.ctxpend = none ∧ t.ctxstat = 0x380020 ∧ t.kernels = u.kernels))) ∧
    (∀ u : State, u.ctxpend = some n → probeOf u n = none → (ctxAt u n).live = true →
      (∀ p ∈ u.kernels, p.2.ctx = n → p.2.st.holds = false) → launchComing u n = false →
      (partWriting u n = true → exec (.ctxSuspend n) u = .next u) ∧
      (partWriting u n = false → u.savePos < saveChunks u n → exec (.ctxSuspend n) u = .next (saveStep u n)) ∧
      (partWriting u n = false →
       saveChunks u n ≤ u.savePos → ∃ t, exec (.ctxSuspend n) u = .next t ∧ (ctxAt t n).st = .suspended ∧ t.ctxstat = 0 ∧
        t.ctxpend = none ∧ t.cores = u.cores ∧ t.hbm = u.hbm)) ∧
    (x.st ≠ .suspended → exec (.ctxResume n) s = .next refused) ∧
    (x.st = .suspended → ∃ t, exec (.ctxResume n) s = .next t ∧ t.ctxstat = 0 ∧ (ctxAt t n).st =
      (if s.kernels.any (fun p => p.2.ctx == n && p.2.st.alive) then .active else .idle) ∧ t.kernels = s.kernels) ∧
    (x.live = false → exec (.ctxKill n) s = .next refused) ∧
    (x.live = true → ∃ t, exec (.ctxKill n) s = .next t ∧ t.ctxstat = 0 ∧ (ctxAt t n).st = .killed) ∧
    (x.st = .killed ∨ x.st = .idle → ∃ t, exec (.ctxDestroy n) s = .next t ∧ t.ctxstat = 0 ∧ (ctxAt t n).st = .free ∧
      (∀ q ∈ (ctxAt t n).queues, q.st = .off) ∧ ∀ m, m ≠ n → ctxAt t m = ctxAt s m) ∧
    (x.st ≠ .killed → x.st ≠ .idle → exec (.ctxDestroy n) s = .next refused) ∧
    (∀ (i : Nat) (v : W64) (q : Queue), n < 4096 → i < 1024 → s.listed = true → x.live = true → x.queues[i]? = some q →
      q.device = false →
      let step := (v.toNat + 2 ^ 32 - q.qtail % 2 ^ 32) % 2 ^ 32
      let room := (q.qcons + 2 ^ q.lg + 2 ^ 48 - q.qtail) % 2 ^ 48
      let off := 0x1000000 + 4096 * n + 4 * i
      (room < step → exec (.doorbellWrite off v) s = .next { s with dbdrop := s.dbdrop + 1 }) ∧
      (step ≤ room → ∃ t, exec (.doorbellWrite off v) s = .next t ∧
        (queueAt t n i).qtail = (q.qtail + step) % 2 ^ 48 ∧ (queueAt t n i).qcons = q.qcons ∧
        (q.st = .idle → x.st ≠ .suspended → (q.qtail + step) % 2 ^ 48 ≠ q.qcons → (queueAt t n i).st = .ready))) ∧
    (∀ (q : Queue) (base : Nat), selCtx s = n → x.st ≠ .free → x.queues[selQueue s]? = some q →
      (q.st = .off → q.qtail = q.qcons →
        exec .queueEnable s = .next (mapQueue s n (selQueue s) (fun q => { q with st := .idle, poll := .idle }))) ∧
      (q.st = .off → q.qtail ≠ q.qcons → x.st ≠ .suspended →
        exec .queueEnable s = .next (mapQueue s n (selQueue s) (fun q => { q with st := .ready, poll := .idle }))) ∧
      -- what has been read of the head packet is given up
      let fresh : State := { s with fetches := s.fetches.filter (fun f => f.own != .head n (selQueue s)) }
      exec .queueDisable s = .next (mapQueue fresh n (selQueue s) (fun q => { q with st := .off, claims := false, poll := .idle })) ∧
      (q.st = .off ∨ q.st = .halted → exec (.queueReset base) s = .next (mapQueue fresh n (selQueue s) (fun q =>
        { q with
          st := .off, qtail := base % 2 ^ 48, qcons := base % 2 ^ 48, qcomp := base % 2 ^ 48, comps := [], poll := .idle
          packets := q.packets.map (fun p => { p with old := true }) }))))

/-- R125, R128-R134, R139, R143, R147, R416, R417: the scheduler consumes the head packet of its choice, once all that
it names can be read; each kind of packet does its work and finishes, or finishes with FAULT: SIGNAL, COPY and QUERY
send their accesses as requests, a COPY its writes when its reads have been served, and they end when their requests
have been served. The record of the packet that has finished first is sent to its slot; once it is there, CPROD and
QCOMP advance. It rests on the model's log entries 22, 38, 41, 42, 43, 63, 65, 73, 77, 78, 82 and 87. -/
def Obligations.Packets : Prop :=
  ∀ (s : State) (n q : Nat),
    let u := queueAt s n q
    let x := ctxAt s n
    let ended (t : State) (p : Packet) (st : Nat) (a b : W64) : State := finishPacket t n q p.id st a b
    let begun (p : Packet) : State := begin_ s n q p.id
    let va (p : Packet) (o : Nat) : Nat := at_ p.body o 8 % 2 ^ 60
    (∀ p, nextPacket s n q 0 = some p → exec (.packetNop n q) s = .next (ended (begun p) p 0 0 0)) ∧
    (∀ p, nextPacket s n q 5 = some p → exec (.mode n q) s =
      .next (ended (mapQueue (begun p) n q (fun u => { u with level := at_ p.body 8 1 })) p 0 0 0)) ∧
    -- the walk of a stretch begins, with its reads, whose numbers what follows keeps
    let walks (p : Packet) (va n_ : Nat) (t : State) : State × List Nat := sendWalks (.queue n q) n (some p.id) va n_ t
    (∀ p, nextPacket s n q 3 = some p → hostWriting s = false →
      let w := walks p (va p 8) 8 (begun p)
      (∀ pg, xlate w.1 n (va p 8) .write = .ok pg → exec (.signal n q) s = .next (packetSent n q p (sendReqAfter w.1 (.queue n q) n
        (some p.id) (pg.place (va p 8)) (va p 8)
        (.red (if bit1 (at_ p.body 0x18 1) 0 then 8 else 0) 1 (BitVec.ofNat 64 (at_ p.body 0x10 8))) none pg.lg w.2))) ∧
      (∀ r, xlate w.1 n (va p 8) .write = .error r → exec (.signal n q) s = .next (packetFault n q p (va p 8) w.1))) ∧
    (∀ p, nextPacket s n q 4 = some p → exec (.wait n q) s = .next (ended (begun p) p 0 0 0)) ∧
    (∀ p, nextPacket s n q 2 = some p → copyRead s n q = none →
      let len := at_ p.body 0x18 8
      len ≤ 2 ^ 40 →
      let w := walks p (va p 8) len (begun p)
      let w2 := walks p (va p 0x10) len w.1
      let u := w2.1
      let from_ := accessFault u n (va p 8) len .read
      let dst := accessFault u n (va p 0x10) len .write
      (from_ = none → dst = none → ∃ t, exec (.copy n q) s = .next t ∧ t.hbm = u.hbm ∧
        -- a request reads each byte, for its place among those that the packet copies
        ∀ i, i < len → let a := (va p 8 + i) % 2 ^ 60
          ∃ pg, xlate u n a .read = .ok pg ∧ ∃ r ∈ t.reqs, r.src = .queue n q ∧ r.xfer = some p.id ∧ r.after = w.2 ++ w2.2 ∧
            sameLine r.place (pg.place a) = true ∧ ∃ y, r.op = .read [y] ∧ y.off ≤ a % 64 ∧ a % 64 < y.off + y.n ∧
              ∃ o, y.dst = .bytes o ∧ i = o + (a % 64 - y.off)) ∧
      (∀ a, (from_ = some a ∧ ∀ b, dst = some b → a ≤ b) ∨ (dst = some a ∧ ∀ b, from_ = some b → a ≤ b) →
        exec (.copy n q) s = .next (packetFault n q p a u))) ∧
    (∀ p, copyRead s n q = some p → exec (.copy n q) s = .next (packetSent n q p (sendBytes (.queue n q) n (some p.id) p.pages
      (va p 0x10) (copyBytes p).1 (copyBytes p).2 [] s).1)) ∧
    (∀ p, nextPacket s n q 7 = some p →
      let bs := queryBytes x (at_ p.body 8 8)
      let w := walks p (va p 0x10) bs.length (begun p)
      let dst := accessFault w.1 n (va p 0x10) bs.length .write
      (dst = none → exec (.query n q) s = .next (packetSent n q p (sendBytes (.queue n q) n (some p.id)
        (pagesOver w.1 n (va p 0x10) bs.length .write) (va p 0x10) bs [] w.2 w.1).1)) ∧
      (∀ a, dst = some a → exec (.query n q) s = .next (packetFault n q p a w.1))) ∧
    -- a packet that has sent requests ends, with OK or with FAULT, when the last of them has been served
    (∀ (t : State) (p : Packet) (a : Nat),
      let waits : Prop := t.reqs.any (Req.ofPacket n q p.id) = true
      let later (f : Nat × W64 × W64) : State :=
        mapPacket t n q p.id (fun k => { k with ends := some f, land := [], pages := [] })
      (waits → packetSent n q p t = later (0, 0, 0) ∧ packetFault n q p a t = later (5, BitVec.ofNat 64 a, 0)) ∧
      (¬waits → packetSent n q p t = ended t p 0 0 0 ∧ packetFault n q p a t = ended t p 5 (BitVec.ofNat 64 a) 0)) ∧
    (∀ (t : State) (p : Packet) (r : Req) f, r.src = .queue n q → r.xfer = some p.id → p.ends = some f →
      (queueAt t n q).packets.find? (fun k => k.id == p.id) = some p →
      closePacket r t = if t.reqs.any (Req.ofPacket n q p.id) then t else ended t p f.1 f.2.1 f.2.2) ∧
    (∀ p lr bays, nextPacket s n q 1 = some p → p.record = some lr →
      neverFits s n (at_ p.body 0x18 2) (at_ p.body 0x1A 2) lr = false →
      bayChoice s n (at_ p.body 0x18 2) (at_ p.body 0x1A 2) u.claims lr = some bays → ∃ t,
        exec (.launch n q bays) s = .next t ∧ (kernelAt t s.nextK).st = .loading ∧ (kernelAt t s.nextK).bays = bays ∧
        (kernelAt t s.nextK).lr = lr ∧ (kernelAt t s.nextK).ctx = n ∧ (kernelAt t s.nextK).pk = p.id ∧
        (kernelAt t s.nextK).preempt = (s.ctxpend == some n && (probeOf s n).isNone) ∧
        (x.st = .idle → (ctxAt t n).st = .active) ∧ t.cores = s.cores) ∧
    (∀ p, nextPacket s n q 6 = some p →
      let d := p.body.drop 64
      ∃ c, exec (.checkpoint n q) s = .next { begun p with ckpt := some c } ∧ c.ctx = n ∧ c.queue = q ∧ c.pk = p.id ∧
        c.held = [] ∧ c.dead = false ∧ c.links = BitVec.ofNat 16 (at_ d 0 2) ∧ c.parts = BitVec.ofNat 8 (at_ d 2 1) ∧
        ∀ i, i < 16 → c.dest.getD i 0 = BitVec.ofNat 64 (at_ d (8 + 8 * i) 8)) ∧
    (∀ c r, s.ckpt = some c → allStill s = true ∧ slicesFlow s c = true ∨ c.dead = true → ∃ t,
      exec (.checkpointComplete r) s = .next t ∧ t.ckpt = none ∧
      (r = none → c.dead = false → ∀ i, i < 16 → c.links.getLsbD i = true → ∃ v,
        (linkAt t (16 + i)).slice = some v ∧ v.dest = c.dest.getD i 0 ∧
        v.len = (if c.parts.getLsbD 0 then 2 ^ 36 else 0) + (if c.parts.getLsbD 1 then 2 ^ 27 else 0) +
          (if c.parts.getLsbD 2 then 2 ^ 26 else 0))) ∧
    -- a head packet is read first, with all that it names, and its queue is BLOCKED meanwhile
    (unbegun s = false → hostWriting s = false →
      let blocked : State := mapQueue s n q (fun u => { u with st := .blocked })
      (u.st = .blocked → (served s).any (fun t => t.1 == n && t.2.1 == q) = true →
        (headRead s n q = false ∨ slotAgain s n q = true → exec (.queueArbitrate n q) s = .next (readHead s n q)) ∧
        (headRead s n q = true → slotAgain s n q = false → exec (.queueArbitrate n q) s =
          .next (if clears s n q u then mapQueue s n q (fun u => { u with st := .ready }) else askBays s n q))) ∧
      (u.st = .ready → (schedule s).map (fun t => (t.1, t.2.1)) = some (n, q) →
        (headRead s n q = false → exec (.queueArbitrate n q) s = .next (readHead blocked n q)) ∧
        (∀ p, headRead s n q = true → headPacket s n q = some p → ringFull s u = false →
          let take (d : List Byte) (fin : Option (Nat × W64 × W64)) (halt : Bool) : Prop :=
            exec (.queueArbitrate n q) s = .next (takeHead (serve s n q) n q p d fin halt)
          (∀ st a, malformed s n q u p = some (st, a) → take [] (some (st, BitVec.ofNat 64 a, 0)) true) ∧
          (malformed s n q u p = none → acceptable s n q u p = false →
            exec (.queueArbitrate n q) s = .next (askBays blocked n q)) ∧
          (malformed s n q u p = none → acceptable s n q u p = true →
            (pkKind p ≠ 1 → pkKind p ≠ 4 → pkKind p ≠ 6 → take [] none false) ∧
            (pkKind p = 1 → ∀ lr, readLaunch s (.head n q) n (at_ p 8 8) (at_ p 0x1A 2) = .good lr →
              ∃ d, fetchBytes s (.head n q) n (at_ p 8 8) 256 = some d ∧ take d none false) ∧
            (pkKind p = 4 → let a := at_ p 8 8 % 2 ^ 60
              (∀ pg, xlate s n a .read = .ok pg → take [] none false) ∧
              ∀ r, xlate s n a .read = .error r → take [] (some (5, BitVec.ofNat 64 a, 0)) false) ∧
            (pkKind p = 6 → ∀ f, fetchOf s (.head n q) n (at_ p 8 8) 256 = some f →
              let d := (sortBrought f.land).flatMap Brought.bytes
              (∀ a, f.failed = some a → take [] (some (5, BitVec.ofNat 64 a, 0)) false) ∧
              (f.failed = none → take d ((least (ckptBad s x d)).map (fun o => (4, BitVec.ofNat 64 o, 0))) false)))))) ∧
    -- a WAIT is acceptable once its token has been read at or above its threshold
    (∀ (t : Queue) (p : List Byte) v, xlate s n (at_ p 8 8 % 2 ^ 60) .read = .ok v →
      (waitMet s n t p = true ↔ ∃ k, t.poll = .got k ∧ at_ p 0x10 8 ≤ k)) ∧
    (∀ p f, donePacket s n q = some (p, f) → p.recorded = false → ringFull s u = false →
      (noPlane s = true → exec (.packetComplete n q) s = .next (recordDone n q p (putRecord n q p f s))) ∧
      (noPlane s = false → exec (.packetComplete n q) s = .next (sendRecord n q p f s) ∧
        let w := walks p (recordSlot u) 32 s
        ∀ pg, xlate w.1 n (recordSlot u) .write = .ok pg →
        ∃ r ∈ (sendRecord n q p f s).reqs, r.src = .queue n q ∧ r.xfer = some p.id ∧ r.place = pg.place (recordSlot u) ∧
          r.after = w.2 ∧
          r.op = .write ((leBytes 6 p.seq ++ leBytes 1 p.kind ++ leBytes 1 f.1 ++ leBytes 8 p.user.toNat ++
            leBytes 8 f.2.1.toNat ++ leBytes 8 f.2.2.toNat).map some) [])) ∧
    (∀ p f, donePacket s n q = some (p, f) → p.recorded = true → noPlane s = false →
      s.reqs.any (Req.ofPacket n q p.id) = true →
      exec (.packetComplete n q) s = .next s) ∧
    (∀ p f, donePacket s n q = some (p, f) → p.recorded = true → noPlane s = false →
      s.reqs.any (Req.ofPacket n q p.id) = false →
      q < x.queues.length → ∃ t,
      exec (.packetComplete n q) s = .next t ∧ (queueAt t n q).cprod = u.cprod + 1 ∧
      (queueAt t n q).packets = u.packets.filter (fun k => k.id != p.id) ∧
      -- the number of a packet that a reset has found running counts no more
      (p.old = true → (queueAt t n q).qcomp = u.qcomp) ∧
      (p.old = false → p.seq = u.qcomp → u.comps = [] → (queueAt t n q).qcomp = (u.qcomp + 1) % 2 ^ 48) ∧
        t.kernels = s.kernels)

/-! ## Requests at their homes (14_tensor, 17_barrier, 19_plane, 22_link) -/

/-- R17, R53-R55, R137, R294, R295, R299, R300, R324, R336, R340, R355, R368, R370, R372, R399, R417: a request that
nothing keeps reaches its home and is served there or, held by a phase, is accepted into its store buffer, a phase's
token waits there for the others; a retired frame refuses it (R355), and a far device answers, poisons or refuses it
(R399). Service writes the bytes of a write, and no other byte of any home, brings the bytes of a read, and makes of a
word what R294's operation makes of it, of a window's cell what R54 does, CREAD rounding its value (R55); a register
takes its write; its acknowledgement is received; what finds its core away, or cannot go on in a rehash, goes back to
its source; addends merge in a plane's unit, whose partial leaves after 64 clk, or for a PFENCE that waits for it;
arrivals and sectors, whose bytes are at their homes, update their barrier; the host's accesses, of any length, enter at
its port line by line, and its reads return with their last line; a checkpoint holds its writes (R417). It rests on the
model's log entries 18, 48, 61, 79 and 92. -/
def Obligations.RequestsAndHomes : Prop :=
  ∀ (s : State) (id : Nat) (r : Req) (far : FarResp),
    let on : Prop := reqOf s id = some r ∧ ready s r = true ∧ r.lost = false ∧ drainsBack s r = false
    let alone : Prop := (∀ p ∈ s.partials, sameL p.place r.place = false) ∧ ∀ q ∈ s.reqs, partFor r.place q = false
    (on → r.toUnit = false → r.isArrival = false → r.op.isToken = false → awayHome s r.ctx r.place = false →
      -- a packet whose slot another one has taken goes on to the next
      (∀ va p, r.ph = none → slotMoved s r = some (va, p) → ∃ t q, exec (.homeRequest id far) s = .next t ∧ q ∈ t.reqs ∧
        q.id = id ∧
        q.op = r.op ∧ q.place = p.place va ∧ q.va = va ∧ q.waiting = true) ∧
      (r.ph = none → slotMoved s r = none → ringRoom s r = true → wayOpen s r = true → r.isPart = true ∨ alone →
        (isFar r.place = false → isRetired s r.place = false →
          exec (.homeRequest id far) s = .next (settle r false (homeServe r s))) ∧
        (isFar r.place = false → isRetired s r.place = true →
          exec (.homeRequest id far) s = .next (settle r true (refuse r s))) ∧
        (isFar r.place = true →
          (∀ data, far = .ok data → exec (.homeRequest id far) s = .next (settle r false (farServe r data false s))) ∧
          (∀ data, far = .poison data → exec (.homeRequest id far) s = .next (settle r false (farServe r data true s))) ∧
          (far = .refused → exec (.homeRequest id far) s = .next (settle r true (refuse r s))))) ∧
      (∀ kg, r.ph = some kg → alone →
        let u := answer r [] s
        let taken : State := { u with reqs := u.reqs.map (fun q =>
          if q.id = id then { q with st := .held, via := q.st.onPlane } else q) }
        (isRetired s r.place = false → exec (.homeRequest id far) s = .next taken) ∧
        (isRetired s r.place = true → exec (.homeRequest id far) s =
          .next (cancelPhase taken kg.1 kg.2 true (r.core?.map (fun n => (n, r.va, 1))))))) ∧
    -- what service does where the line holds no error, for a source with nothing held
    (let p := r.place
     let l := (homeServe r s).1
     let t := (homeServe r s).2
     let word (n : Nat) : Nat := leNat (placeRead s p n)
     let calm (n : Nat) : Prop := clean s p ∧ p.addr % n = 0 ∧ ∀ q ∈ s.reqs, q.src = r.src → q.st ≠ .held
     (∀ bs bad, r.op = .write bs bad → clean s p → l = [] ∧ wroteAt s t p bs) ∧
     (∀ v : W64, r.op = .write ((leBytes 8 v.toNat).map some) [] → p.home = .mmio →
       homeServe r s = ([], regWrite p.addr v s)) ∧
     (∀ ps, r.op = .read ps → calm 1 → (∀ q ∈ ps, q.off + q.n ≤ 64) → homesKept s t ∧ l = ps.map (fun q =>
       ⟨q.seq, q.dst, ((placeRead s { p with addr := p.addr / 64 * 64 } 64).drop q.off).take q.n, false⟩)) ∧
     (∀ op sz v v2, op ≤ 9 → sz ≤ 1 → calm (4 * 2 ^ sz) →
       let n := 4 * 2 ^ sz
       let new : Nat := if sz = 1 then (atomWord op (BitVec.ofNat 64 (word 8)) v v2).toNat
         else (atomWord op (BitVec.ofNat 32 (word 4)) (v.truncate 32) (v2.truncate 32)).toNat
       (∀ dst, r.op = .atom op sz v v2 dst →
         l = [⟨0, .bytes dst, leBytes 8 (word n), false⟩] ∧ wroteAt s t p ((leBytes n new).map some)) ∧
       (op ≤ 8 → r.op = .red op sz v → l = [] ∧ wroteAt s t p ((leBytes n new).map some))) ∧
     (∀ sz v, sz ≤ 1 → r.op = .red 11 sz v → calm (4 * 2 ^ sz) →
       let n := 4 * 2 ^ sz
       let f : FFmt := if sz = 1 then .f64 else .f32
       l = [] ∧ wroteAt s t p ((leBytes n (fAdd f .rne (.ofBits f (word n)) (.ofBits f (v.toNat % 2 ^ (8 * n))))).map some)) ∧
     (∀ fmt x dst, r.op = .cread fmt x dst → calm 32 →
       let c := BitVec.ofNat 256 (word 32)
       let st := (c.extractLsb' 208 8).toNat
       let f : FFmt := if fmt = 9 then .f64 else .f32
       let value : Nat := if st = 0 then roundInt f .rne (c.extractLsb' 0 192).toInt x.toInt
         else if 3 ≤ st then (if fmt = 9 then 0x7FF8000000000000 else 0x7FC00000)
         else if fmt = 9 then (if st = 1 then 0x7FF0000000000000 else 0xFFF0000000000000)
         else (if st = 1 then 0x7F800000 else 0xFF800000)
       homesKept s t ∧ l = [⟨0, .bytes dst, leBytes 8 value, false⟩]) ∧
     (∀ fmt x wide v, r.op = .cell fmt x wide v → calm 32 → l = [] ∧ ∃ c' : BitVec 256,
       wroteAt s t p ((leBytes 32 c'.toNat).map some) ∧ cellTakes fmt x (BitVec.ofNat 256 (word 32)) c'
         (if wide then .ofBits .f64 v.toNat else .ofBits .f32 (v.toNat % 2 ^ 32)))) ∧
    (on → r.op.isToken = true → awayHome s r.ctx r.place = false →
      exec (.homeRequest id far) s = .next (setReqSt s id .held)) ∧
    (reqOf s id = some r → r.st = .echo ∨ r.lost = true → s.rehash = false →
      (∀ m, routeOf s r.src r.place = some m → planeSt s m = .up) →
      exec (.homeRequest id far) s = .next { s with reqs := s.reqs.map (fun q => if q.id = id then
        { q with st := if q.st = .held then .held else .applied, via := routeOf s r.src r.place, lost := false } else q) }) ∧
    -- back to its source goes what finds its core away, and, in a rehash, what cannot go on; a partial as its addends
    (on → r.toUnit = false → awayHome s r.ctx r.place = true → r.isArrival = false →
      exec (.homeRequest id far) s = .next (sentBack r s)) ∧
    (reqOf s id = some r → r.st ≠ .echo → r.lost = false → drainsBack s r = true →
      exec (.homeRequest id far) s = .next (sentBack r s)) ∧
    (reqOf s id = some r → (r.isPart = false → sentBack r s = setReqSt s id .source) ∧
      ∀ fmt x v ids, r.op = .part fmt x v ids →
        sentBack r s = ids.foldl (fun t i => setReqSt t i .source) { s with reqs := s.reqs.filter (fun q => q.id != id) }) ∧
    (∀ c, on → r.isArrival = true → r.place.home = .scratch c → awayHome s r.ctx r.place = false → alone →
      exec (.remoteArrival id) s = .next (settle r false ([], barUpdate s c r.place.addr Bar.arrive))) ∧
    (reqOf s id = some r → r.op.isToken = false →
      (r.st = .applied → r.ph = none → exec (.homeAck id) s = .next { s with reqs := s.reqs.filter (fun q => q.id != id) }) ∧
      (r.st = .held → exec (.homeAck id) s =
        .next { s with reqs := s.reqs.map (fun q => if q.id = id then { q with via := none } else q) }) ∧
      (r.st ≠ .held → r.st ≠ .applied ∨ r.ph ≠ none → exec (.homeAck id) s = .next s)) ∧
    (∀ fmt x wide v p, reqOf s id = some r → r.op = .cell fmt x wide v → r.st = .plane (some p) → r.ph = none →
      inTheWay s r = false → (∀ q ∈ s.partials, ¬(q.plane = p ∧ samePlace q.place r.place = true)) →
      exec (.reductionAddend id) s = .next (setReqSt { s with partials := s.partials ++
        [(Partial.fresh p r fmt x).add id (addendOf wide v)] } id (.merged p))) ∧
    (∀ fmt x wide v p before q after, reqOf s id = some r → r.op = .cell fmt x wide v → r.st = .plane (some p) →
      r.ph = none →
      inTheWay s r = false → s.partials = before ++ q :: after → q.plane = p → samePlace q.place r.place = true →
      (∀ u ∈ before ++ after, ¬(u.plane = p ∧ samePlace u.place r.place = true)) → q.ids.length < 255 →
      exec (.reductionAddend id) s = .next (setReqSt { s with partials := before ++ after ++ [q.add id (addendOf wide v)] } id
        (.merged p))) ∧
    (∀ p, s.partials = [p] → 64 ≤ p.age ∨ fencedFor s p = true →
      exec (.reductionPartialTimeout p.plane p.place.fa) s = .next { s with
        partials := [], nextId := s.nextId + 1, reqs := s.reqs ++ [p.req s.nextId (.plane (some p.plane)) s.devid] }) ∧
    (∀ d n ids c a, s.deliveries = [d] → d.sectors = [(n, ids)] → d.bar = some (c, a) →
      (∀ q ∈ s.reqs, q.id ∈ ids → q.waiting = false) → awayHome s d.ctx ⟨.scratch c, a, 0⟩ = false →
      exec (.sectorDelivery d.id n) s = .next (barUpdate { s with deliveries := [] } c a Bar.sector)) ∧
    (∀ off bs, bs ≠ [] → off + bs.length ≤ 2 ^ s.bar2log → s.bar2log ≤ 40 →
      let pa (i : Nat) : Nat := (s.apbase.toNat * 2 ^ 30 + off + i) % 2 ^ 40
      (s.ckpt = none → ∃ t, exec (.bar2Access off (.write bs)) s = .next t ∧ t.hbm = s.hbm ∧
        ∀ i v, bs[i]? = some v → ∃ q ∈ t.reqs, s.nextId ≤ q.id ∧ q.src = .host ∧ q.place.home = .stack (pa i / 2 ^ 36) ∧
          ∃ ws j, q.op = .write ws [] ∧ q.place.addr + j = pa i ∧ ws[j]? = some (some v)) ∧
      (∀ c, s.ckpt = some c → exec (.bar2Access off (.write bs)) s =
        .next { s with ckpt := some { c with held := c.held ++ [(off, bs)] } }) ∧
      (∃ t ids, exec (.bar2Access off (.read bs.length)) s = .next t ∧ t.barReads = s.barReads ++ [⟨off, ids, []⟩] ∧
        ∀ i, i < bs.length → ∃ q ∈ t.reqs, q.id ∈ ids ∧ q.src = .host ∧ q.place.home = .stack (pa i / 2 ^ 36) ∧
          ∃ y o, q.op = .read [y] ∧ y.off ≤ pa i % 64 ∧ pa i % 64 < y.off + y.n ∧ y.dst = .bytes o ∧
            q.place.addr / 64 = pa i / 64 ∧ i = o + (pa i % 64 - y.off))) ∧
    -- the last of them to be served returns the bytes
    (∀ (b : BarRead) (l : List Brought), s.barReads = [b] → b.left = [id] →
      (barAnswer id l s).barReads = [] ∧ (barAnswer id l s).barResp = some (b.off, (sortBrought (b.land ++ l)).flatMap Brought.bytes,
        (sortBrought (b.land ++ l)).any Brought.poison))

/-! ## Planes and pages (18_page, 19_plane) -/

/-- R353, R357, R358, R362, R367, R373-R375, R378: each fault takes an UP plane into QUIESCE, and the last one to DEAD;
a drained rehash leaves no bucket on a lost plane; the page commands invalidate and migrate, or are dropped. A migration
pulls its lowest missing line: the line's bytes at the old frame stand at the new one, with its poison, the line is
present there, and no other byte and no other line changes. It rests on the model's log entries 28, 29 and 91. -/
def Obligations.PlanesAndPages : Prop :=
  ∀ (s : State) (n : Nat) (v : W64),
    let others : Prop := upPlanes s ≠ [n]
    -- the next state of an event, which holds a property
    let goes (i : Instr) (what : State → Prop) : Prop := ∃ t, exec i s = .next t ∧ what t
    let each (what : Nat → State → Prop) : Prop := goes (.flitRetryExhausted n) (what 1) ∧
      (planeHolds s n = true → goes (.planeAckTimeout n) (what 2)) ∧ goes (.planeBufferError n) (what 3) ∧
      goes (.planeIslandFault n) (what 4)
    let lost (detail : Nat) (t : State) : Prop := planeSt t n = .quiesce ∧ t.rehash = true ∧ n ∈ t.rehashed ∧
      tabGet 0 t.plDetail n = detail ∧ (∀ m, m ≠ n → planeSt t m = planeSt s m) ∧ (∀ p ∈ t.partials, p.plane ≠ n) ∧
      planeHolds t n = false ∧ t.pmap = s.pmap
    (n < 8 → planeSt s n = .up → others → each lost) ∧
    (n < 8 → planeSt s n = .up → upPlanes s = [n] →
      each (fun detail t => planeSt t n = .dead ∧ t.bootstat = 4 ∧ tabGet 0 t.plDetail n = detail)) ∧
    (planeSt s n ≠ .up → each (fun _ t => t = s)) ∧
    (planeHolds s n = false → exec (.planeAckTimeout n) s = .next s) ∧
    (v.toNat / 2 ^ 12 % 16 = 1 → v.toNat % 8 = n → planeSt s n = .up → others → goes (.plcmdRetire v) (lost 5)) ∧
    (v.toNat / 2 ^ 12 % 16 ≠ 1 ∨ v.toNat % 8 = n ∧ upPlanes s = [n] →
      exec (.plcmdRetire v) s = .next { s with dbdrop := s.dbdrop + 1 }) ∧
    (s.rehash = true → drained s = true → ∃ t, exec .rehashDrained s = .next t ∧ t.rehash = false ∧ t.rehashed = [] ∧
      t.rehashes = s.rehashes + 1 ∧ (∀ m ∈ s.rehashed, planeSt t m = .dead) ∧
      (upPlanes s ≠ [] → (∀ m ∈ s.rehashed, planeSt s m ≠ .up) → ∀ b, b < 8 → pmapAt t.pmap b ∉ s.rehashed)) ∧
    (let va := s.pgiaddr.toNat % 2 ^ 60
      let leaf := s.pgiarg.toNat
      let drop (t : State) : State := { t with dbdrop := t.dbdrop + 1, pgicmd := none }
      let wrong : Prop := migInside s n va = true ∨ migFault s n va leaf ≠ none
      -- the command is written, or is under way
      let mine (op : Nat) : Prop := s.pgicmd = none ∨ s.pgicmd = some (op, n)
      (mine 1 → captured s n va leaf = false → exec (.pgicmdInvalidate n) s = .next { invalidate s n va leaf with pgicmd := none }) ∧
      (mine 1 → captured s n va leaf = true → exec (.pgicmdInvalidate n) s = .next { s with pgicmd := some (1, n) }) ∧
      -- the command is done, and its walk with it
      let ends (t : State) : State := { t with fetches := t.fetches.filter (fun f => f.own != .page), pgicmd := none }
      let both (what : Nat → Bool → State) : Prop := (mine 2 → exec (.pgicmdMigrate n) s = .next (what 2 false)) ∧
        (mine 3 → exec (.pgicmdMigrateRetire n) s = .next (what 3 true))
      (migIllop s n va leaf = true → both (fun _ _ => ends (drop s))) ∧
      (migIllop s n va leaf = false →
        (fetchOf s .page n va 0 = none → both (fun op _ => { startWalk .page n va .read s with pgicmd := some (op, n) })) ∧
        (∀ f, fetchOf s .page n va 0 = some f →
          (allServed s f.ids = false ∨ ¬wrong ∧ migWaits s n va leaf = true → both (fun _ _ => s)) ∧
          (allServed s f.ids = true → wrong → both (fun _ _ => ends (drop s))) ∧
          (allServed s f.ids = true → ¬wrong → migWaits s n va leaf = false →
            both (fun _ ret => ends (migSwitch s n va leaf ret)))))) ∧
    (∀ m line, s.migs = [m] → s.ckpt = none → line < 2 ^ (m.lg - 6) → line ∉ m.have_ → (∀ l, l < line → l ∈ m.have_) →
      m.have_.length + 1 < 2 ^ (m.lg - 6) →
      exec (.migrationPull m.va line) s = .next (pullLine s m line none) ∧
      ∃ k, (pullLine s m line none).migs = [k] ∧ line ∈ k.have_ ∧ ∀ l ∈ m.have_, l ∈ k.have_) ∧
    -- what the pull of a line leaves
    (∀ m line, s.migs = [m] →
      let a := m.oldPa + 64 * line
      let b := m.newPa + 64 * line
      let t := pullLine s m line none
      s.hbm.wf = true → a % 64 = 0 → b % 64 = 0 → (∀ i, i < 64 → migOf s (a + i) = none ∧ retiredAt s (a + i) = false) →
      (a / 64 ∉ s.hbmPoison → wrote s.hbm t.hbm b ((s.hbm.readN a 64).map some) ∧
        (∀ l, l ∈ t.hbmPoison ↔ l ∈ s.hbmPoison ∧ l ≠ b / 64) ∧
        t = { s with hbm := t.hbm, hbmPoison := t.hbmPoison, lucnt := t.lucnt, migs := t.migs } ∧
        ∃ k, t.migs = [k] ∧ k = { m with have_ := k.have_ } ∧ ∀ l, l ∈ k.have_ ↔ l = line ∨ l ∈ m.have_) ∧
      (a / 64 ∈ s.hbmPoison → (∀ x ∈ s.ctxs, x.2.live = false) → b / 64 ∈ t.hbmPoison))

/-! ## Links (22_link, 23_program_link_exchange) -/

/-- R396-R398: the states of a link and what moves it from one to another. It rests on the model's log entry 45. -/
def Obligations.LinkStates : Prop :=
  ∀ (s : State) (n lanes : Nat), n < 32 →
    let l := linkAt s n
    let width := if n < 16 then 4 else 8
    -- the link as the event leaves it; requests that wait at their sources go on when it carries them again
    let goes (i : Instr) (k : Link) : Prop := ∃ t, exec i s = .next t ∧ linkAt t n = k ∧
      (∀ m, m ≠ n → linkAt t m = linkAt s m) ∧ t.cores = s.cores ∧ t.kernels = s.kernels ∧
      ((∀ r ∈ s.reqs, r.st ≠ .source) → t.reqs = s.reqs)
    let flows : Prop := l.st = .up ∨ l.st = .degraded
    let wide (k : Link) : Link := if width ≤ lanes then { k with st := .up, lanes := width }
      else { k with st := .degraded, lanes := if 4 ≤ lanes then 4 else if 2 ≤ lanes then 2 else lanes }
    let repaired : Link := { l with st := .repair, repairs := l.repairs + 1, deferred := false }
    let down : Link := { l with st := .down, lanes := 0, tx := [], deferred := false }
    (l.st = .down → goes (.lpcmdTrain n) { l with st := .training }) ∧
    (l.st = .training → lanes ≠ 0 → goes (.trainingComplete n lanes) (wide l)) ∧
    (l.st = .repair → lanes ≠ 0 → goes (.repairComplete n lanes) (wide { l with replays := l.replays + 1 })) ∧
    (flows → goes (.lpcmdQuiesce n) { l with st := .quiesced, back := l.st, cut := s.nextId } ∧
      goes (.flitError n true) { l with st := .replay, back := l.st, deferred := false, replays := l.replays + 1 } ∧
      goes (.flitError n false) { l with st := .replay, back := l.st, deferred := false } ∧
      goes (.laneRepairTrigger n) repaired) ∧
    (l.st = .quiesced → goes (.lpcmdResume n) { l with st := l.back }) ∧
    (l.st = .replay → goes (.laneRepairTrigger n) { l with deferred := true } ∧ goes (.replayFail n) repaired ∧
      goes (.replayComplete n) (if l.deferred then repaired else { l with st := l.back })) ∧
    ((∀ p ∈ s.ctxs, p.2.live = false ∨ usesLink s n p.1 = false) →
      (l.st ≠ .down → goes (.lpcmdDisable n) down) ∧ (l.st = .training → goes (.trainingTimeout n) down) ∧
      (l.st = .repair → goes (.repairTimeout n) down)) ∧
    (∀ x, l.st ≠ .down → x ∈ s.ctxs.map Prod.fst → (∀ p ∈ s.ctxs, p.1 = x → p.2.live = true) → usesLink s n x = true →
      ∃ t, exec (.lpcmdDisable n) s = .next t ∧ (linkAt t n).st = .down ∧ (linkAt t n).tx = [] ∧ (linkAt t n).lanes = 0 ∧
        (ctxAt t x).st = .killed)

/-- R328, R360, R400-R402, R406, R407, R410: what arrives over a link that carries requests: requests served in the
port's context and requests on an exported frame, once what chains have to write is at its homes, messages into the
receive skid once every write taken earlier is, chain commands staged in what their chain has reserved and, with their
final command, written or not; an accepted message leaves the transmit skid, and a verdict reaches its chain. It rests
on the model's log entries 46, 47, 66, 74, 82 and 93. -/
def Obligations.LinkArrivals : Prop :=
  ∀ (s : State) (port : Nat), port < 16 → (linkAt s port).flows = true →
    let l := linkAt s port
    let n := l.ctx.toNat
    let dropped : State := { s with dbdrop := s.dbdrop + 1 }
    let answers (t : State) (k : Nat) (r : Resp) : State := mapLink t k (fun l => { l with resp := some r })
    let refused (t : State) : State := answers { t with dbdrop := t.dbdrop + 1 } port .error
    -- the accesses of the far device that stay in one line: operation, right, and the request that reaches the home
    (∀ addr op acc work, l.v = true → (ctxAt s n).live = true → addr < 2 ^ 40 → messageWindow addr = false →
      (∃ bs, bs ≠ [] ∧ addr % 64 + bs.length ≤ 64 ∧ op = .write bs ∧ acc = .write ∧ work = .write (bs.map some) []) ∨
      (∃ k, 0 < k ∧ addr % 64 + k ≤ 64 ∧ op = .read k ∧ acc = .read ∧ work = .read [⟨addr % 64, k, .bytes 0, 0⟩]) ∨
      (∃ o v v2, o ≤ 9 ∧ addr % 8 = 0 ∧ op = .atom o 1 v v2 ∧ acc = .atom ∧ work = .atom o 1 v v2 0) →
      chainWriting s = false →
      let w := sendWalks (.port port) n (some 0) addr ((farSize op).getD 0) s
      let u := w.1
      (∀ r, xlate u n addr acc = .error r → exec (.incomingRequest port addr op) s = .next (refused u)) ∧
      (∀ pg, xlate u n addr acc = .ok pg →
        (leafTT pg.leaf.toNat ≤ 2 → exec (.incomingRequest port addr op) s =
          .next (sendReqAfter u (.port port) n none (pg.place addr) addr work none pg.lg w.2)) ∧
        (2 < leafTT pg.leaf.toNat → exec (.incomingRequest port addr op) s = .next (refused u)))) ∧
    -- what a chain has to write comes first
    (chainWriting s = true → ∀ addr op requester entry off poison, exec (.incomingRequest port addr op) s = .next s ∧
      exec (.stackLinkRequest port requester entry off op poison) s = .next s) ∧
    (∀ addr op, chainWriting s = false → l.v = false ∨ (ctxAt s n).live = false ∨ messageWindow addr = true ∨ farServable op addr = false →
      exec (.incomingRequest port addr op) s = .next (refused s)) ∧
    (∀ requester entry off op poison, (linkAt s (16 + port)).flows = true → entry < 256 → chainWriting s = false →
      let e := tabGet 0 s.acl (256 * port + entry)
      let pa := (e.toNat / 2 ^ 80 % 2 ^ 24 * 2 ^ 16 + off) % 2 ^ 40
      (aclServes e requester off op = true → exec (.stackLinkRequest port requester entry off op poison) s =
        .next ((farWork none poison pa op).foldl (fun t w =>
          sendReq t (.link port) (e.toNat / 2 ^ 32 % 2 ^ 12) none ⟨.stack (w.1 / 2 ^ 36), w.1, 0⟩ 0 w.2 none) s)) ∧
      (aclServes e requester off op = false → exec (.stackLinkRequest port requester entry off op poison) s =
        .next (answers s (16 + port) .error))) ∧
    (∀ dev src dst sendr stamp k rows payload,
      let slots := max 1 ((payload.length + 63) / 64)
      let i : Instr := .incomingMessage port dev src dst sendr stamp k rows payload
      (l.peer.toNat ≠ dev ∨ l.v = false → exec i s = .next dropped) ∧
      (l.peer.toNat = dev → l.v = true → 64 < slotsOf l.rx + slots ∨ hostWriting s = true → exec i s = .next s) ∧
      (l.peer.toNat = dev → l.v = true → slotsOf l.rx + slots ≤ 64 → hostWriting s = false →
        exec i s = .next { mapLink s port (fun l =>
        { l with rx := l.rx ++ [⟨src, dst, sendr, stamp % 2 ^ 40, k, rows, payload, slots, none, BitVec.ofNat 20 dev, s.devid, n,
          s.nextId, none, []⟩] }) with nextId := s.nextId + 1 })) ∧
    exec (.messageAccepted port) s = .next (mapLink s port (fun l => { l with tx := l.tx.drop 1 })) ∧
    (∀ dev src seed start dest bar final bytes, l.peer.toNat = dev → l.v = true →
      let i : Instr := .chainCommandArrival port dev src seed start dest bar final bytes
      let others := l.staging.filter (fun c => c.src != src)
      let cmd : StagedCmd := ⟨dest, bar, bytes⟩
      -- the chain of the command: the one of its sender that is staged, or a fresh one, with the bytes that it reserves
      let old? : Option Staged := match start with
        | some len8 => some ⟨src, seed, false, [], 8192 * (len8 % 8 + 1)⟩
        | none => l.staging.find? (fun c => c.src == src)
      (old? = none → exec i s = .next s) ∧
      (∀ old, old? = some old →
        let c : Staged := { old with crc := crc32c old.crc bytes, bad := old.bad || commandRefused s n dest bytes.length bar
                                     cmds := old.cmds ++ [cmd] }
        let full : Prop := start ≠ none ∧ 65536 < roomTaken others + old.room ∨
          old.room < (c.cmds.map (fun k => k.bytes.length)).foldl (· + ·) 0 ∨ final ≠ none ∧ hostWriting s = true
        let staged : State := mapLink s port (fun l => { l with staging := others ++ [c] })
        (full → exec i s = .next s) ∧
        (¬full → ∃ t, exec i s = .next t ∧
          (final = none → t = (commandWalks n port [cmd] staged).1 ∧ (linkAt t port).staging = others ++ [c] ∧
            t.deliveries = s.deliveries) ∧
          (∀ want, final = some want →
            -- the pages of its commands as they stand now
            let u := (commandWalks n port c.cmds staged).1
            let bad := c.bad || c.cmds.any (fun k => commandRefused u n k.dest k.bytes.length k.bar)
            let verdict : Verdict := if bad then .refused else if c.crc ^^^ 0xFFFFFFFF = want then .ok else .bad
            (linkAt t port).staging = others ∧ (linkAt t port).resp = some (.verdict verdict (c.crc ^^^ 0xFFFFFFFF)) ∧
            (verdict ≠ .ok → t.deliveries = s.deliveries) ∧
            (verdict = .ok → ∃ ds, t.deliveries = s.deliveries ++ ds ∧ (∀ d ∈ ds, d.port = port ∧ d.ctx = n) ∧
              ds.map (fun d => d.sectors.length) = c.cmds.map (fun k => (k.bytes.length + 31) / 32)))))) ∧
    (∀ (c : Nat) (v : Verdict) (crc : W32) before (r : ChainRec) after, (coreAt s c).chains = before ++ r :: after →
      (∀ q ∈ before, q.verdict ≠ none) → r.verdict = none → r.port = port → sending s c = false →
      exec (.chainVerdictReturn c v crc) s = .next (mapCore s c (fun k =>
        { k with chains := before ++ { r with verdict := some v, crc := crc } :: after })))

/-! ## The whole machine -/

/-- R19, R23, R61, R113, R145, R148, R203, R303, R367, R386, R395: what reset leaves: the boot and attestation registers
are zero, no context, kernel or core is active, PMAP and the hash profiles have their stated values, links are DOWN and
the registers of the trap levels are zero; the memories stand in canonical form; and, by the model's choice, CTXSTAT,
DEVID and the scalar registers of a core before its first kernel are zero, and its LCRC is initial. It rests on the
model's log entry 5. -/
def Obligations.ResetState : Prop :=
  let s := State.reset
  s.bootstat = 0 ∧ s.apbase = 0 ∧ s.dbdrop = 0 ∧ s.attdone = 0 ∧ s.attaddr = 0 ∧ (∀ i, tabGet 0 s.attnonce i = 0) ∧
  (∀ n, tabGet 0 s.mreg n = 0) ∧ s.ctxstat = 0 ∧ s.qsel = 0 ∧ s.devid = 0 ∧ s.pmap = 0xFAC688 ∧ s.rehashes = 0 ∧
  (∀ n, (ctxAt s n).live = false) ∧ s.kernels = [] ∧ s.reqs = [] ∧
  (∀ n, (linkAt s n).st = .down ∧ (linkAt s n).replays = 0 ∧ (linkAt s n).repairs = 0 ∧ (linkAt s n).v = false) ∧
  (∀ n, (coreAt s n).life = .idle ∧ (coreAt s n).tl = 0 ∧ (coreAt s n).thvec = 0 ∧ (coreAt s n).tsave = 0 ∧
    (coreAt s n).budg = 0 ∧ (∀ r, (coreAt s n).rx r = 0) ∧ (coreAt s n).lcrc = 0xFFFFFFFF) ∧
  (∀ stack profile i, i < 6 → profile < 8 → profile ≠ 1 → profMaskAt s stack profile i = BitVec.ofNat 36 (2 ^ (7 + i))) ∧
  (∀ stack, profMaskAt s stack 1 0 = 0x082082080 ∧ profMaskAt s stack 1 5 = 0x041041000) ∧
  s.canonical = true

/-- R56, R57, R59: the bytes of one header and one slot word, within a line of the bundle store that holds no error, are
read as the instruction that the decoder gives; and a step in which the current core comes to issue runs that
instruction, or, with several slots, the bundle. A turn that the schedule names does the same on its core, or is its
event. It rests on the model's log entry 1. -/
def Obligations.StepRunsDecoded : Prop :=
  (∀ (c : Core) (sl : Slot) (w : Nat) (i : Instr), c.bpc < 0x20000 → c.bpc % 64 + 1 + sl.bytes ≤ 64 →
    c.bPoison.contains (c.bpc / 64) = false → w < 2 ^ (8 * sl.bytes) →
    c.bundle.readN c.bpc (1 + sl.bytes) = BitVec.ofNat 8 (2 ^ sl.bit) :: leBytes sl.bytes w → decodeSlot sl w = .ok i →
    aloneAt c = some i) ∧
  ∀ s : State,
    (s.agenda = [] → dueOf s = .issue → aside s = false →
      (∀ i, aloneAt (me s) = some i → step s = counted (s.beat + 1) (exec i s)) ∧
      (aloneAt (me s) = none → step s = .next { boundary s with beat := s.beat + 1 })) ∧
    (∀ n rest, s.agenda = .core n :: rest →
      let u := { s with agenda := rest, cur := n }
      dueOf u = .issue → (∀ i, aloneAt (me u) = some i → step s = exec i u) ∧
        (aloneAt (me u) = none → step s = .next (boundary u))) ∧
    (∀ i rest, s.agenda = .event i :: rest → i.slot? = none → step s = exec i { s with agenda := rest })

/-- R89-R94: words that the spec's own examples encode are read as the instructions that they stand for. -/
def Obligations.DecodeWords : Prop :=
  decodeSlot .s 0x14A63900 = .ok (.div 5 6 7 true) ∧
  decodeSlot .s 0x84494064 = .ok (.cmpi 2 9 2 100) ∧
  decodeSlot .s 0xA820DC00 = .ok (.st 1 0 3 0x1C00) ∧
  decodeSlot .s 0x97C000B1 = .ok (.call 30 177) ∧
  decodeSlot .va 0x1362000850000009 = .ok (.vcvt .a 6 2 0 .f32 .rto .f64 0 false) ∧
  decodeSlot .va 0x4881230200000009 = .ok (.vcompact .a 8 1 2 3 0 9) ∧
  decodeSlot .vb 0x9041000800000006 = .ok (.rank 4 1 0 .f32 6) ∧
  decodeSlot .m 0x01084A1100000000 = .ok (.mma 2 4 9 1 false 1 1 false) ∧
  decodeSlot .m 0x1D00000000000000 = .ok (.anch 2) ∧
  decodeSlot .ca 0x000E2869400000C8 = .ok (.tld .a 7 5 3 1 false 10 200) ∧
  decodeSlot .ca 0x180618302C000000 = .ok (.scopySt .a 3 3 2 false 1 12) ∧
  decodeSlot .l 0x0463000000000014 = .ok (.recv 3 6 0 20) ∧
  decodeSlot .l 0x1C42050008000000 = .ok (.lcopy 2 4 0 false 10 0 0 false true 0) ∧
  decodeSlot .x 0x04000003 = .ok (.nopn 3) ∧
  decodeSlot .x 0x10000001 = .ok (.wnext 1) ∧
  decodeSlot .x 0x36E08000 = .ok (.barrG 23)

/-- R56, R75-R80, R89-R94: the word of every well-formed slot instruction is read as that instruction, with all of its
operands. -/
def Obligations.RoundTrip : Prop :=
  ∀ (i : Instr) (sl : Slot), i.slot? = some sl → i.wf = true →
    encode i < 2 ^ (8 * sl.bytes) ∧ decodeSlot sl (encode i) = .ok i

/-- R81-R83, R95: a word that is read as an instruction is that instruction's only word, and the instruction is
well-formed and belongs to the slot: no two words of a slot stand for one instruction. -/
def Obligations.WordsReadOnce : Prop :=
  ∀ (sl : Slot) (w : Nat) (i : Instr), w < 2 ^ (8 * sl.bytes) → decodeSlot sl w = .ok i →
    encode i = w ∧ i.wf = true ∧ i.slot? = some sl

/-- R56, R70, R97: an instruction that stands alone in its bundle does what the bundle does: its own meaning and the
common transition of bundles agree, unless the budget of its handler has run out (R390), when no bundle issues. It rests
on the model's log entry 15. -/
def Obligations.AloneIsBundle : Prop :=
  ∀ (s : State) (i : Instr), (me s).life = .running → fetchHeld (me s) = false → (me s).spent = false →
    aloneAt (me s) = some i →
    exec i s = .next (boundary s)

/-- R16, R281: the module's memories keep their canonical form: from every state that has it, a step answers a next
state that has it too; no step stops. It rests on the model's log entry 3. -/
def Obligations.CanonicalKept : Prop :=
  ∀ s : State, s.canonical = true → ∃ t, step s = .next t ∧ t.canonical = true

/-- R385-R390: a trap taken at TL0 or TL1, with no result due, saves the pc, LPC, the predicates, x30, x31, the shape
registers and the results in flight in the bank of the next level, and goes on at THVEC one level higher; nothing else
of the core changes, and no other core; a trap at TL2 kills the context. TRET's return restores what the entry saved. It
rests on the model's log entry 14. -/
def Obligations.TrapEntryAndReturn : Prop :=
  ∀ (s : State) (n cause : Nat) (deta detb : W64) (epc : Nat) (lpc : BitVec 12) (soft : Bool),
    let c := coreAt s n
    c.nextDue = none →
    let t := trapOn s n cause deta detb epc lpc soft
    let d := coreAt t n
    (2 ≤ c.tl → (ctxAt t (ctxNo s c)).st = .killed) ∧
    (c.tl < 2 →
      let b := if c.tl = 0 then d.bank1 else d.bank2
      d.tl = c.tl + 1 ∧ d.bpc = c.thvec ∧ d.lpc = c.lpc ∧ d.stall = none ∧ d.pipe = [] ∧ d.units = [] ∧
      d.rx 30 = BitVec.ofNat 64 cause ∧ d.rx 31 = BitVec.ofNat 64 ((c.tsave + 512 * c.tl) % 2 ^ 60) ∧
      (∀ r, r < 30 → d.rx r = c.rx r) ∧ d.p = c.p ∧ d.lcc = c.lcc ∧ (c.tl = 0 → d.budg = 0 ∧ d.hc1 = 0) ∧
      (c.tl = 1 → d.bank1 = c.bank1 ∧ d.budg = c.budg ∧ d.hc2 = 0) ∧
      b.cause = cause ∧ b.from_ = c.tl ∧ b.re = !soft ∧ b.epc = epc ∧ b.lpc = lpc ∧ b.deta = deta ∧ b.detb = detb ∧
      b.x30 = c.rx 30 ∧ b.x31 = c.rx 31 ∧ b.pred = c.p ∧ b.live = c.shLive ∧ b.shadow = c.shShadow ∧ b.latch = c.pipe ∧
      b.units = c.units ∧
      d.va = c.va ∧ d.vb = c.vb ∧ d.att = c.att ∧ d.acc = c.acc ∧ d.tile = c.tile ∧ d.handle = c.handle ∧ d.bf = c.bf ∧
      d.sb = c.sb ∧ d.sp = c.sp ∧ d.vault = c.vault ∧ d.mops = c.mops ∧ d.xfers = c.xfers ∧
      (∀ m, m ≠ n → coreAt t m = coreAt s m) ∧ t.hbm = s.hbm ∧ t.hostMem = s.hostMem ∧ t.reqs = s.reqs ∧
      t.kernels = s.kernels ∧
      (let r := d.leave
       r.tl = c.tl ∧ r.bpc = epc ∧ r.lpc = lpc ∧ (∀ m, r.rx m = c.rx m) ∧ r.p = c.p ∧ r.shLive = c.shLive ∧
       r.shShadow = c.shShadow ∧ r.pipe = c.pipe ∧ r.units = c.units ∧ r.sp = c.sp ∧ r.bank1 = d.bank1 ∧ r.bank2 = d.bank2))
end

