-- ==== Sys2Proof/Laws/Core.lean ====
section
/-! SUPPORT. What each update of a core leaves as it was, one lemma for each field. -/

namespace Sys2Proof.Machine


/-! ## Registers -/

@[simp] theorem Core.wx_life (c : Core) (n : Nat) (v : W64) : (c.wx n v).life = c.life := by unfold Core.wx; split <;> rfl
@[simp] theorem Core.wx_kernel (c : Core) (n : Nat) (v : W64) : (c.wx n v).kernel = c.kernel := by unfold Core.wx; split <;> rfl
@[simp] theorem Core.wx_group (c : Core) (n : Nat) (v : W64) : (c.wx n v).group = c.group := by unfold Core.wx; split <;> rfl
@[simp] theorem Core.wx_cidx (c : Core) (n : Nat) (v : W64) : (c.wx n v).cidx = c.cidx := by unfold Core.wx; split <;> rfl
@[simp] theorem Core.wx_p (c : Core) (n : Nat) (v : W64) : (c.wx n v).p = c.p := by unfold Core.wx; split <;> rfl
@[simp] theorem Core.wx_bpc (c : Core) (n : Nat) (v : W64) : (c.wx n v).bpc = c.bpc := by unfold Core.wx; split <;> rfl
@[simp] theorem Core.wx_lpc (c : Core) (n : Nat) (v : W64) : (c.wx n v).lpc = c.lpc := by unfold Core.wx; split <;> rfl
@[simp] theorem Core.wx_lcc (c : Core) (n : Nat) (v : W64) : (c.wx n v).lcc = c.lcc := by unfold Core.wx; split <;> rfl
@[simp] theorem Core.wx_pipe (c : Core) (n : Nat) (v : W64) : (c.wx n v).pipe = c.pipe := by unfold Core.wx; split <;> rfl
@[simp] theorem Core.wx_units (c : Core) (n : Nat) (v : W64) : (c.wx n v).units = c.units := by unfold Core.wx; split <;> rfl
@[simp] theorem Core.wx_bundle (c : Core) (n : Nat) (v : W64) : (c.wx n v).bundle = c.bundle := by unfold Core.wx; split <;> rfl
@[simp] theorem Core.wx_bPend (c : Core) (n : Nat) (v : W64) : (c.wx n v).bPend = c.bPend := by unfold Core.wx; split <;> rfl
@[simp] theorem Core.wx_bPoison (c : Core) (n : Nat) (v : W64) : (c.wx n v).bPoison = c.bPoison := by unfold Core.wx; split <;> rfl
@[simp] theorem Core.wx_present (c : Core) (n : Nat) (v : W64) : (c.wx n v).present = c.present := by unfold Core.wx; split <;> rfl
@[simp] theorem Core.wx_image (c : Core) (n : Nat) (v : W64) : (c.wx n v).image = c.image := by unfold Core.wx; split <;> rfl
@[simp] theorem Core.wx_ovls (c : Core) (n : Nat) (v : W64) : (c.wx n v).ovls = c.ovls := by unfold Core.wx; split <;> rfl
@[simp] theorem Core.wx_lit (c : Core) (n : Nat) (v : W64) : (c.wx n v).lit = c.lit := by unfold Core.wx; split <;> rfl
@[simp] theorem Core.wx_va (c : Core) (n : Nat) (v : W64) : (c.wx n v).va = c.va := by unfold Core.wx; split <;> rfl
@[simp] theorem Core.wx_vb (c : Core) (n : Nat) (v : W64) : (c.wx n v).vb = c.vb := by unfold Core.wx; split <;> rfl
@[simp] theorem Core.wx_shLive (c : Core) (n : Nat) (v : W64) : (c.wx n v).shLive = c.shLive := by unfold Core.wx; split <;> rfl
@[simp] theorem Core.wx_shShadow (c : Core) (n : Nat) (v : W64) : (c.wx n v).shShadow = c.shShadow := by unfold Core.wx; split <;> rfl
@[simp] theorem Core.wx_tile (c : Core) (n : Nat) (v : W64) : (c.wx n v).tile = c.tile := by unfold Core.wx; split <;> rfl
@[simp] theorem Core.wx_bf (c : Core) (n : Nat) (v : W64) : (c.wx n v).bf = c.bf := by unfold Core.wx; split <;> rfl
@[simp] theorem Core.wx_acc (c : Core) (n : Nat) (v : W64) : (c.wx n v).acc = c.acc := by unfold Core.wx; split <;> rfl
@[simp] theorem Core.wx_accPoison (c : Core) (n : Nat) (v : W64) : (c.wx n v).accPoison = c.accPoison := by unfold Core.wx; split <;> rfl
@[simp] theorem Core.wx_sb (c : Core) (n : Nat) (v : W64) : (c.wx n v).sb = c.sb := by unfold Core.wx; split <;> rfl
@[simp] theorem Core.wx_mops (c : Core) (n : Nat) (v : W64) : (c.wx n v).mops = c.mops := by unfold Core.wx; split <;> rfl
@[simp] theorem Core.wx_xfers (c : Core) (n : Nat) (v : W64) : (c.wx n v).xfers = c.xfers := by unfold Core.wx; split <;> rfl
@[simp] theorem Core.wx_handle (c : Core) (n : Nat) (v : W64) : (c.wx n v).handle = c.handle := by unfold Core.wx; split <;> rfl
@[simp] theorem Core.wx_att (c : Core) (n : Nat) (v : W64) : (c.wx n v).att = c.att := by unfold Core.wx; split <;> rfl
@[simp] theorem Core.wx_sp (c : Core) (n : Nat) (v : W64) : (c.wx n v).sp = c.sp := by unfold Core.wx; split <;> rfl
@[simp] theorem Core.wx_spPoison (c : Core) (n : Nat) (v : W64) : (c.wx n v).spPoison = c.spPoison := by unfold Core.wx; split <;> rfl
@[simp] theorem Core.wx_vault (c : Core) (n : Nat) (v : W64) : (c.wx n v).vault = c.vault := by unfold Core.wx; split <;> rfl
@[simp] theorem Core.wx_vaultPoison (c : Core) (n : Nat) (v : W64) : (c.wx n v).vaultPoison = c.vaultPoison := by unfold Core.wx; split <;> rfl
@[simp] theorem Core.wx_tl (c : Core) (n : Nat) (v : W64) : (c.wx n v).tl = c.tl := by unfold Core.wx; split <;> rfl
@[simp] theorem Core.wx_hc1 (c : Core) (n : Nat) (v : W64) : (c.wx n v).hc1 = c.hc1 := by unfold Core.wx; split <;> rfl
@[simp] theorem Core.wx_hc2 (c : Core) (n : Nat) (v : W64) : (c.wx n v).hc2 = c.hc2 := by unfold Core.wx; split <;> rfl
@[simp] theorem Core.wx_thvec (c : Core) (n : Nat) (v : W64) : (c.wx n v).thvec = c.thvec := by unfold Core.wx; split <;> rfl
@[simp] theorem Core.wx_tsave (c : Core) (n : Nat) (v : W64) : (c.wx n v).tsave = c.tsave := by unfold Core.wx; split <;> rfl
@[simp] theorem Core.wx_budg (c : Core) (n : Nat) (v : W64) : (c.wx n v).budg = c.budg := by unfold Core.wx; split <;> rfl
@[simp] theorem Core.wx_bank1 (c : Core) (n : Nat) (v : W64) : (c.wx n v).bank1 = c.bank1 := by unfold Core.wx; split <;> rfl
@[simp] theorem Core.wx_bank2 (c : Core) (n : Nat) (v : W64) : (c.wx n v).bank2 = c.bank2 := by unfold Core.wx; split <;> rfl
@[simp] theorem Core.wx_pend (c : Core) (n : Nat) (v : W64) : (c.wx n v).pend = c.pend := by unfold Core.wx; split <;> rfl
@[simp] theorem Core.wx_lusel (c : Core) (n : Nat) (v : W64) : (c.wx n v).lusel = c.lusel := by unfold Core.wx; split <;> rfl
@[simp] theorem Core.wx_tsel (c : Core) (n : Nat) (v : W64) : (c.wx n v).tsel = c.tsel := by unfold Core.wx; split <;> rfl
@[simp] theorem Core.wx_chkcnt (c : Core) (n : Nat) (v : W64) : (c.wx n v).chkcnt = c.chkcnt := by unfold Core.wx; split <;> rfl
@[simp] theorem Core.wx_suspect (c : Core) (n : Nat) (v : W64) : (c.wx n v).suspect = c.suspect := by unfold Core.wx; split <;> rfl
@[simp] theorem Core.wx_kcount (c : Core) (n : Nat) (v : W64) : (c.wx n v).kcount = c.kcount := by unfold Core.wx; split <;> rfl
@[simp] theorem Core.wx_inject (c : Core) (n : Nat) (v : W64) : (c.wx n v).inject = c.inject := by unfold Core.wx; split <;> rfl
@[simp] theorem Core.wx_kchks (c : Core) (n : Nat) (v : W64) : (c.wx n v).kchks = c.kchks := by unfold Core.wx; split <;> rfl
@[simp] theorem Core.wx_seccnt (c : Core) (n : Nat) (v : W64) : (c.wx n v).seccnt = c.seccnt := by unfold Core.wx; split <;> rfl
@[simp] theorem Core.wx_uecnt (c : Core) (n : Nat) (v : W64) : (c.wx n v).uecnt = c.uecnt := by unfold Core.wx; split <;> rfl
@[simp] theorem Core.wx_walks (c : Core) (n : Nat) (v : W64) : (c.wx n v).walks = c.walks := by unfold Core.wx; split <;> rfl
@[simp] theorem Core.wx_pulls (c : Core) (n : Nat) (v : W64) : (c.wx n v).pulls = c.pulls := by unfold Core.wx; split <;> rfl
@[simp] theorem Core.wx_replays (c : Core) (n : Nat) (v : W64) : (c.wx n v).replays = c.replays := by unfold Core.wx; split <;> rfl
@[simp] theorem Core.wx_gateclk (c : Core) (n : Nat) (v : W64) : (c.wx n v).gateclk = c.gateclk := by unfold Core.wx; split <;> rfl
@[simp] theorem Core.wx_lbpclk (c : Core) (n : Nat) (v : W64) : (c.wx n v).lbpclk = c.lbpclk := by unfold Core.wx; split <;> rfl
@[simp] theorem Core.wx_digest (c : Core) (n : Nat) (v : W64) : (c.wx n v).digest = c.digest := by unfold Core.wx; split <;> rfl
@[simp] theorem Core.wx_lcrc (c : Core) (n : Nat) (v : W64) : (c.wx n v).lcrc = c.lcrc := by unfold Core.wx; split <;> rfl
@[simp] theorem Core.wx_chain (c : Core) (n : Nat) (v : W64) : (c.wx n v).chain = c.chain := by unfold Core.wx; split <;> rfl
@[simp] theorem Core.wx_chains (c : Core) (n : Nat) (v : W64) : (c.wx n v).chains = c.chains := by unfold Core.wx; split <;> rfl
@[simp] theorem Core.wx_cbad (c : Core) (n : Nat) (v : W64) : (c.wx n v).cbad = c.cbad := by unfold Core.wx; split <;> rfl
@[simp] theorem Core.wx_cref (c : Core) (n : Nat) (v : W64) : (c.wx n v).cref = c.cref := by unfold Core.wx; split <;> rfl
@[simp] theorem Core.wx_ccrc (c : Core) (n : Nat) (v : W64) : (c.wx n v).ccrc = c.ccrc := by unfold Core.wx; split <;> rfl
@[simp] theorem Core.wx_outbox (c : Core) (n : Nat) (v : W64) : (c.wx n v).outbox = c.outbox := by unfold Core.wx; split <;> rfl
@[simp] theorem Core.wx_aligned (c : Core) (n : Nat) (v : W64) : (c.wx n v).aligned = c.aligned := by unfold Core.wx; split <;> rfl
@[simp] theorem Core.wx_ld (c : Core) (n : Nat) (v : W64) : (c.wx n v).ld = c.ld := by unfold Core.wx; split <;> rfl
@[simp] theorem Core.wx_snap (c : Core) (n : Nat) (v : W64) : (c.wx n v).snap = c.snap := by unfold Core.wx; split <;> rfl
@[simp] theorem Core.wx_runLog (c : Core) (n : Nat) (v : W64) : (c.wx n v).runLog = c.runLog := by unfold Core.wx; split <;> rfl
@[simp] theorem Core.wx_inLog (c : Core) (n : Nat) (v : W64) : (c.wx n v).inLog = c.inLog := by unfold Core.wx; split <;> rfl
@[simp] theorem Core.wx_stall (c : Core) (n : Nat) (v : W64) : (c.wx n v).stall = c.stall := by unfold Core.wx; split <;> rfl

/-! ## Predicates -/

@[simp] theorem Core.wp_life (c : Core) (n : Nat) (v : Bool) : (c.wp n v).life = c.life := by unfold Core.wp; split <;> rfl
@[simp] theorem Core.wp_kernel (c : Core) (n : Nat) (v : Bool) : (c.wp n v).kernel = c.kernel := by unfold Core.wp; split <;> rfl
@[simp] theorem Core.wp_group (c : Core) (n : Nat) (v : Bool) : (c.wp n v).group = c.group := by unfold Core.wp; split <;> rfl
@[simp] theorem Core.wp_cidx (c : Core) (n : Nat) (v : Bool) : (c.wp n v).cidx = c.cidx := by unfold Core.wp; split <;> rfl
@[simp] theorem Core.wp_x (c : Core) (n : Nat) (v : Bool) : (c.wp n v).x = c.x := by unfold Core.wp; split <;> rfl
@[simp] theorem Core.wp_bpc (c : Core) (n : Nat) (v : Bool) : (c.wp n v).bpc = c.bpc := by unfold Core.wp; split <;> rfl
@[simp] theorem Core.wp_lpc (c : Core) (n : Nat) (v : Bool) : (c.wp n v).lpc = c.lpc := by unfold Core.wp; split <;> rfl
@[simp] theorem Core.wp_lcc (c : Core) (n : Nat) (v : Bool) : (c.wp n v).lcc = c.lcc := by unfold Core.wp; split <;> rfl
@[simp] theorem Core.wp_pipe (c : Core) (n : Nat) (v : Bool) : (c.wp n v).pipe = c.pipe := by unfold Core.wp; split <;> rfl
@[simp] theorem Core.wp_units (c : Core) (n : Nat) (v : Bool) : (c.wp n v).units = c.units := by unfold Core.wp; split <;> rfl
@[simp] theorem Core.wp_bundle (c : Core) (n : Nat) (v : Bool) : (c.wp n v).bundle = c.bundle := by unfold Core.wp; split <;> rfl
@[simp] theorem Core.wp_bPend (c : Core) (n : Nat) (v : Bool) : (c.wp n v).bPend = c.bPend := by unfold Core.wp; split <;> rfl
@[simp] theorem Core.wp_bPoison (c : Core) (n : Nat) (v : Bool) : (c.wp n v).bPoison = c.bPoison := by unfold Core.wp; split <;> rfl
@[simp] theorem Core.wp_present (c : Core) (n : Nat) (v : Bool) : (c.wp n v).present = c.present := by unfold Core.wp; split <;> rfl
@[simp] theorem Core.wp_image (c : Core) (n : Nat) (v : Bool) : (c.wp n v).image = c.image := by unfold Core.wp; split <;> rfl
@[simp] theorem Core.wp_ovls (c : Core) (n : Nat) (v : Bool) : (c.wp n v).ovls = c.ovls := by unfold Core.wp; split <;> rfl
@[simp] theorem Core.wp_lit (c : Core) (n : Nat) (v : Bool) : (c.wp n v).lit = c.lit := by unfold Core.wp; split <;> rfl
@[simp] theorem Core.wp_va (c : Core) (n : Nat) (v : Bool) : (c.wp n v).va = c.va := by unfold Core.wp; split <;> rfl
@[simp] theorem Core.wp_vb (c : Core) (n : Nat) (v : Bool) : (c.wp n v).vb = c.vb := by unfold Core.wp; split <;> rfl
@[simp] theorem Core.wp_shLive (c : Core) (n : Nat) (v : Bool) : (c.wp n v).shLive = c.shLive := by unfold Core.wp; split <;> rfl
@[simp] theorem Core.wp_shShadow (c : Core) (n : Nat) (v : Bool) : (c.wp n v).shShadow = c.shShadow := by unfold Core.wp; split <;> rfl
@[simp] theorem Core.wp_tile (c : Core) (n : Nat) (v : Bool) : (c.wp n v).tile = c.tile := by unfold Core.wp; split <;> rfl
@[simp] theorem Core.wp_bf (c : Core) (n : Nat) (v : Bool) : (c.wp n v).bf = c.bf := by unfold Core.wp; split <;> rfl
@[simp] theorem Core.wp_acc (c : Core) (n : Nat) (v : Bool) : (c.wp n v).acc = c.acc := by unfold Core.wp; split <;> rfl
@[simp] theorem Core.wp_accPoison (c : Core) (n : Nat) (v : Bool) : (c.wp n v).accPoison = c.accPoison := by unfold Core.wp; split <;> rfl
@[simp] theorem Core.wp_sb (c : Core) (n : Nat) (v : Bool) : (c.wp n v).sb = c.sb := by unfold Core.wp; split <;> rfl
@[simp] theorem Core.wp_mops (c : Core) (n : Nat) (v : Bool) : (c.wp n v).mops = c.mops := by unfold Core.wp; split <;> rfl
@[simp] theorem Core.wp_xfers (c : Core) (n : Nat) (v : Bool) : (c.wp n v).xfers = c.xfers := by unfold Core.wp; split <;> rfl
@[simp] theorem Core.wp_handle (c : Core) (n : Nat) (v : Bool) : (c.wp n v).handle = c.handle := by unfold Core.wp; split <;> rfl
@[simp] theorem Core.wp_att (c : Core) (n : Nat) (v : Bool) : (c.wp n v).att = c.att := by unfold Core.wp; split <;> rfl
@[simp] theorem Core.wp_sp (c : Core) (n : Nat) (v : Bool) : (c.wp n v).sp = c.sp := by unfold Core.wp; split <;> rfl
@[simp] theorem Core.wp_spPoison (c : Core) (n : Nat) (v : Bool) : (c.wp n v).spPoison = c.spPoison := by unfold Core.wp; split <;> rfl
@[simp] theorem Core.wp_vault (c : Core) (n : Nat) (v : Bool) : (c.wp n v).vault = c.vault := by unfold Core.wp; split <;> rfl
@[simp] theorem Core.wp_vaultPoison (c : Core) (n : Nat) (v : Bool) : (c.wp n v).vaultPoison = c.vaultPoison := by unfold Core.wp; split <;> rfl
@[simp] theorem Core.wp_tl (c : Core) (n : Nat) (v : Bool) : (c.wp n v).tl = c.tl := by unfold Core.wp; split <;> rfl
@[simp] theorem Core.wp_hc1 (c : Core) (n : Nat) (v : Bool) : (c.wp n v).hc1 = c.hc1 := by unfold Core.wp; split <;> rfl
@[simp] theorem Core.wp_hc2 (c : Core) (n : Nat) (v : Bool) : (c.wp n v).hc2 = c.hc2 := by unfold Core.wp; split <;> rfl
@[simp] theorem Core.wp_thvec (c : Core) (n : Nat) (v : Bool) : (c.wp n v).thvec = c.thvec := by unfold Core.wp; split <;> rfl
@[simp] theorem Core.wp_tsave (c : Core) (n : Nat) (v : Bool) : (c.wp n v).tsave = c.tsave := by unfold Core.wp; split <;> rfl
@[simp] theorem Core.wp_budg (c : Core) (n : Nat) (v : Bool) : (c.wp n v).budg = c.budg := by unfold Core.wp; split <;> rfl
@[simp] theorem Core.wp_bank1 (c : Core) (n : Nat) (v : Bool) : (c.wp n v).bank1 = c.bank1 := by unfold Core.wp; split <;> rfl
@[simp] theorem Core.wp_bank2 (c : Core) (n : Nat) (v : Bool) : (c.wp n v).bank2 = c.bank2 := by unfold Core.wp; split <;> rfl
@[simp] theorem Core.wp_pend (c : Core) (n : Nat) (v : Bool) : (c.wp n v).pend = c.pend := by unfold Core.wp; split <;> rfl
@[simp] theorem Core.wp_lusel (c : Core) (n : Nat) (v : Bool) : (c.wp n v).lusel = c.lusel := by unfold Core.wp; split <;> rfl
@[simp] theorem Core.wp_tsel (c : Core) (n : Nat) (v : Bool) : (c.wp n v).tsel = c.tsel := by unfold Core.wp; split <;> rfl
@[simp] theorem Core.wp_chkcnt (c : Core) (n : Nat) (v : Bool) : (c.wp n v).chkcnt = c.chkcnt := by unfold Core.wp; split <;> rfl
@[simp] theorem Core.wp_suspect (c : Core) (n : Nat) (v : Bool) : (c.wp n v).suspect = c.suspect := by unfold Core.wp; split <;> rfl
@[simp] theorem Core.wp_kcount (c : Core) (n : Nat) (v : Bool) : (c.wp n v).kcount = c.kcount := by unfold Core.wp; split <;> rfl
@[simp] theorem Core.wp_inject (c : Core) (n : Nat) (v : Bool) : (c.wp n v).inject = c.inject := by unfold Core.wp; split <;> rfl
@[simp] theorem Core.wp_kchks (c : Core) (n : Nat) (v : Bool) : (c.wp n v).kchks = c.kchks := by unfold Core.wp; split <;> rfl
@[simp] theorem Core.wp_seccnt (c : Core) (n : Nat) (v : Bool) : (c.wp n v).seccnt = c.seccnt := by unfold Core.wp; split <;> rfl
@[simp] theorem Core.wp_uecnt (c : Core) (n : Nat) (v : Bool) : (c.wp n v).uecnt = c.uecnt := by unfold Core.wp; split <;> rfl
@[simp] theorem Core.wp_walks (c : Core) (n : Nat) (v : Bool) : (c.wp n v).walks = c.walks := by unfold Core.wp; split <;> rfl
@[simp] theorem Core.wp_pulls (c : Core) (n : Nat) (v : Bool) : (c.wp n v).pulls = c.pulls := by unfold Core.wp; split <;> rfl
@[simp] theorem Core.wp_replays (c : Core) (n : Nat) (v : Bool) : (c.wp n v).replays = c.replays := by unfold Core.wp; split <;> rfl
@[simp] theorem Core.wp_gateclk (c : Core) (n : Nat) (v : Bool) : (c.wp n v).gateclk = c.gateclk := by unfold Core.wp; split <;> rfl
@[simp] theorem Core.wp_lbpclk (c : Core) (n : Nat) (v : Bool) : (c.wp n v).lbpclk = c.lbpclk := by unfold Core.wp; split <;> rfl
@[simp] theorem Core.wp_digest (c : Core) (n : Nat) (v : Bool) : (c.wp n v).digest = c.digest := by unfold Core.wp; split <;> rfl
@[simp] theorem Core.wp_lcrc (c : Core) (n : Nat) (v : Bool) : (c.wp n v).lcrc = c.lcrc := by unfold Core.wp; split <;> rfl
@[simp] theorem Core.wp_chain (c : Core) (n : Nat) (v : Bool) : (c.wp n v).chain = c.chain := by unfold Core.wp; split <;> rfl
@[simp] theorem Core.wp_chains (c : Core) (n : Nat) (v : Bool) : (c.wp n v).chains = c.chains := by unfold Core.wp; split <;> rfl
@[simp] theorem Core.wp_cbad (c : Core) (n : Nat) (v : Bool) : (c.wp n v).cbad = c.cbad := by unfold Core.wp; split <;> rfl
@[simp] theorem Core.wp_cref (c : Core) (n : Nat) (v : Bool) : (c.wp n v).cref = c.cref := by unfold Core.wp; split <;> rfl
@[simp] theorem Core.wp_ccrc (c : Core) (n : Nat) (v : Bool) : (c.wp n v).ccrc = c.ccrc := by unfold Core.wp; split <;> rfl
@[simp] theorem Core.wp_outbox (c : Core) (n : Nat) (v : Bool) : (c.wp n v).outbox = c.outbox := by unfold Core.wp; split <;> rfl
@[simp] theorem Core.wp_aligned (c : Core) (n : Nat) (v : Bool) : (c.wp n v).aligned = c.aligned := by unfold Core.wp; split <;> rfl
@[simp] theorem Core.wp_ld (c : Core) (n : Nat) (v : Bool) : (c.wp n v).ld = c.ld := by unfold Core.wp; split <;> rfl
@[simp] theorem Core.wp_snap (c : Core) (n : Nat) (v : Bool) : (c.wp n v).snap = c.snap := by unfold Core.wp; split <;> rfl
@[simp] theorem Core.wp_runLog (c : Core) (n : Nat) (v : Bool) : (c.wp n v).runLog = c.runLog := by unfold Core.wp; split <;> rfl
@[simp] theorem Core.wp_inLog (c : Core) (n : Nat) (v : Bool) : (c.wp n v).inLog = c.inLog := by unfold Core.wp; split <;> rfl
@[simp] theorem Core.wp_stall (c : Core) (n : Nat) (v : Bool) : (c.wp n v).stall = c.stall := by unfold Core.wp; split <;> rfl

/-! ## Vector registers -/

@[simp] theorem Core.wv_life (c : Core) (k : Cluster) (n : Nat) (v : VReg) : (c.wv k n v).life = c.life := by cases k <;> rfl
@[simp] theorem Core.wv_kernel (c : Core) (k : Cluster) (n : Nat) (v : VReg) : (c.wv k n v).kernel = c.kernel := by cases k <;> rfl
@[simp] theorem Core.wv_group (c : Core) (k : Cluster) (n : Nat) (v : VReg) : (c.wv k n v).group = c.group := by cases k <;> rfl
@[simp] theorem Core.wv_cidx (c : Core) (k : Cluster) (n : Nat) (v : VReg) : (c.wv k n v).cidx = c.cidx := by cases k <;> rfl
@[simp] theorem Core.wv_x (c : Core) (k : Cluster) (n : Nat) (v : VReg) : (c.wv k n v).x = c.x := by cases k <;> rfl
@[simp] theorem Core.wv_p (c : Core) (k : Cluster) (n : Nat) (v : VReg) : (c.wv k n v).p = c.p := by cases k <;> rfl
@[simp] theorem Core.wv_bpc (c : Core) (k : Cluster) (n : Nat) (v : VReg) : (c.wv k n v).bpc = c.bpc := by cases k <;> rfl
@[simp] theorem Core.wv_lpc (c : Core) (k : Cluster) (n : Nat) (v : VReg) : (c.wv k n v).lpc = c.lpc := by cases k <;> rfl
@[simp] theorem Core.wv_lcc (c : Core) (k : Cluster) (n : Nat) (v : VReg) : (c.wv k n v).lcc = c.lcc := by cases k <;> rfl
@[simp] theorem Core.wv_pipe (c : Core) (k : Cluster) (n : Nat) (v : VReg) : (c.wv k n v).pipe = c.pipe := by cases k <;> rfl
@[simp] theorem Core.wv_units (c : Core) (k : Cluster) (n : Nat) (v : VReg) : (c.wv k n v).units = c.units := by cases k <;> rfl
@[simp] theorem Core.wv_bundle (c : Core) (k : Cluster) (n : Nat) (v : VReg) : (c.wv k n v).bundle = c.bundle := by cases k <;> rfl
@[simp] theorem Core.wv_bPend (c : Core) (k : Cluster) (n : Nat) (v : VReg) : (c.wv k n v).bPend = c.bPend := by cases k <;> rfl
@[simp] theorem Core.wv_bPoison (c : Core) (k : Cluster) (n : Nat) (v : VReg) : (c.wv k n v).bPoison = c.bPoison := by cases k <;> rfl
@[simp] theorem Core.wv_present (c : Core) (k : Cluster) (n : Nat) (v : VReg) : (c.wv k n v).present = c.present := by cases k <;> rfl
@[simp] theorem Core.wv_image (c : Core) (k : Cluster) (n : Nat) (v : VReg) : (c.wv k n v).image = c.image := by cases k <;> rfl
@[simp] theorem Core.wv_ovls (c : Core) (k : Cluster) (n : Nat) (v : VReg) : (c.wv k n v).ovls = c.ovls := by cases k <;> rfl
@[simp] theorem Core.wv_lit (c : Core) (k : Cluster) (n : Nat) (v : VReg) : (c.wv k n v).lit = c.lit := by cases k <;> rfl
@[simp] theorem Core.wv_shLive (c : Core) (k : Cluster) (n : Nat) (v : VReg) : (c.wv k n v).shLive = c.shLive := by cases k <;> rfl
@[simp] theorem Core.wv_shShadow (c : Core) (k : Cluster) (n : Nat) (v : VReg) : (c.wv k n v).shShadow = c.shShadow := by cases k <;> rfl
@[simp] theorem Core.wv_tile (c : Core) (k : Cluster) (n : Nat) (v : VReg) : (c.wv k n v).tile = c.tile := by cases k <;> rfl
@[simp] theorem Core.wv_bf (c : Core) (k : Cluster) (n : Nat) (v : VReg) : (c.wv k n v).bf = c.bf := by cases k <;> rfl
@[simp] theorem Core.wv_acc (c : Core) (k : Cluster) (n : Nat) (v : VReg) : (c.wv k n v).acc = c.acc := by cases k <;> rfl
@[simp] theorem Core.wv_accPoison (c : Core) (k : Cluster) (n : Nat) (v : VReg) : (c.wv k n v).accPoison = c.accPoison := by cases k <;> rfl
@[simp] theorem Core.wv_sb (c : Core) (k : Cluster) (n : Nat) (v : VReg) : (c.wv k n v).sb = c.sb := by cases k <;> rfl
@[simp] theorem Core.wv_mops (c : Core) (k : Cluster) (n : Nat) (v : VReg) : (c.wv k n v).mops = c.mops := by cases k <;> rfl
@[simp] theorem Core.wv_xfers (c : Core) (k : Cluster) (n : Nat) (v : VReg) : (c.wv k n v).xfers = c.xfers := by cases k <;> rfl
@[simp] theorem Core.wv_handle (c : Core) (k : Cluster) (n : Nat) (v : VReg) : (c.wv k n v).handle = c.handle := by cases k <;> rfl
@[simp] theorem Core.wv_att (c : Core) (k : Cluster) (n : Nat) (v : VReg) : (c.wv k n v).att = c.att := by cases k <;> rfl
@[simp] theorem Core.wv_sp (c : Core) (k : Cluster) (n : Nat) (v : VReg) : (c.wv k n v).sp = c.sp := by cases k <;> rfl
@[simp] theorem Core.wv_spPoison (c : Core) (k : Cluster) (n : Nat) (v : VReg) : (c.wv k n v).spPoison = c.spPoison := by cases k <;> rfl
@[simp] theorem Core.wv_vault (c : Core) (k : Cluster) (n : Nat) (v : VReg) : (c.wv k n v).vault = c.vault := by cases k <;> rfl
@[simp] theorem Core.wv_vaultPoison (c : Core) (k : Cluster) (n : Nat) (v : VReg) : (c.wv k n v).vaultPoison = c.vaultPoison := by cases k <;> rfl
@[simp] theorem Core.wv_tl (c : Core) (k : Cluster) (n : Nat) (v : VReg) : (c.wv k n v).tl = c.tl := by cases k <;> rfl
@[simp] theorem Core.wv_hc1 (c : Core) (k : Cluster) (n : Nat) (v : VReg) : (c.wv k n v).hc1 = c.hc1 := by cases k <;> rfl
@[simp] theorem Core.wv_hc2 (c : Core) (k : Cluster) (n : Nat) (v : VReg) : (c.wv k n v).hc2 = c.hc2 := by cases k <;> rfl
@[simp] theorem Core.wv_thvec (c : Core) (k : Cluster) (n : Nat) (v : VReg) : (c.wv k n v).thvec = c.thvec := by cases k <;> rfl
@[simp] theorem Core.wv_tsave (c : Core) (k : Cluster) (n : Nat) (v : VReg) : (c.wv k n v).tsave = c.tsave := by cases k <;> rfl
@[simp] theorem Core.wv_budg (c : Core) (k : Cluster) (n : Nat) (v : VReg) : (c.wv k n v).budg = c.budg := by cases k <;> rfl
@[simp] theorem Core.wv_bank1 (c : Core) (k : Cluster) (n : Nat) (v : VReg) : (c.wv k n v).bank1 = c.bank1 := by cases k <;> rfl
@[simp] theorem Core.wv_bank2 (c : Core) (k : Cluster) (n : Nat) (v : VReg) : (c.wv k n v).bank2 = c.bank2 := by cases k <;> rfl
@[simp] theorem Core.wv_pend (c : Core) (k : Cluster) (n : Nat) (v : VReg) : (c.wv k n v).pend = c.pend := by cases k <;> rfl
@[simp] theorem Core.wv_lusel (c : Core) (k : Cluster) (n : Nat) (v : VReg) : (c.wv k n v).lusel = c.lusel := by cases k <;> rfl
@[simp] theorem Core.wv_tsel (c : Core) (k : Cluster) (n : Nat) (v : VReg) : (c.wv k n v).tsel = c.tsel := by cases k <;> rfl
@[simp] theorem Core.wv_chkcnt (c : Core) (k : Cluster) (n : Nat) (v : VReg) : (c.wv k n v).chkcnt = c.chkcnt := by cases k <;> rfl
@[simp] theorem Core.wv_suspect (c : Core) (k : Cluster) (n : Nat) (v : VReg) : (c.wv k n v).suspect = c.suspect := by cases k <;> rfl
@[simp] theorem Core.wv_kcount (c : Core) (k : Cluster) (n : Nat) (v : VReg) : (c.wv k n v).kcount = c.kcount := by cases k <;> rfl
@[simp] theorem Core.wv_inject (c : Core) (k : Cluster) (n : Nat) (v : VReg) : (c.wv k n v).inject = c.inject := by cases k <;> rfl
@[simp] theorem Core.wv_kchks (c : Core) (k : Cluster) (n : Nat) (v : VReg) : (c.wv k n v).kchks = c.kchks := by cases k <;> rfl
@[simp] theorem Core.wv_seccnt (c : Core) (k : Cluster) (n : Nat) (v : VReg) : (c.wv k n v).seccnt = c.seccnt := by cases k <;> rfl
@[simp] theorem Core.wv_uecnt (c : Core) (k : Cluster) (n : Nat) (v : VReg) : (c.wv k n v).uecnt = c.uecnt := by cases k <;> rfl
@[simp] theorem Core.wv_walks (c : Core) (k : Cluster) (n : Nat) (v : VReg) : (c.wv k n v).walks = c.walks := by cases k <;> rfl
@[simp] theorem Core.wv_pulls (c : Core) (k : Cluster) (n : Nat) (v : VReg) : (c.wv k n v).pulls = c.pulls := by cases k <;> rfl
@[simp] theorem Core.wv_replays (c : Core) (k : Cluster) (n : Nat) (v : VReg) : (c.wv k n v).replays = c.replays := by cases k <;> rfl
@[simp] theorem Core.wv_gateclk (c : Core) (k : Cluster) (n : Nat) (v : VReg) : (c.wv k n v).gateclk = c.gateclk := by cases k <;> rfl
@[simp] theorem Core.wv_lbpclk (c : Core) (k : Cluster) (n : Nat) (v : VReg) : (c.wv k n v).lbpclk = c.lbpclk := by cases k <;> rfl
@[simp] theorem Core.wv_digest (c : Core) (k : Cluster) (n : Nat) (v : VReg) : (c.wv k n v).digest = c.digest := by cases k <;> rfl
@[simp] theorem Core.wv_lcrc (c : Core) (k : Cluster) (n : Nat) (v : VReg) : (c.wv k n v).lcrc = c.lcrc := by cases k <;> rfl
@[simp] theorem Core.wv_chain (c : Core) (k : Cluster) (n : Nat) (v : VReg) : (c.wv k n v).chain = c.chain := by cases k <;> rfl
@[simp] theorem Core.wv_chains (c : Core) (k : Cluster) (n : Nat) (v : VReg) : (c.wv k n v).chains = c.chains := by cases k <;> rfl
@[simp] theorem Core.wv_cbad (c : Core) (k : Cluster) (n : Nat) (v : VReg) : (c.wv k n v).cbad = c.cbad := by cases k <;> rfl
@[simp] theorem Core.wv_cref (c : Core) (k : Cluster) (n : Nat) (v : VReg) : (c.wv k n v).cref = c.cref := by cases k <;> rfl
@[simp] theorem Core.wv_ccrc (c : Core) (k : Cluster) (n : Nat) (v : VReg) : (c.wv k n v).ccrc = c.ccrc := by cases k <;> rfl
@[simp] theorem Core.wv_outbox (c : Core) (k : Cluster) (n : Nat) (v : VReg) : (c.wv k n v).outbox = c.outbox := by cases k <;> rfl
@[simp] theorem Core.wv_aligned (c : Core) (k : Cluster) (n : Nat) (v : VReg) : (c.wv k n v).aligned = c.aligned := by cases k <;> rfl
@[simp] theorem Core.wv_ld (c : Core) (k : Cluster) (n : Nat) (v : VReg) : (c.wv k n v).ld = c.ld := by cases k <;> rfl
@[simp] theorem Core.wv_snap (c : Core) (k : Cluster) (n : Nat) (v : VReg) : (c.wv k n v).snap = c.snap := by cases k <;> rfl
@[simp] theorem Core.wv_runLog (c : Core) (k : Cluster) (n : Nat) (v : VReg) : (c.wv k n v).runLog = c.runLog := by cases k <;> rfl
@[simp] theorem Core.wv_inLog (c : Core) (k : Cluster) (n : Nat) (v : VReg) : (c.wv k n v).inLog = c.inLog := by cases k <;> rfl
@[simp] theorem Core.wv_stall (c : Core) (k : Cluster) (n : Nat) (v : VReg) : (c.wv k n v).stall = c.stall := by cases k <;> rfl

/-! ## The scratchpad -/

@[simp] theorem Core.spWrite_life (c : Core) (a : Nat) (b : List (Option Byte)) (u : Bool) : (c.spWrite a b u).life = c.life := rfl
@[simp] theorem Core.spWrite_kernel (c : Core) (a : Nat) (b : List (Option Byte)) (u : Bool) : (c.spWrite a b u).kernel = c.kernel := rfl
@[simp] theorem Core.spWrite_group (c : Core) (a : Nat) (b : List (Option Byte)) (u : Bool) : (c.spWrite a b u).group = c.group := rfl
@[simp] theorem Core.spWrite_cidx (c : Core) (a : Nat) (b : List (Option Byte)) (u : Bool) : (c.spWrite a b u).cidx = c.cidx := rfl
@[simp] theorem Core.spWrite_x (c : Core) (a : Nat) (b : List (Option Byte)) (u : Bool) : (c.spWrite a b u).x = c.x := rfl
@[simp] theorem Core.spWrite_p (c : Core) (a : Nat) (b : List (Option Byte)) (u : Bool) : (c.spWrite a b u).p = c.p := rfl
@[simp] theorem Core.spWrite_bpc (c : Core) (a : Nat) (b : List (Option Byte)) (u : Bool) : (c.spWrite a b u).bpc = c.bpc := rfl
@[simp] theorem Core.spWrite_lpc (c : Core) (a : Nat) (b : List (Option Byte)) (u : Bool) : (c.spWrite a b u).lpc = c.lpc := rfl
@[simp] theorem Core.spWrite_lcc (c : Core) (a : Nat) (b : List (Option Byte)) (u : Bool) : (c.spWrite a b u).lcc = c.lcc := rfl
@[simp] theorem Core.spWrite_pipe (c : Core) (a : Nat) (b : List (Option Byte)) (u : Bool) : (c.spWrite a b u).pipe = c.pipe := rfl
@[simp] theorem Core.spWrite_units (c : Core) (a : Nat) (b : List (Option Byte)) (u : Bool) : (c.spWrite a b u).units = c.units := rfl
@[simp] theorem Core.spWrite_bundle (c : Core) (a : Nat) (b : List (Option Byte)) (u : Bool) : (c.spWrite a b u).bundle = c.bundle := rfl
@[simp] theorem Core.spWrite_bPend (c : Core) (a : Nat) (b : List (Option Byte)) (u : Bool) : (c.spWrite a b u).bPend = c.bPend := rfl
@[simp] theorem Core.spWrite_bPoison (c : Core) (a : Nat) (b : List (Option Byte)) (u : Bool) : (c.spWrite a b u).bPoison = c.bPoison := rfl
@[simp] theorem Core.spWrite_present (c : Core) (a : Nat) (b : List (Option Byte)) (u : Bool) : (c.spWrite a b u).present = c.present := rfl
@[simp] theorem Core.spWrite_image (c : Core) (a : Nat) (b : List (Option Byte)) (u : Bool) : (c.spWrite a b u).image = c.image := rfl
@[simp] theorem Core.spWrite_ovls (c : Core) (a : Nat) (b : List (Option Byte)) (u : Bool) : (c.spWrite a b u).ovls = c.ovls := rfl
@[simp] theorem Core.spWrite_lit (c : Core) (a : Nat) (b : List (Option Byte)) (u : Bool) : (c.spWrite a b u).lit = c.lit := rfl
@[simp] theorem Core.spWrite_va (c : Core) (a : Nat) (b : List (Option Byte)) (u : Bool) : (c.spWrite a b u).va = c.va := rfl
@[simp] theorem Core.spWrite_vb (c : Core) (a : Nat) (b : List (Option Byte)) (u : Bool) : (c.spWrite a b u).vb = c.vb := rfl
@[simp] theorem Core.spWrite_shLive (c : Core) (a : Nat) (b : List (Option Byte)) (u : Bool) : (c.spWrite a b u).shLive = c.shLive := rfl
@[simp] theorem Core.spWrite_shShadow (c : Core) (a : Nat) (b : List (Option Byte)) (u : Bool) : (c.spWrite a b u).shShadow = c.shShadow := rfl
@[simp] theorem Core.spWrite_tile (c : Core) (a : Nat) (b : List (Option Byte)) (u : Bool) : (c.spWrite a b u).tile = c.tile := rfl
@[simp] theorem Core.spWrite_bf (c : Core) (a : Nat) (b : List (Option Byte)) (u : Bool) : (c.spWrite a b u).bf = c.bf := rfl
@[simp] theorem Core.spWrite_acc (c : Core) (a : Nat) (b : List (Option Byte)) (u : Bool) : (c.spWrite a b u).acc = c.acc := rfl
@[simp] theorem Core.spWrite_accPoison (c : Core) (a : Nat) (b : List (Option Byte)) (u : Bool) : (c.spWrite a b u).accPoison = c.accPoison := rfl
@[simp] theorem Core.spWrite_sb (c : Core) (a : Nat) (b : List (Option Byte)) (u : Bool) : (c.spWrite a b u).sb = c.sb := rfl
@[simp] theorem Core.spWrite_mops (c : Core) (a : Nat) (b : List (Option Byte)) (u : Bool) : (c.spWrite a b u).mops = c.mops := rfl
@[simp] theorem Core.spWrite_xfers (c : Core) (a : Nat) (b : List (Option Byte)) (u : Bool) : (c.spWrite a b u).xfers = c.xfers := rfl
@[simp] theorem Core.spWrite_handle (c : Core) (a : Nat) (b : List (Option Byte)) (u : Bool) : (c.spWrite a b u).handle = c.handle := rfl
@[simp] theorem Core.spWrite_att (c : Core) (a : Nat) (b : List (Option Byte)) (u : Bool) : (c.spWrite a b u).att = c.att := rfl
@[simp] theorem Core.spWrite_vault (c : Core) (a : Nat) (b : List (Option Byte)) (u : Bool) : (c.spWrite a b u).vault = c.vault := rfl
@[simp] theorem Core.spWrite_vaultPoison (c : Core) (a : Nat) (b : List (Option Byte)) (u : Bool) : (c.spWrite a b u).vaultPoison = c.vaultPoison := rfl
@[simp] theorem Core.spWrite_tl (c : Core) (a : Nat) (b : List (Option Byte)) (u : Bool) : (c.spWrite a b u).tl = c.tl := rfl
@[simp] theorem Core.spWrite_hc1 (c : Core) (a : Nat) (b : List (Option Byte)) (u : Bool) : (c.spWrite a b u).hc1 = c.hc1 := rfl
@[simp] theorem Core.spWrite_hc2 (c : Core) (a : Nat) (b : List (Option Byte)) (u : Bool) : (c.spWrite a b u).hc2 = c.hc2 := rfl
@[simp] theorem Core.spWrite_thvec (c : Core) (a : Nat) (b : List (Option Byte)) (u : Bool) : (c.spWrite a b u).thvec = c.thvec := rfl
@[simp] theorem Core.spWrite_tsave (c : Core) (a : Nat) (b : List (Option Byte)) (u : Bool) : (c.spWrite a b u).tsave = c.tsave := rfl
@[simp] theorem Core.spWrite_budg (c : Core) (a : Nat) (b : List (Option Byte)) (u : Bool) : (c.spWrite a b u).budg = c.budg := rfl
@[simp] theorem Core.spWrite_bank1 (c : Core) (a : Nat) (b : List (Option Byte)) (u : Bool) : (c.spWrite a b u).bank1 = c.bank1 := rfl
@[simp] theorem Core.spWrite_bank2 (c : Core) (a : Nat) (b : List (Option Byte)) (u : Bool) : (c.spWrite a b u).bank2 = c.bank2 := rfl
@[simp] theorem Core.spWrite_pend (c : Core) (a : Nat) (b : List (Option Byte)) (u : Bool) : (c.spWrite a b u).pend = c.pend := rfl
@[simp] theorem Core.spWrite_lusel (c : Core) (a : Nat) (b : List (Option Byte)) (u : Bool) : (c.spWrite a b u).lusel = c.lusel := rfl
@[simp] theorem Core.spWrite_tsel (c : Core) (a : Nat) (b : List (Option Byte)) (u : Bool) : (c.spWrite a b u).tsel = c.tsel := rfl
@[simp] theorem Core.spWrite_chkcnt (c : Core) (a : Nat) (b : List (Option Byte)) (u : Bool) : (c.spWrite a b u).chkcnt = c.chkcnt := rfl
@[simp] theorem Core.spWrite_suspect (c : Core) (a : Nat) (b : List (Option Byte)) (u : Bool) : (c.spWrite a b u).suspect = c.suspect := rfl
@[simp] theorem Core.spWrite_kcount (c : Core) (a : Nat) (b : List (Option Byte)) (u : Bool) : (c.spWrite a b u).kcount = c.kcount := rfl
@[simp] theorem Core.spWrite_inject (c : Core) (a : Nat) (b : List (Option Byte)) (u : Bool) : (c.spWrite a b u).inject = c.inject := rfl
@[simp] theorem Core.spWrite_kchks (c : Core) (a : Nat) (b : List (Option Byte)) (u : Bool) : (c.spWrite a b u).kchks = c.kchks := rfl
@[simp] theorem Core.spWrite_seccnt (c : Core) (a : Nat) (b : List (Option Byte)) (u : Bool) : (c.spWrite a b u).seccnt = c.seccnt := rfl
@[simp] theorem Core.spWrite_uecnt (c : Core) (a : Nat) (b : List (Option Byte)) (u : Bool) : (c.spWrite a b u).uecnt = c.uecnt := rfl
@[simp] theorem Core.spWrite_walks (c : Core) (a : Nat) (b : List (Option Byte)) (u : Bool) : (c.spWrite a b u).walks = c.walks := rfl
@[simp] theorem Core.spWrite_pulls (c : Core) (a : Nat) (b : List (Option Byte)) (u : Bool) : (c.spWrite a b u).pulls = c.pulls := rfl
@[simp] theorem Core.spWrite_replays (c : Core) (a : Nat) (b : List (Option Byte)) (u : Bool) : (c.spWrite a b u).replays = c.replays := rfl
@[simp] theorem Core.spWrite_gateclk (c : Core) (a : Nat) (b : List (Option Byte)) (u : Bool) : (c.spWrite a b u).gateclk = c.gateclk := rfl
@[simp] theorem Core.spWrite_lbpclk (c : Core) (a : Nat) (b : List (Option Byte)) (u : Bool) : (c.spWrite a b u).lbpclk = c.lbpclk := rfl
@[simp] theorem Core.spWrite_digest (c : Core) (a : Nat) (b : List (Option Byte)) (u : Bool) : (c.spWrite a b u).digest = c.digest := rfl
@[simp] theorem Core.spWrite_lcrc (c : Core) (a : Nat) (b : List (Option Byte)) (u : Bool) : (c.spWrite a b u).lcrc = c.lcrc := rfl
@[simp] theorem Core.spWrite_chain (c : Core) (a : Nat) (b : List (Option Byte)) (u : Bool) : (c.spWrite a b u).chain = c.chain := rfl
@[simp] theorem Core.spWrite_chains (c : Core) (a : Nat) (b : List (Option Byte)) (u : Bool) : (c.spWrite a b u).chains = c.chains := rfl
@[simp] theorem Core.spWrite_cbad (c : Core) (a : Nat) (b : List (Option Byte)) (u : Bool) : (c.spWrite a b u).cbad = c.cbad := rfl
@[simp] theorem Core.spWrite_cref (c : Core) (a : Nat) (b : List (Option Byte)) (u : Bool) : (c.spWrite a b u).cref = c.cref := rfl
@[simp] theorem Core.spWrite_ccrc (c : Core) (a : Nat) (b : List (Option Byte)) (u : Bool) : (c.spWrite a b u).ccrc = c.ccrc := rfl
@[simp] theorem Core.spWrite_outbox (c : Core) (a : Nat) (b : List (Option Byte)) (u : Bool) : (c.spWrite a b u).outbox = c.outbox := rfl
@[simp] theorem Core.spWrite_aligned (c : Core) (a : Nat) (b : List (Option Byte)) (u : Bool) : (c.spWrite a b u).aligned = c.aligned := rfl
@[simp] theorem Core.spWrite_ld (c : Core) (a : Nat) (b : List (Option Byte)) (u : Bool) : (c.spWrite a b u).ld = c.ld := rfl
@[simp] theorem Core.spWrite_snap (c : Core) (a : Nat) (b : List (Option Byte)) (u : Bool) : (c.spWrite a b u).snap = c.snap := rfl
@[simp] theorem Core.spWrite_runLog (c : Core) (a : Nat) (b : List (Option Byte)) (u : Bool) : (c.spWrite a b u).runLog = c.runLog := rfl
@[simp] theorem Core.spWrite_inLog (c : Core) (a : Nat) (b : List (Option Byte)) (u : Bool) : (c.spWrite a b u).inLog = c.inLog := rfl
@[simp] theorem Core.spWrite_stall (c : Core) (a : Nat) (b : List (Option Byte)) (u : Bool) : (c.spWrite a b u).stall = c.stall := rfl

/-! ## Scoreboard -/

@[simp] theorem Core.sbSet_life (c : Core) (o : Obj) (v : Option Sb) : (c.sbSet o v).life = c.life := rfl
@[simp] theorem Core.sbSet_kernel (c : Core) (o : Obj) (v : Option Sb) : (c.sbSet o v).kernel = c.kernel := rfl
@[simp] theorem Core.sbSet_group (c : Core) (o : Obj) (v : Option Sb) : (c.sbSet o v).group = c.group := rfl
@[simp] theorem Core.sbSet_cidx (c : Core) (o : Obj) (v : Option Sb) : (c.sbSet o v).cidx = c.cidx := rfl
@[simp] theorem Core.sbSet_x (c : Core) (o : Obj) (v : Option Sb) : (c.sbSet o v).x = c.x := rfl
@[simp] theorem Core.sbSet_p (c : Core) (o : Obj) (v : Option Sb) : (c.sbSet o v).p = c.p := rfl
@[simp] theorem Core.sbSet_bpc (c : Core) (o : Obj) (v : Option Sb) : (c.sbSet o v).bpc = c.bpc := rfl
@[simp] theorem Core.sbSet_lpc (c : Core) (o : Obj) (v : Option Sb) : (c.sbSet o v).lpc = c.lpc := rfl
@[simp] theorem Core.sbSet_lcc (c : Core) (o : Obj) (v : Option Sb) : (c.sbSet o v).lcc = c.lcc := rfl
@[simp] theorem Core.sbSet_pipe (c : Core) (o : Obj) (v : Option Sb) : (c.sbSet o v).pipe = c.pipe := rfl
@[simp] theorem Core.sbSet_units (c : Core) (o : Obj) (v : Option Sb) : (c.sbSet o v).units = c.units := rfl
@[simp] theorem Core.sbSet_bundle (c : Core) (o : Obj) (v : Option Sb) : (c.sbSet o v).bundle = c.bundle := rfl
@[simp] theorem Core.sbSet_bPend (c : Core) (o : Obj) (v : Option Sb) : (c.sbSet o v).bPend = c.bPend := rfl
@[simp] theorem Core.sbSet_bPoison (c : Core) (o : Obj) (v : Option Sb) : (c.sbSet o v).bPoison = c.bPoison := rfl
@[simp] theorem Core.sbSet_present (c : Core) (o : Obj) (v : Option Sb) : (c.sbSet o v).present = c.present := rfl
@[simp] theorem Core.sbSet_image (c : Core) (o : Obj) (v : Option Sb) : (c.sbSet o v).image = c.image := rfl
@[simp] theorem Core.sbSet_ovls (c : Core) (o : Obj) (v : Option Sb) : (c.sbSet o v).ovls = c.ovls := rfl
@[simp] theorem Core.sbSet_lit (c : Core) (o : Obj) (v : Option Sb) : (c.sbSet o v).lit = c.lit := rfl
@[simp] theorem Core.sbSet_va (c : Core) (o : Obj) (v : Option Sb) : (c.sbSet o v).va = c.va := rfl
@[simp] theorem Core.sbSet_vb (c : Core) (o : Obj) (v : Option Sb) : (c.sbSet o v).vb = c.vb := rfl
@[simp] theorem Core.sbSet_shLive (c : Core) (o : Obj) (v : Option Sb) : (c.sbSet o v).shLive = c.shLive := rfl
@[simp] theorem Core.sbSet_shShadow (c : Core) (o : Obj) (v : Option Sb) : (c.sbSet o v).shShadow = c.shShadow := rfl
@[simp] theorem Core.sbSet_tile (c : Core) (o : Obj) (v : Option Sb) : (c.sbSet o v).tile = c.tile := rfl
@[simp] theorem Core.sbSet_bf (c : Core) (o : Obj) (v : Option Sb) : (c.sbSet o v).bf = c.bf := rfl
@[simp] theorem Core.sbSet_acc (c : Core) (o : Obj) (v : Option Sb) : (c.sbSet o v).acc = c.acc := rfl
@[simp] theorem Core.sbSet_accPoison (c : Core) (o : Obj) (v : Option Sb) : (c.sbSet o v).accPoison = c.accPoison := rfl
@[simp] theorem Core.sbSet_mops (c : Core) (o : Obj) (v : Option Sb) : (c.sbSet o v).mops = c.mops := rfl
@[simp] theorem Core.sbSet_xfers (c : Core) (o : Obj) (v : Option Sb) : (c.sbSet o v).xfers = c.xfers := rfl
@[simp] theorem Core.sbSet_handle (c : Core) (o : Obj) (v : Option Sb) : (c.sbSet o v).handle = c.handle := rfl
@[simp] theorem Core.sbSet_att (c : Core) (o : Obj) (v : Option Sb) : (c.sbSet o v).att = c.att := rfl
@[simp] theorem Core.sbSet_sp (c : Core) (o : Obj) (v : Option Sb) : (c.sbSet o v).sp = c.sp := rfl
@[simp] theorem Core.sbSet_spPoison (c : Core) (o : Obj) (v : Option Sb) : (c.sbSet o v).spPoison = c.spPoison := rfl
@[simp] theorem Core.sbSet_vault (c : Core) (o : Obj) (v : Option Sb) : (c.sbSet o v).vault = c.vault := rfl
@[simp] theorem Core.sbSet_vaultPoison (c : Core) (o : Obj) (v : Option Sb) : (c.sbSet o v).vaultPoison = c.vaultPoison := rfl
@[simp] theorem Core.sbSet_tl (c : Core) (o : Obj) (v : Option Sb) : (c.sbSet o v).tl = c.tl := rfl
@[simp] theorem Core.sbSet_hc1 (c : Core) (o : Obj) (v : Option Sb) : (c.sbSet o v).hc1 = c.hc1 := rfl
@[simp] theorem Core.sbSet_hc2 (c : Core) (o : Obj) (v : Option Sb) : (c.sbSet o v).hc2 = c.hc2 := rfl
@[simp] theorem Core.sbSet_thvec (c : Core) (o : Obj) (v : Option Sb) : (c.sbSet o v).thvec = c.thvec := rfl
@[simp] theorem Core.sbSet_tsave (c : Core) (o : Obj) (v : Option Sb) : (c.sbSet o v).tsave = c.tsave := rfl
@[simp] theorem Core.sbSet_budg (c : Core) (o : Obj) (v : Option Sb) : (c.sbSet o v).budg = c.budg := rfl
@[simp] theorem Core.sbSet_bank1 (c : Core) (o : Obj) (v : Option Sb) : (c.sbSet o v).bank1 = c.bank1 := rfl
@[simp] theorem Core.sbSet_bank2 (c : Core) (o : Obj) (v : Option Sb) : (c.sbSet o v).bank2 = c.bank2 := rfl
@[simp] theorem Core.sbSet_pend (c : Core) (o : Obj) (v : Option Sb) : (c.sbSet o v).pend = c.pend := rfl
@[simp] theorem Core.sbSet_lusel (c : Core) (o : Obj) (v : Option Sb) : (c.sbSet o v).lusel = c.lusel := rfl
@[simp] theorem Core.sbSet_tsel (c : Core) (o : Obj) (v : Option Sb) : (c.sbSet o v).tsel = c.tsel := rfl
@[simp] theorem Core.sbSet_chkcnt (c : Core) (o : Obj) (v : Option Sb) : (c.sbSet o v).chkcnt = c.chkcnt := rfl
@[simp] theorem Core.sbSet_suspect (c : Core) (o : Obj) (v : Option Sb) : (c.sbSet o v).suspect = c.suspect := rfl
@[simp] theorem Core.sbSet_kcount (c : Core) (o : Obj) (v : Option Sb) : (c.sbSet o v).kcount = c.kcount := rfl
@[simp] theorem Core.sbSet_inject (c : Core) (o : Obj) (v : Option Sb) : (c.sbSet o v).inject = c.inject := rfl
@[simp] theorem Core.sbSet_kchks (c : Core) (o : Obj) (v : Option Sb) : (c.sbSet o v).kchks = c.kchks := rfl
@[simp] theorem Core.sbSet_seccnt (c : Core) (o : Obj) (v : Option Sb) : (c.sbSet o v).seccnt = c.seccnt := rfl
@[simp] theorem Core.sbSet_uecnt (c : Core) (o : Obj) (v : Option Sb) : (c.sbSet o v).uecnt = c.uecnt := rfl
@[simp] theorem Core.sbSet_walks (c : Core) (o : Obj) (v : Option Sb) : (c.sbSet o v).walks = c.walks := rfl
@[simp] theorem Core.sbSet_pulls (c : Core) (o : Obj) (v : Option Sb) : (c.sbSet o v).pulls = c.pulls := rfl
@[simp] theorem Core.sbSet_replays (c : Core) (o : Obj) (v : Option Sb) : (c.sbSet o v).replays = c.replays := rfl
@[simp] theorem Core.sbSet_gateclk (c : Core) (o : Obj) (v : Option Sb) : (c.sbSet o v).gateclk = c.gateclk := rfl
@[simp] theorem Core.sbSet_lbpclk (c : Core) (o : Obj) (v : Option Sb) : (c.sbSet o v).lbpclk = c.lbpclk := rfl
@[simp] theorem Core.sbSet_digest (c : Core) (o : Obj) (v : Option Sb) : (c.sbSet o v).digest = c.digest := rfl
@[simp] theorem Core.sbSet_lcrc (c : Core) (o : Obj) (v : Option Sb) : (c.sbSet o v).lcrc = c.lcrc := rfl
@[simp] theorem Core.sbSet_chain (c : Core) (o : Obj) (v : Option Sb) : (c.sbSet o v).chain = c.chain := rfl
@[simp] theorem Core.sbSet_chains (c : Core) (o : Obj) (v : Option Sb) : (c.sbSet o v).chains = c.chains := rfl
@[simp] theorem Core.sbSet_cbad (c : Core) (o : Obj) (v : Option Sb) : (c.sbSet o v).cbad = c.cbad := rfl
@[simp] theorem Core.sbSet_cref (c : Core) (o : Obj) (v : Option Sb) : (c.sbSet o v).cref = c.cref := rfl
@[simp] theorem Core.sbSet_ccrc (c : Core) (o : Obj) (v : Option Sb) : (c.sbSet o v).ccrc = c.ccrc := rfl
@[simp] theorem Core.sbSet_outbox (c : Core) (o : Obj) (v : Option Sb) : (c.sbSet o v).outbox = c.outbox := rfl
@[simp] theorem Core.sbSet_aligned (c : Core) (o : Obj) (v : Option Sb) : (c.sbSet o v).aligned = c.aligned := rfl
@[simp] theorem Core.sbSet_ld (c : Core) (o : Obj) (v : Option Sb) : (c.sbSet o v).ld = c.ld := rfl
@[simp] theorem Core.sbSet_snap (c : Core) (o : Obj) (v : Option Sb) : (c.sbSet o v).snap = c.snap := rfl
@[simp] theorem Core.sbSet_runLog (c : Core) (o : Obj) (v : Option Sb) : (c.sbSet o v).runLog = c.runLog := rfl
@[simp] theorem Core.sbSet_inLog (c : Core) (o : Obj) (v : Option Sb) : (c.sbSet o v).inLog = c.inLog := rfl
@[simp] theorem Core.sbSet_stall (c : Core) (o : Obj) (v : Option Sb) : (c.sbSet o v).stall = c.stall := rfl

/-! ## Shape registers -/

@[simp] theorem Core.swap_life (c : Core) (n : Nat) : (c.swap n).life = c.life := rfl
@[simp] theorem Core.swap_kernel (c : Core) (n : Nat) : (c.swap n).kernel = c.kernel := rfl
@[simp] theorem Core.swap_group (c : Core) (n : Nat) : (c.swap n).group = c.group := rfl
@[simp] theorem Core.swap_cidx (c : Core) (n : Nat) : (c.swap n).cidx = c.cidx := rfl
@[simp] theorem Core.swap_x (c : Core) (n : Nat) : (c.swap n).x = c.x := rfl
@[simp] theorem Core.swap_p (c : Core) (n : Nat) : (c.swap n).p = c.p := rfl
@[simp] theorem Core.swap_bpc (c : Core) (n : Nat) : (c.swap n).bpc = c.bpc := rfl
@[simp] theorem Core.swap_lpc (c : Core) (n : Nat) : (c.swap n).lpc = c.lpc := rfl
@[simp] theorem Core.swap_lcc (c : Core) (n : Nat) : (c.swap n).lcc = c.lcc := rfl
@[simp] theorem Core.swap_pipe (c : Core) (n : Nat) : (c.swap n).pipe = c.pipe := rfl
@[simp] theorem Core.swap_units (c : Core) (n : Nat) : (c.swap n).units = c.units := rfl
@[simp] theorem Core.swap_bundle (c : Core) (n : Nat) : (c.swap n).bundle = c.bundle := rfl
@[simp] theorem Core.swap_bPend (c : Core) (n : Nat) : (c.swap n).bPend = c.bPend := rfl
@[simp] theorem Core.swap_bPoison (c : Core) (n : Nat) : (c.swap n).bPoison = c.bPoison := rfl
@[simp] theorem Core.swap_present (c : Core) (n : Nat) : (c.swap n).present = c.present := rfl
@[simp] theorem Core.swap_image (c : Core) (n : Nat) : (c.swap n).image = c.image := rfl
@[simp] theorem Core.swap_ovls (c : Core) (n : Nat) : (c.swap n).ovls = c.ovls := rfl
@[simp] theorem Core.swap_lit (c : Core) (n : Nat) : (c.swap n).lit = c.lit := rfl
@[simp] theorem Core.swap_va (c : Core) (n : Nat) : (c.swap n).va = c.va := rfl
@[simp] theorem Core.swap_vb (c : Core) (n : Nat) : (c.swap n).vb = c.vb := rfl
@[simp] theorem Core.swap_tile (c : Core) (n : Nat) : (c.swap n).tile = c.tile := rfl
@[simp] theorem Core.swap_bf (c : Core) (n : Nat) : (c.swap n).bf = c.bf := rfl
@[simp] theorem Core.swap_acc (c : Core) (n : Nat) : (c.swap n).acc = c.acc := rfl
@[simp] theorem Core.swap_accPoison (c : Core) (n : Nat) : (c.swap n).accPoison = c.accPoison := rfl
@[simp] theorem Core.swap_sb (c : Core) (n : Nat) : (c.swap n).sb = c.sb := rfl
@[simp] theorem Core.swap_mops (c : Core) (n : Nat) : (c.swap n).mops = c.mops := rfl
@[simp] theorem Core.swap_xfers (c : Core) (n : Nat) : (c.swap n).xfers = c.xfers := rfl
@[simp] theorem Core.swap_handle (c : Core) (n : Nat) : (c.swap n).handle = c.handle := rfl
@[simp] theorem Core.swap_att (c : Core) (n : Nat) : (c.swap n).att = c.att := rfl
@[simp] theorem Core.swap_sp (c : Core) (n : Nat) : (c.swap n).sp = c.sp := rfl
@[simp] theorem Core.swap_spPoison (c : Core) (n : Nat) : (c.swap n).spPoison = c.spPoison := rfl
@[simp] theorem Core.swap_vault (c : Core) (n : Nat) : (c.swap n).vault = c.vault := rfl
@[simp] theorem Core.swap_vaultPoison (c : Core) (n : Nat) : (c.swap n).vaultPoison = c.vaultPoison := rfl
@[simp] theorem Core.swap_tl (c : Core) (n : Nat) : (c.swap n).tl = c.tl := rfl
@[simp] theorem Core.swap_hc1 (c : Core) (n : Nat) : (c.swap n).hc1 = c.hc1 := rfl
@[simp] theorem Core.swap_hc2 (c : Core) (n : Nat) : (c.swap n).hc2 = c.hc2 := rfl
@[simp] theorem Core.swap_thvec (c : Core) (n : Nat) : (c.swap n).thvec = c.thvec := rfl
@[simp] theorem Core.swap_tsave (c : Core) (n : Nat) : (c.swap n).tsave = c.tsave := rfl
@[simp] theorem Core.swap_budg (c : Core) (n : Nat) : (c.swap n).budg = c.budg := rfl
@[simp] theorem Core.swap_bank1 (c : Core) (n : Nat) : (c.swap n).bank1 = c.bank1 := rfl
@[simp] theorem Core.swap_bank2 (c : Core) (n : Nat) : (c.swap n).bank2 = c.bank2 := rfl
@[simp] theorem Core.swap_pend (c : Core) (n : Nat) : (c.swap n).pend = c.pend := rfl
@[simp] theorem Core.swap_lusel (c : Core) (n : Nat) : (c.swap n).lusel = c.lusel := rfl
@[simp] theorem Core.swap_tsel (c : Core) (n : Nat) : (c.swap n).tsel = c.tsel := rfl
@[simp] theorem Core.swap_chkcnt (c : Core) (n : Nat) : (c.swap n).chkcnt = c.chkcnt := rfl
@[simp] theorem Core.swap_suspect (c : Core) (n : Nat) : (c.swap n).suspect = c.suspect := rfl
@[simp] theorem Core.swap_kcount (c : Core) (n : Nat) : (c.swap n).kcount = c.kcount := rfl
@[simp] theorem Core.swap_inject (c : Core) (n : Nat) : (c.swap n).inject = c.inject := rfl
@[simp] theorem Core.swap_kchks (c : Core) (n : Nat) : (c.swap n).kchks = c.kchks := rfl
@[simp] theorem Core.swap_seccnt (c : Core) (n : Nat) : (c.swap n).seccnt = c.seccnt := rfl
@[simp] theorem Core.swap_uecnt (c : Core) (n : Nat) : (c.swap n).uecnt = c.uecnt := rfl
@[simp] theorem Core.swap_walks (c : Core) (n : Nat) : (c.swap n).walks = c.walks := rfl
@[simp] theorem Core.swap_pulls (c : Core) (n : Nat) : (c.swap n).pulls = c.pulls := rfl
@[simp] theorem Core.swap_replays (c : Core) (n : Nat) : (c.swap n).replays = c.replays := rfl
@[simp] theorem Core.swap_gateclk (c : Core) (n : Nat) : (c.swap n).gateclk = c.gateclk := rfl
@[simp] theorem Core.swap_lbpclk (c : Core) (n : Nat) : (c.swap n).lbpclk = c.lbpclk := rfl
@[simp] theorem Core.swap_digest (c : Core) (n : Nat) : (c.swap n).digest = c.digest := rfl
@[simp] theorem Core.swap_lcrc (c : Core) (n : Nat) : (c.swap n).lcrc = c.lcrc := rfl
@[simp] theorem Core.swap_chain (c : Core) (n : Nat) : (c.swap n).chain = c.chain := rfl
@[simp] theorem Core.swap_chains (c : Core) (n : Nat) : (c.swap n).chains = c.chains := rfl
@[simp] theorem Core.swap_cbad (c : Core) (n : Nat) : (c.swap n).cbad = c.cbad := rfl
@[simp] theorem Core.swap_cref (c : Core) (n : Nat) : (c.swap n).cref = c.cref := rfl
@[simp] theorem Core.swap_ccrc (c : Core) (n : Nat) : (c.swap n).ccrc = c.ccrc := rfl
@[simp] theorem Core.swap_outbox (c : Core) (n : Nat) : (c.swap n).outbox = c.outbox := rfl
@[simp] theorem Core.swap_aligned (c : Core) (n : Nat) : (c.swap n).aligned = c.aligned := rfl
@[simp] theorem Core.swap_ld (c : Core) (n : Nat) : (c.swap n).ld = c.ld := rfl
@[simp] theorem Core.swap_snap (c : Core) (n : Nat) : (c.swap n).snap = c.snap := rfl
@[simp] theorem Core.swap_runLog (c : Core) (n : Nat) : (c.swap n).runLog = c.runLog := rfl
@[simp] theorem Core.swap_inLog (c : Core) (n : Nat) : (c.swap n).inLog = c.inLog := rfl
@[simp] theorem Core.swap_stall (c : Core) (n : Nat) : (c.swap n).stall = c.stall := rfl

/-! ## Time -/

@[simp] theorem Core.elapse_life (c : Core) (n : Nat) : (c.elapse n).life = c.life := rfl
@[simp] theorem Core.elapse_kernel (c : Core) (n : Nat) : (c.elapse n).kernel = c.kernel := rfl
@[simp] theorem Core.elapse_group (c : Core) (n : Nat) : (c.elapse n).group = c.group := rfl
@[simp] theorem Core.elapse_cidx (c : Core) (n : Nat) : (c.elapse n).cidx = c.cidx := rfl
@[simp] theorem Core.elapse_x (c : Core) (n : Nat) : (c.elapse n).x = c.x := rfl
@[simp] theorem Core.elapse_p (c : Core) (n : Nat) : (c.elapse n).p = c.p := rfl
@[simp] theorem Core.elapse_bpc (c : Core) (n : Nat) : (c.elapse n).bpc = c.bpc := rfl
@[simp] theorem Core.elapse_lpc (c : Core) (n : Nat) : (c.elapse n).lpc = c.lpc := rfl
@[simp] theorem Core.elapse_lcc (c : Core) (n : Nat) : (c.elapse n).lcc = c.lcc := rfl
@[simp] theorem Core.elapse_bundle (c : Core) (n : Nat) : (c.elapse n).bundle = c.bundle := rfl
@[simp] theorem Core.elapse_bPend (c : Core) (n : Nat) : (c.elapse n).bPend = c.bPend := rfl
@[simp] theorem Core.elapse_bPoison (c : Core) (n : Nat) : (c.elapse n).bPoison = c.bPoison := rfl
@[simp] theorem Core.elapse_present (c : Core) (n : Nat) : (c.elapse n).present = c.present := rfl
@[simp] theorem Core.elapse_image (c : Core) (n : Nat) : (c.elapse n).image = c.image := rfl
@[simp] theorem Core.elapse_ovls (c : Core) (n : Nat) : (c.elapse n).ovls = c.ovls := rfl
@[simp] theorem Core.elapse_lit (c : Core) (n : Nat) : (c.elapse n).lit = c.lit := rfl
@[simp] theorem Core.elapse_va (c : Core) (n : Nat) : (c.elapse n).va = c.va := rfl
@[simp] theorem Core.elapse_vb (c : Core) (n : Nat) : (c.elapse n).vb = c.vb := rfl
@[simp] theorem Core.elapse_shLive (c : Core) (n : Nat) : (c.elapse n).shLive = c.shLive := rfl
@[simp] theorem Core.elapse_shShadow (c : Core) (n : Nat) : (c.elapse n).shShadow = c.shShadow := rfl
@[simp] theorem Core.elapse_tile (c : Core) (n : Nat) : (c.elapse n).tile = c.tile := rfl
@[simp] theorem Core.elapse_bf (c : Core) (n : Nat) : (c.elapse n).bf = c.bf := rfl
@[simp] theorem Core.elapse_acc (c : Core) (n : Nat) : (c.elapse n).acc = c.acc := rfl
@[simp] theorem Core.elapse_accPoison (c : Core) (n : Nat) : (c.elapse n).accPoison = c.accPoison := rfl
@[simp] theorem Core.elapse_sb (c : Core) (n : Nat) : (c.elapse n).sb = c.sb := rfl
@[simp] theorem Core.elapse_mops (c : Core) (n : Nat) : (c.elapse n).mops = c.mops := rfl
@[simp] theorem Core.elapse_handle (c : Core) (n : Nat) : (c.elapse n).handle = c.handle := rfl
@[simp] theorem Core.elapse_att (c : Core) (n : Nat) : (c.elapse n).att = c.att := rfl
@[simp] theorem Core.elapse_sp (c : Core) (n : Nat) : (c.elapse n).sp = c.sp := rfl
@[simp] theorem Core.elapse_spPoison (c : Core) (n : Nat) : (c.elapse n).spPoison = c.spPoison := rfl
@[simp] theorem Core.elapse_vault (c : Core) (n : Nat) : (c.elapse n).vault = c.vault := rfl
@[simp] theorem Core.elapse_vaultPoison (c : Core) (n : Nat) : (c.elapse n).vaultPoison = c.vaultPoison := rfl
@[simp] theorem Core.elapse_tl (c : Core) (n : Nat) : (c.elapse n).tl = c.tl := rfl
@[simp] theorem Core.elapse_hc1 (c : Core) (n : Nat) : (c.elapse n).hc1 = c.hc1 := rfl
@[simp] theorem Core.elapse_hc2 (c : Core) (n : Nat) : (c.elapse n).hc2 = c.hc2 := rfl
@[simp] theorem Core.elapse_thvec (c : Core) (n : Nat) : (c.elapse n).thvec = c.thvec := rfl
@[simp] theorem Core.elapse_tsave (c : Core) (n : Nat) : (c.elapse n).tsave = c.tsave := rfl
@[simp] theorem Core.elapse_budg (c : Core) (n : Nat) : (c.elapse n).budg = c.budg := rfl
@[simp] theorem Core.elapse_bank1 (c : Core) (n : Nat) : (c.elapse n).bank1 = c.bank1 := rfl
@[simp] theorem Core.elapse_bank2 (c : Core) (n : Nat) : (c.elapse n).bank2 = c.bank2 := rfl
@[simp] theorem Core.elapse_pend (c : Core) (n : Nat) : (c.elapse n).pend = c.pend := rfl
@[simp] theorem Core.elapse_lusel (c : Core) (n : Nat) : (c.elapse n).lusel = c.lusel := rfl
@[simp] theorem Core.elapse_tsel (c : Core) (n : Nat) : (c.elapse n).tsel = c.tsel := rfl
@[simp] theorem Core.elapse_chkcnt (c : Core) (n : Nat) : (c.elapse n).chkcnt = c.chkcnt := rfl
@[simp] theorem Core.elapse_suspect (c : Core) (n : Nat) : (c.elapse n).suspect = c.suspect := rfl
@[simp] theorem Core.elapse_kcount (c : Core) (n : Nat) : (c.elapse n).kcount = c.kcount := rfl
@[simp] theorem Core.elapse_inject (c : Core) (n : Nat) : (c.elapse n).inject = c.inject := rfl
@[simp] theorem Core.elapse_kchks (c : Core) (n : Nat) : (c.elapse n).kchks = c.kchks := rfl
@[simp] theorem Core.elapse_seccnt (c : Core) (n : Nat) : (c.elapse n).seccnt = c.seccnt := rfl
@[simp] theorem Core.elapse_uecnt (c : Core) (n : Nat) : (c.elapse n).uecnt = c.uecnt := rfl
@[simp] theorem Core.elapse_walks (c : Core) (n : Nat) : (c.elapse n).walks = c.walks := rfl
@[simp] theorem Core.elapse_pulls (c : Core) (n : Nat) : (c.elapse n).pulls = c.pulls := rfl
@[simp] theorem Core.elapse_replays (c : Core) (n : Nat) : (c.elapse n).replays = c.replays := rfl
@[simp] theorem Core.elapse_gateclk (c : Core) (n : Nat) : (c.elapse n).gateclk = c.gateclk := rfl
@[simp] theorem Core.elapse_lbpclk (c : Core) (n : Nat) : (c.elapse n).lbpclk = c.lbpclk := rfl
@[simp] theorem Core.elapse_digest (c : Core) (n : Nat) : (c.elapse n).digest = c.digest := rfl
@[simp] theorem Core.elapse_lcrc (c : Core) (n : Nat) : (c.elapse n).lcrc = c.lcrc := rfl
@[simp] theorem Core.elapse_chain (c : Core) (n : Nat) : (c.elapse n).chain = c.chain := rfl
@[simp] theorem Core.elapse_chains (c : Core) (n : Nat) : (c.elapse n).chains = c.chains := rfl
@[simp] theorem Core.elapse_cbad (c : Core) (n : Nat) : (c.elapse n).cbad = c.cbad := rfl
@[simp] theorem Core.elapse_cref (c : Core) (n : Nat) : (c.elapse n).cref = c.cref := rfl
@[simp] theorem Core.elapse_ccrc (c : Core) (n : Nat) : (c.elapse n).ccrc = c.ccrc := rfl
@[simp] theorem Core.elapse_outbox (c : Core) (n : Nat) : (c.elapse n).outbox = c.outbox := rfl
@[simp] theorem Core.elapse_aligned (c : Core) (n : Nat) : (c.elapse n).aligned = c.aligned := rfl
@[simp] theorem Core.elapse_ld (c : Core) (n : Nat) : (c.elapse n).ld = c.ld := rfl
@[simp] theorem Core.elapse_snap (c : Core) (n : Nat) : (c.elapse n).snap = c.snap := rfl
@[simp] theorem Core.elapse_runLog (c : Core) (n : Nat) : (c.elapse n).runLog = c.runLog := rfl
@[simp] theorem Core.elapse_inLog (c : Core) (n : Nat) : (c.elapse n).inLog = c.inLog := rfl
@[simp] theorem Core.elapse_stall (c : Core) (n : Nat) : (c.elapse n).stall = c.stall := rfl

end Sys2Proof.Machine
end

