-- ==== Sys2Proof/Laws/Home.lean ====
section
/-! SUPPORT. When a line of a home is clean: with no migration under way and no retired frame it is enough that it holds no error. -/

namespace Sys2Proof.Machine

theorem migOf_none (s : State) (a : Nat) (h : s.migs = []) : migOf s a = none := by simp [migOf, h]

theorem retiredAt_none (s : State) (a : Nat) (h : s.retired = []) : retiredAt s a = false := by simp [retiredAt, h]

/-- A line of DRAM. -/
theorem clean_stack (s : State) (p : Place) (n : Nat) (home : p.home = .stack n) (wf : s.hbm.wf = true)
    (good : p.addr / 64 ∉ s.hbmPoison) (migs : s.migs = []) (retired : s.retired = []) : clean s p := by
  simp only [clean, home, homeMem]
  exact ⟨wf, good, fun a _ => ⟨migOf_none s a migs, retiredAt_none s a retired⟩⟩

/-- A line of a scratchpad. -/
theorem clean_scratch (s : State) (p : Place) (n : Nat) (home : p.home = .scratch n) (wf : (coreAt s n).sp.wf = true)
    (good : (coreAt s n).poisonIn (p.addr / 64 * 64) 64 = none) : clean s p := by
  simp only [clean, home, homeMem]
  exact ⟨wf, good⟩

/-- Host memory. -/
theorem clean_host (s : State) (p : Place) (home : p.home = .host) (wf : s.hostMem.wf = true) : clean s p := by
  simp only [clean, home, homeMem]
  exact ⟨wf, trivial⟩

end Sys2Proof.Machine
end

