-- ==== Sys2Proof/Laws/State.lean ====
section
/-! SUPPORT. What each update of the state leaves as it was, one lemma for each field, and what it puts where it writes:
later proofs read these and unfold no record update. -/

namespace Sys2Proof.Machine


/-! ## Cores -/


@[simp] theorem setCore_boot (s : State) (n : Nat) (c : Core) : (setCore s n c).boot = s.boot := rfl
@[simp] theorem setCore_bootstat (s : State) (n : Nat) (c : Core) : (setCore s n c).bootstat = s.bootstat := rfl
@[simp] theorem setCore_listed (s : State) (n : Nat) (c : Core) : (setCore s n c).listed = s.listed := rfl
@[simp] theorem setCore_apbase (s : State) (n : Nat) (c : Core) : (setCore s n c).apbase = s.apbase := rfl
@[simp] theorem setCore_bar2log (s : State) (n : Nat) (c : Core) : (setCore s n c).bar2log = s.bar2log := rfl
@[simp] theorem setCore_dbdrop (s : State) (n : Nat) (c : Core) : (setCore s n c).dbdrop = s.dbdrop := rfl
@[simp] theorem setCore_attdone (s : State) (n : Nat) (c : Core) : (setCore s n c).attdone = s.attdone := rfl
@[simp] theorem setCore_attaddr (s : State) (n : Nat) (c : Core) : (setCore s n c).attaddr = s.attaddr := rfl
@[simp] theorem setCore_attnonce (s : State) (n : Nat) (c : Core) : (setCore s n c).attnonce = s.attnonce := rfl
@[simp] theorem setCore_attbusy (s : State) (n : Nat) (c : Core) : (setCore s n c).attbusy = s.attbusy := rfl
@[simp] theorem setCore_mreg (s : State) (n : Nat) (c : Core) : (setCore s n c).mreg = s.mreg := rfl
@[simp] theorem setCore_fenced (s : State) (n : Nat) (c : Core) : (setCore s n c).fenced = s.fenced := rfl
@[simp] theorem setCore_fencedBays (s : State) (n : Nat) (c : Core) : (setCore s n c).fencedBays = s.fencedBays := rfl
@[simp] theorem setCore_retired (s : State) (n : Nat) (c : Core) : (setCore s n c).retired = s.retired := rfl
@[simp] theorem setCore_watts (s : State) (n : Nat) (c : Core) : (setCore s n c).watts = s.watts := rfl
@[simp] theorem setCore_mhz (s : State) (n : Nat) (c : Core) : (setCore s n c).mhz = s.mhz := rfl
@[simp] theorem setCore_overMs (s : State) (n : Nat) (c : Core) : (setCore s n c).overMs = s.overMs := rfl
@[simp] theorem setCore_pgate (s : State) (n : Nat) (c : Core) : (setCore s n c).pgate = s.pgate := rfl
@[simp] theorem setCore_ctxdesc (s : State) (n : Nat) (c : Core) : (setCore s n c).ctxdesc = s.ctxdesc := rfl
@[simp] theorem setCore_ctxstat (s : State) (n : Nat) (c : Core) : (setCore s n c).ctxstat = s.ctxstat := rfl
@[simp] theorem setCore_qsel (s : State) (n : Nat) (c : Core) : (setCore s n c).qsel = s.qsel := rfl
@[simp] theorem setCore_pgiaddr (s : State) (n : Nat) (c : Core) : (setCore s n c).pgiaddr = s.pgiaddr := rfl
@[simp] theorem setCore_pgiarg (s : State) (n : Nat) (c : Core) : (setCore s n c).pgiarg = s.pgiarg := rfl
@[simp] theorem setCore_pgicmd (s : State) (n : Nat) (c : Core) : (setCore s n c).pgicmd = s.pgicmd := rfl
@[simp] theorem setCore_devid (s : State) (n : Nat) (c : Core) : (setCore s n c).devid = s.devid := rfl
@[simp] theorem setCore_msixTable (s : State) (n : Nat) (c : Core) : (setCore s n c).msixTable = s.msixTable := rfl
@[simp] theorem setCore_msixPend (s : State) (n : Nat) (c : Core) : (setCore s n c).msixPend = s.msixPend := rfl
@[simp] theorem setCore_profmask (s : State) (n : Nat) (c : Core) : (setCore s n c).profmask = s.profmask := rfl
@[simp] theorem setCore_acl (s : State) (n : Nat) (c : Core) : (setCore s n c).acl = s.acl := rfl
@[simp] theorem setCore_lucnt (s : State) (n : Nat) (c : Core) : (setCore s n c).lucnt = s.lucnt := rfl
@[simp] theorem setCore_hbm (s : State) (n : Nat) (c : Core) : (setCore s n c).hbm = s.hbm := rfl
@[simp] theorem setCore_hbmPoison (s : State) (n : Nat) (c : Core) : (setCore s n c).hbmPoison = s.hbmPoison := rfl
@[simp] theorem setCore_hostMem (s : State) (n : Nat) (c : Core) : (setCore s n c).hostMem = s.hostMem := rfl
@[simp] theorem setCore_planes (s : State) (n : Nat) (c : Core) : (setCore s n c).planes = s.planes := rfl
@[simp] theorem setCore_pmap (s : State) (n : Nat) (c : Core) : (setCore s n c).pmap = s.pmap := rfl
@[simp] theorem setCore_rehashes (s : State) (n : Nat) (c : Core) : (setCore s n c).rehashes = s.rehashes := rfl
@[simp] theorem setCore_rehash (s : State) (n : Nat) (c : Core) : (setCore s n c).rehash = s.rehash := rfl
@[simp] theorem setCore_rehashed (s : State) (n : Nat) (c : Core) : (setCore s n c).rehashed = s.rehashed := rfl
@[simp] theorem setCore_plDetail (s : State) (n : Nat) (c : Core) : (setCore s n c).plDetail = s.plDetail := rfl
@[simp] theorem setCore_reqs (s : State) (n : Nat) (c : Core) : (setCore s n c).reqs = s.reqs := rfl
@[simp] theorem setCore_fetches (s : State) (n : Nat) (c : Core) : (setCore s n c).fetches = s.fetches := rfl
@[simp] theorem setCore_partials (s : State) (n : Nat) (c : Core) : (setCore s n c).partials = s.partials := rfl
@[simp] theorem setCore_deliveries (s : State) (n : Nat) (c : Core) : (setCore s n c).deliveries = s.deliveries := rfl
@[simp] theorem setCore_migs (s : State) (n : Nat) (c : Core) : (setCore s n c).migs = s.migs := rfl
@[simp] theorem setCore_links (s : State) (n : Nat) (c : Core) : (setCore s n c).links = s.links := rfl
@[simp] theorem setCore_ctxs (s : State) (n : Nat) (c : Core) : (setCore s n c).ctxs = s.ctxs := rfl
@[simp] theorem setCore_kernels (s : State) (n : Nat) (c : Core) : (setCore s n c).kernels = s.kernels := rfl
@[simp] theorem setCore_ckpt (s : State) (n : Nat) (c : Core) : (setCore s n c).ckpt = s.ckpt := rfl
@[simp] theorem setCore_barReads (s : State) (n : Nat) (c : Core) : (setCore s n c).barReads = s.barReads := rfl
@[simp] theorem setCore_barResp (s : State) (n : Nat) (c : Core) : (setCore s n c).barResp = s.barResp := rfl
@[simp] theorem setCore_lastQ (s : State) (n : Nat) (c : Core) : (setCore s n c).lastQ = s.lastQ := rfl
@[simp] theorem setCore_ctxpend (s : State) (n : Nat) (c : Core) : (setCore s n c).ctxpend = s.ctxpend := rfl
@[simp] theorem setCore_savePos (s : State) (n : Nat) (c : Core) : (setCore s n c).savePos = s.savePos := rfl
@[simp] theorem setCore_cur (s : State) (n : Nat) (c : Core) : (setCore s n c).cur = s.cur := rfl
@[simp] theorem setCore_agenda (s : State) (n : Nat) (c : Core) : (setCore s n c).agenda = s.agenda := rfl
@[simp] theorem setCore_nextId (s : State) (n : Nat) (c : Core) : (setCore s n c).nextId = s.nextId := rfl
@[simp] theorem setCore_nextK (s : State) (n : Nat) (c : Core) : (setCore s n c).nextK = s.nextK := rfl
@[simp] theorem setCore_freeCtr (s : State) (n : Nat) (c : Core) : (setCore s n c).freeCtr = s.freeCtr := rfl
@[simp] theorem setCore_clk (s : State) (n : Nat) (c : Core) : (setCore s n c).clk = s.clk := rfl
@[simp] theorem setCore_beat (s : State) (n : Nat) (c : Core) : (setCore s n c).beat = s.beat := rfl

@[simp] theorem mapCore_boot (s : State) (n : Nat) (f : Core → Core) : (mapCore s n f).boot = s.boot := rfl
@[simp] theorem mapCore_bootstat (s : State) (n : Nat) (f : Core → Core) : (mapCore s n f).bootstat = s.bootstat := rfl
@[simp] theorem mapCore_listed (s : State) (n : Nat) (f : Core → Core) : (mapCore s n f).listed = s.listed := rfl
@[simp] theorem mapCore_apbase (s : State) (n : Nat) (f : Core → Core) : (mapCore s n f).apbase = s.apbase := rfl
@[simp] theorem mapCore_bar2log (s : State) (n : Nat) (f : Core → Core) : (mapCore s n f).bar2log = s.bar2log := rfl
@[simp] theorem mapCore_dbdrop (s : State) (n : Nat) (f : Core → Core) : (mapCore s n f).dbdrop = s.dbdrop := rfl
@[simp] theorem mapCore_attdone (s : State) (n : Nat) (f : Core → Core) : (mapCore s n f).attdone = s.attdone := rfl
@[simp] theorem mapCore_attaddr (s : State) (n : Nat) (f : Core → Core) : (mapCore s n f).attaddr = s.attaddr := rfl
@[simp] theorem mapCore_attnonce (s : State) (n : Nat) (f : Core → Core) : (mapCore s n f).attnonce = s.attnonce := rfl
@[simp] theorem mapCore_attbusy (s : State) (n : Nat) (f : Core → Core) : (mapCore s n f).attbusy = s.attbusy := rfl
@[simp] theorem mapCore_mreg (s : State) (n : Nat) (f : Core → Core) : (mapCore s n f).mreg = s.mreg := rfl
@[simp] theorem mapCore_fenced (s : State) (n : Nat) (f : Core → Core) : (mapCore s n f).fenced = s.fenced := rfl
@[simp] theorem mapCore_fencedBays (s : State) (n : Nat) (f : Core → Core) : (mapCore s n f).fencedBays = s.fencedBays := rfl
@[simp] theorem mapCore_retired (s : State) (n : Nat) (f : Core → Core) : (mapCore s n f).retired = s.retired := rfl
@[simp] theorem mapCore_watts (s : State) (n : Nat) (f : Core → Core) : (mapCore s n f).watts = s.watts := rfl
@[simp] theorem mapCore_mhz (s : State) (n : Nat) (f : Core → Core) : (mapCore s n f).mhz = s.mhz := rfl
@[simp] theorem mapCore_overMs (s : State) (n : Nat) (f : Core → Core) : (mapCore s n f).overMs = s.overMs := rfl
@[simp] theorem mapCore_pgate (s : State) (n : Nat) (f : Core → Core) : (mapCore s n f).pgate = s.pgate := rfl
@[simp] theorem mapCore_ctxdesc (s : State) (n : Nat) (f : Core → Core) : (mapCore s n f).ctxdesc = s.ctxdesc := rfl
@[simp] theorem mapCore_ctxstat (s : State) (n : Nat) (f : Core → Core) : (mapCore s n f).ctxstat = s.ctxstat := rfl
@[simp] theorem mapCore_qsel (s : State) (n : Nat) (f : Core → Core) : (mapCore s n f).qsel = s.qsel := rfl
@[simp] theorem mapCore_pgiaddr (s : State) (n : Nat) (f : Core → Core) : (mapCore s n f).pgiaddr = s.pgiaddr := rfl
@[simp] theorem mapCore_pgiarg (s : State) (n : Nat) (f : Core → Core) : (mapCore s n f).pgiarg = s.pgiarg := rfl
@[simp] theorem mapCore_pgicmd (s : State) (n : Nat) (f : Core → Core) : (mapCore s n f).pgicmd = s.pgicmd := rfl
@[simp] theorem mapCore_devid (s : State) (n : Nat) (f : Core → Core) : (mapCore s n f).devid = s.devid := rfl
@[simp] theorem mapCore_msixTable (s : State) (n : Nat) (f : Core → Core) : (mapCore s n f).msixTable = s.msixTable := rfl
@[simp] theorem mapCore_msixPend (s : State) (n : Nat) (f : Core → Core) : (mapCore s n f).msixPend = s.msixPend := rfl
@[simp] theorem mapCore_profmask (s : State) (n : Nat) (f : Core → Core) : (mapCore s n f).profmask = s.profmask := rfl
@[simp] theorem mapCore_acl (s : State) (n : Nat) (f : Core → Core) : (mapCore s n f).acl = s.acl := rfl
@[simp] theorem mapCore_lucnt (s : State) (n : Nat) (f : Core → Core) : (mapCore s n f).lucnt = s.lucnt := rfl
@[simp] theorem mapCore_hbm (s : State) (n : Nat) (f : Core → Core) : (mapCore s n f).hbm = s.hbm := rfl
@[simp] theorem mapCore_hbmPoison (s : State) (n : Nat) (f : Core → Core) : (mapCore s n f).hbmPoison = s.hbmPoison := rfl
@[simp] theorem mapCore_hostMem (s : State) (n : Nat) (f : Core → Core) : (mapCore s n f).hostMem = s.hostMem := rfl
@[simp] theorem mapCore_planes (s : State) (n : Nat) (f : Core → Core) : (mapCore s n f).planes = s.planes := rfl
@[simp] theorem mapCore_pmap (s : State) (n : Nat) (f : Core → Core) : (mapCore s n f).pmap = s.pmap := rfl
@[simp] theorem mapCore_rehashes (s : State) (n : Nat) (f : Core → Core) : (mapCore s n f).rehashes = s.rehashes := rfl
@[simp] theorem mapCore_rehash (s : State) (n : Nat) (f : Core → Core) : (mapCore s n f).rehash = s.rehash := rfl
@[simp] theorem mapCore_rehashed (s : State) (n : Nat) (f : Core → Core) : (mapCore s n f).rehashed = s.rehashed := rfl
@[simp] theorem mapCore_plDetail (s : State) (n : Nat) (f : Core → Core) : (mapCore s n f).plDetail = s.plDetail := rfl
@[simp] theorem mapCore_reqs (s : State) (n : Nat) (f : Core → Core) : (mapCore s n f).reqs = s.reqs := rfl
@[simp] theorem mapCore_fetches (s : State) (n : Nat) (f : Core → Core) : (mapCore s n f).fetches = s.fetches := rfl
@[simp] theorem mapCore_partials (s : State) (n : Nat) (f : Core → Core) : (mapCore s n f).partials = s.partials := rfl
@[simp] theorem mapCore_deliveries (s : State) (n : Nat) (f : Core → Core) : (mapCore s n f).deliveries = s.deliveries := rfl
@[simp] theorem mapCore_migs (s : State) (n : Nat) (f : Core → Core) : (mapCore s n f).migs = s.migs := rfl
@[simp] theorem mapCore_links (s : State) (n : Nat) (f : Core → Core) : (mapCore s n f).links = s.links := rfl
@[simp] theorem mapCore_ctxs (s : State) (n : Nat) (f : Core → Core) : (mapCore s n f).ctxs = s.ctxs := rfl
@[simp] theorem mapCore_kernels (s : State) (n : Nat) (f : Core → Core) : (mapCore s n f).kernels = s.kernels := rfl
@[simp] theorem mapCore_ckpt (s : State) (n : Nat) (f : Core → Core) : (mapCore s n f).ckpt = s.ckpt := rfl
@[simp] theorem mapCore_barReads (s : State) (n : Nat) (f : Core → Core) : (mapCore s n f).barReads = s.barReads := rfl
@[simp] theorem mapCore_barResp (s : State) (n : Nat) (f : Core → Core) : (mapCore s n f).barResp = s.barResp := rfl
@[simp] theorem mapCore_lastQ (s : State) (n : Nat) (f : Core → Core) : (mapCore s n f).lastQ = s.lastQ := rfl
@[simp] theorem mapCore_ctxpend (s : State) (n : Nat) (f : Core → Core) : (mapCore s n f).ctxpend = s.ctxpend := rfl
@[simp] theorem mapCore_savePos (s : State) (n : Nat) (f : Core → Core) : (mapCore s n f).savePos = s.savePos := rfl
@[simp] theorem mapCore_cur (s : State) (n : Nat) (f : Core → Core) : (mapCore s n f).cur = s.cur := rfl
@[simp] theorem mapCore_agenda (s : State) (n : Nat) (f : Core → Core) : (mapCore s n f).agenda = s.agenda := rfl
@[simp] theorem mapCore_nextId (s : State) (n : Nat) (f : Core → Core) : (mapCore s n f).nextId = s.nextId := rfl
@[simp] theorem mapCore_nextK (s : State) (n : Nat) (f : Core → Core) : (mapCore s n f).nextK = s.nextK := rfl
@[simp] theorem mapCore_freeCtr (s : State) (n : Nat) (f : Core → Core) : (mapCore s n f).freeCtr = s.freeCtr := rfl
@[simp] theorem mapCore_clk (s : State) (n : Nat) (f : Core → Core) : (mapCore s n f).clk = s.clk := rfl
@[simp] theorem mapCore_beat (s : State) (n : Nat) (f : Core → Core) : (mapCore s n f).beat = s.beat := rfl

@[simp] theorem mapMe_boot (s : State) (f : Core → Core) : (mapMe s f).boot = s.boot := rfl
@[simp] theorem mapMe_bootstat (s : State) (f : Core → Core) : (mapMe s f).bootstat = s.bootstat := rfl
@[simp] theorem mapMe_listed (s : State) (f : Core → Core) : (mapMe s f).listed = s.listed := rfl
@[simp] theorem mapMe_apbase (s : State) (f : Core → Core) : (mapMe s f).apbase = s.apbase := rfl
@[simp] theorem mapMe_bar2log (s : State) (f : Core → Core) : (mapMe s f).bar2log = s.bar2log := rfl
@[simp] theorem mapMe_dbdrop (s : State) (f : Core → Core) : (mapMe s f).dbdrop = s.dbdrop := rfl
@[simp] theorem mapMe_attdone (s : State) (f : Core → Core) : (mapMe s f).attdone = s.attdone := rfl
@[simp] theorem mapMe_attaddr (s : State) (f : Core → Core) : (mapMe s f).attaddr = s.attaddr := rfl
@[simp] theorem mapMe_attnonce (s : State) (f : Core → Core) : (mapMe s f).attnonce = s.attnonce := rfl
@[simp] theorem mapMe_attbusy (s : State) (f : Core → Core) : (mapMe s f).attbusy = s.attbusy := rfl
@[simp] theorem mapMe_mreg (s : State) (f : Core → Core) : (mapMe s f).mreg = s.mreg := rfl
@[simp] theorem mapMe_fenced (s : State) (f : Core → Core) : (mapMe s f).fenced = s.fenced := rfl
@[simp] theorem mapMe_fencedBays (s : State) (f : Core → Core) : (mapMe s f).fencedBays = s.fencedBays := rfl
@[simp] theorem mapMe_retired (s : State) (f : Core → Core) : (mapMe s f).retired = s.retired := rfl
@[simp] theorem mapMe_watts (s : State) (f : Core → Core) : (mapMe s f).watts = s.watts := rfl
@[simp] theorem mapMe_mhz (s : State) (f : Core → Core) : (mapMe s f).mhz = s.mhz := rfl
@[simp] theorem mapMe_overMs (s : State) (f : Core → Core) : (mapMe s f).overMs = s.overMs := rfl
@[simp] theorem mapMe_pgate (s : State) (f : Core → Core) : (mapMe s f).pgate = s.pgate := rfl
@[simp] theorem mapMe_ctxdesc (s : State) (f : Core → Core) : (mapMe s f).ctxdesc = s.ctxdesc := rfl
@[simp] theorem mapMe_ctxstat (s : State) (f : Core → Core) : (mapMe s f).ctxstat = s.ctxstat := rfl
@[simp] theorem mapMe_qsel (s : State) (f : Core → Core) : (mapMe s f).qsel = s.qsel := rfl
@[simp] theorem mapMe_pgiaddr (s : State) (f : Core → Core) : (mapMe s f).pgiaddr = s.pgiaddr := rfl
@[simp] theorem mapMe_pgiarg (s : State) (f : Core → Core) : (mapMe s f).pgiarg = s.pgiarg := rfl
@[simp] theorem mapMe_pgicmd (s : State) (f : Core → Core) : (mapMe s f).pgicmd = s.pgicmd := rfl
@[simp] theorem mapMe_devid (s : State) (f : Core → Core) : (mapMe s f).devid = s.devid := rfl
@[simp] theorem mapMe_msixTable (s : State) (f : Core → Core) : (mapMe s f).msixTable = s.msixTable := rfl
@[simp] theorem mapMe_msixPend (s : State) (f : Core → Core) : (mapMe s f).msixPend = s.msixPend := rfl
@[simp] theorem mapMe_profmask (s : State) (f : Core → Core) : (mapMe s f).profmask = s.profmask := rfl
@[simp] theorem mapMe_acl (s : State) (f : Core → Core) : (mapMe s f).acl = s.acl := rfl
@[simp] theorem mapMe_lucnt (s : State) (f : Core → Core) : (mapMe s f).lucnt = s.lucnt := rfl
@[simp] theorem mapMe_hbm (s : State) (f : Core → Core) : (mapMe s f).hbm = s.hbm := rfl
@[simp] theorem mapMe_hbmPoison (s : State) (f : Core → Core) : (mapMe s f).hbmPoison = s.hbmPoison := rfl
@[simp] theorem mapMe_hostMem (s : State) (f : Core → Core) : (mapMe s f).hostMem = s.hostMem := rfl
@[simp] theorem mapMe_planes (s : State) (f : Core → Core) : (mapMe s f).planes = s.planes := rfl
@[simp] theorem mapMe_pmap (s : State) (f : Core → Core) : (mapMe s f).pmap = s.pmap := rfl
@[simp] theorem mapMe_rehashes (s : State) (f : Core → Core) : (mapMe s f).rehashes = s.rehashes := rfl
@[simp] theorem mapMe_rehash (s : State) (f : Core → Core) : (mapMe s f).rehash = s.rehash := rfl
@[simp] theorem mapMe_rehashed (s : State) (f : Core → Core) : (mapMe s f).rehashed = s.rehashed := rfl
@[simp] theorem mapMe_plDetail (s : State) (f : Core → Core) : (mapMe s f).plDetail = s.plDetail := rfl
@[simp] theorem mapMe_reqs (s : State) (f : Core → Core) : (mapMe s f).reqs = s.reqs := rfl
@[simp] theorem mapMe_fetches (s : State) (f : Core → Core) : (mapMe s f).fetches = s.fetches := rfl
@[simp] theorem mapMe_partials (s : State) (f : Core → Core) : (mapMe s f).partials = s.partials := rfl
@[simp] theorem mapMe_deliveries (s : State) (f : Core → Core) : (mapMe s f).deliveries = s.deliveries := rfl
@[simp] theorem mapMe_migs (s : State) (f : Core → Core) : (mapMe s f).migs = s.migs := rfl
@[simp] theorem mapMe_links (s : State) (f : Core → Core) : (mapMe s f).links = s.links := rfl
@[simp] theorem mapMe_ctxs (s : State) (f : Core → Core) : (mapMe s f).ctxs = s.ctxs := rfl
@[simp] theorem mapMe_kernels (s : State) (f : Core → Core) : (mapMe s f).kernels = s.kernels := rfl
@[simp] theorem mapMe_ckpt (s : State) (f : Core → Core) : (mapMe s f).ckpt = s.ckpt := rfl
@[simp] theorem mapMe_barReads (s : State) (f : Core → Core) : (mapMe s f).barReads = s.barReads := rfl
@[simp] theorem mapMe_barResp (s : State) (f : Core → Core) : (mapMe s f).barResp = s.barResp := rfl
@[simp] theorem mapMe_lastQ (s : State) (f : Core → Core) : (mapMe s f).lastQ = s.lastQ := rfl
@[simp] theorem mapMe_ctxpend (s : State) (f : Core → Core) : (mapMe s f).ctxpend = s.ctxpend := rfl
@[simp] theorem mapMe_savePos (s : State) (f : Core → Core) : (mapMe s f).savePos = s.savePos := rfl
@[simp] theorem mapMe_cur (s : State) (f : Core → Core) : (mapMe s f).cur = s.cur := rfl
@[simp] theorem mapMe_agenda (s : State) (f : Core → Core) : (mapMe s f).agenda = s.agenda := rfl
@[simp] theorem mapMe_nextId (s : State) (f : Core → Core) : (mapMe s f).nextId = s.nextId := rfl
@[simp] theorem mapMe_nextK (s : State) (f : Core → Core) : (mapMe s f).nextK = s.nextK := rfl
@[simp] theorem mapMe_freeCtr (s : State) (f : Core → Core) : (mapMe s f).freeCtr = s.freeCtr := rfl
@[simp] theorem mapMe_clk (s : State) (f : Core → Core) : (mapMe s f).clk = s.clk := rfl
@[simp] theorem mapMe_beat (s : State) (f : Core → Core) : (mapMe s f).beat = s.beat := rfl

@[simp] theorem fly_boot (i : Bool) (l : Nat) (d : Landing) (s : State) : (fly i l d s).boot = s.boot := rfl
@[simp] theorem fly_bootstat (i : Bool) (l : Nat) (d : Landing) (s : State) : (fly i l d s).bootstat = s.bootstat := rfl
@[simp] theorem fly_listed (i : Bool) (l : Nat) (d : Landing) (s : State) : (fly i l d s).listed = s.listed := rfl
@[simp] theorem fly_apbase (i : Bool) (l : Nat) (d : Landing) (s : State) : (fly i l d s).apbase = s.apbase := rfl
@[simp] theorem fly_bar2log (i : Bool) (l : Nat) (d : Landing) (s : State) : (fly i l d s).bar2log = s.bar2log := rfl
@[simp] theorem fly_dbdrop (i : Bool) (l : Nat) (d : Landing) (s : State) : (fly i l d s).dbdrop = s.dbdrop := rfl
@[simp] theorem fly_attdone (i : Bool) (l : Nat) (d : Landing) (s : State) : (fly i l d s).attdone = s.attdone := rfl
@[simp] theorem fly_attaddr (i : Bool) (l : Nat) (d : Landing) (s : State) : (fly i l d s).attaddr = s.attaddr := rfl
@[simp] theorem fly_attnonce (i : Bool) (l : Nat) (d : Landing) (s : State) : (fly i l d s).attnonce = s.attnonce := rfl
@[simp] theorem fly_attbusy (i : Bool) (l : Nat) (d : Landing) (s : State) : (fly i l d s).attbusy = s.attbusy := rfl
@[simp] theorem fly_mreg (i : Bool) (l : Nat) (d : Landing) (s : State) : (fly i l d s).mreg = s.mreg := rfl
@[simp] theorem fly_fenced (i : Bool) (l : Nat) (d : Landing) (s : State) : (fly i l d s).fenced = s.fenced := rfl
@[simp] theorem fly_fencedBays (i : Bool) (l : Nat) (d : Landing) (s : State) : (fly i l d s).fencedBays = s.fencedBays := rfl
@[simp] theorem fly_retired (i : Bool) (l : Nat) (d : Landing) (s : State) : (fly i l d s).retired = s.retired := rfl
@[simp] theorem fly_watts (i : Bool) (l : Nat) (d : Landing) (s : State) : (fly i l d s).watts = s.watts := rfl
@[simp] theorem fly_mhz (i : Bool) (l : Nat) (d : Landing) (s : State) : (fly i l d s).mhz = s.mhz := rfl
@[simp] theorem fly_overMs (i : Bool) (l : Nat) (d : Landing) (s : State) : (fly i l d s).overMs = s.overMs := rfl
@[simp] theorem fly_pgate (i : Bool) (l : Nat) (d : Landing) (s : State) : (fly i l d s).pgate = s.pgate := rfl
@[simp] theorem fly_ctxdesc (i : Bool) (l : Nat) (d : Landing) (s : State) : (fly i l d s).ctxdesc = s.ctxdesc := rfl
@[simp] theorem fly_ctxstat (i : Bool) (l : Nat) (d : Landing) (s : State) : (fly i l d s).ctxstat = s.ctxstat := rfl
@[simp] theorem fly_qsel (i : Bool) (l : Nat) (d : Landing) (s : State) : (fly i l d s).qsel = s.qsel := rfl
@[simp] theorem fly_pgiaddr (i : Bool) (l : Nat) (d : Landing) (s : State) : (fly i l d s).pgiaddr = s.pgiaddr := rfl
@[simp] theorem fly_pgiarg (i : Bool) (l : Nat) (d : Landing) (s : State) : (fly i l d s).pgiarg = s.pgiarg := rfl
@[simp] theorem fly_pgicmd (i : Bool) (l : Nat) (d : Landing) (s : State) : (fly i l d s).pgicmd = s.pgicmd := rfl
@[simp] theorem fly_devid (i : Bool) (l : Nat) (d : Landing) (s : State) : (fly i l d s).devid = s.devid := rfl
@[simp] theorem fly_msixTable (i : Bool) (l : Nat) (d : Landing) (s : State) : (fly i l d s).msixTable = s.msixTable := rfl
@[simp] theorem fly_msixPend (i : Bool) (l : Nat) (d : Landing) (s : State) : (fly i l d s).msixPend = s.msixPend := rfl
@[simp] theorem fly_profmask (i : Bool) (l : Nat) (d : Landing) (s : State) : (fly i l d s).profmask = s.profmask := rfl
@[simp] theorem fly_acl (i : Bool) (l : Nat) (d : Landing) (s : State) : (fly i l d s).acl = s.acl := rfl
@[simp] theorem fly_lucnt (i : Bool) (l : Nat) (d : Landing) (s : State) : (fly i l d s).lucnt = s.lucnt := rfl
@[simp] theorem fly_hbm (i : Bool) (l : Nat) (d : Landing) (s : State) : (fly i l d s).hbm = s.hbm := rfl
@[simp] theorem fly_hbmPoison (i : Bool) (l : Nat) (d : Landing) (s : State) : (fly i l d s).hbmPoison = s.hbmPoison := rfl
@[simp] theorem fly_hostMem (i : Bool) (l : Nat) (d : Landing) (s : State) : (fly i l d s).hostMem = s.hostMem := rfl
@[simp] theorem fly_planes (i : Bool) (l : Nat) (d : Landing) (s : State) : (fly i l d s).planes = s.planes := rfl
@[simp] theorem fly_pmap (i : Bool) (l : Nat) (d : Landing) (s : State) : (fly i l d s).pmap = s.pmap := rfl
@[simp] theorem fly_rehashes (i : Bool) (l : Nat) (d : Landing) (s : State) : (fly i l d s).rehashes = s.rehashes := rfl
@[simp] theorem fly_rehash (i : Bool) (l : Nat) (d : Landing) (s : State) : (fly i l d s).rehash = s.rehash := rfl
@[simp] theorem fly_rehashed (i : Bool) (l : Nat) (d : Landing) (s : State) : (fly i l d s).rehashed = s.rehashed := rfl
@[simp] theorem fly_plDetail (i : Bool) (l : Nat) (d : Landing) (s : State) : (fly i l d s).plDetail = s.plDetail := rfl
@[simp] theorem fly_reqs (i : Bool) (l : Nat) (d : Landing) (s : State) : (fly i l d s).reqs = s.reqs := rfl
@[simp] theorem fly_fetches (i : Bool) (l : Nat) (d : Landing) (s : State) : (fly i l d s).fetches = s.fetches := rfl
@[simp] theorem fly_partials (i : Bool) (l : Nat) (d : Landing) (s : State) : (fly i l d s).partials = s.partials := rfl
@[simp] theorem fly_deliveries (i : Bool) (l : Nat) (d : Landing) (s : State) : (fly i l d s).deliveries = s.deliveries := rfl
@[simp] theorem fly_migs (i : Bool) (l : Nat) (d : Landing) (s : State) : (fly i l d s).migs = s.migs := rfl
@[simp] theorem fly_links (i : Bool) (l : Nat) (d : Landing) (s : State) : (fly i l d s).links = s.links := rfl
@[simp] theorem fly_ctxs (i : Bool) (l : Nat) (d : Landing) (s : State) : (fly i l d s).ctxs = s.ctxs := rfl
@[simp] theorem fly_kernels (i : Bool) (l : Nat) (d : Landing) (s : State) : (fly i l d s).kernels = s.kernels := rfl
@[simp] theorem fly_ckpt (i : Bool) (l : Nat) (d : Landing) (s : State) : (fly i l d s).ckpt = s.ckpt := rfl
@[simp] theorem fly_barReads (i : Bool) (l : Nat) (d : Landing) (s : State) : (fly i l d s).barReads = s.barReads := rfl
@[simp] theorem fly_barResp (i : Bool) (l : Nat) (d : Landing) (s : State) : (fly i l d s).barResp = s.barResp := rfl
@[simp] theorem fly_lastQ (i : Bool) (l : Nat) (d : Landing) (s : State) : (fly i l d s).lastQ = s.lastQ := rfl
@[simp] theorem fly_ctxpend (i : Bool) (l : Nat) (d : Landing) (s : State) : (fly i l d s).ctxpend = s.ctxpend := rfl
@[simp] theorem fly_savePos (i : Bool) (l : Nat) (d : Landing) (s : State) : (fly i l d s).savePos = s.savePos := rfl
@[simp] theorem fly_cur (i : Bool) (l : Nat) (d : Landing) (s : State) : (fly i l d s).cur = s.cur := rfl
@[simp] theorem fly_agenda (i : Bool) (l : Nat) (d : Landing) (s : State) : (fly i l d s).agenda = s.agenda := rfl
@[simp] theorem fly_nextId (i : Bool) (l : Nat) (d : Landing) (s : State) : (fly i l d s).nextId = s.nextId := rfl
@[simp] theorem fly_nextK (i : Bool) (l : Nat) (d : Landing) (s : State) : (fly i l d s).nextK = s.nextK := rfl
@[simp] theorem fly_freeCtr (i : Bool) (l : Nat) (d : Landing) (s : State) : (fly i l d s).freeCtr = s.freeCtr := rfl
@[simp] theorem fly_clk (i : Bool) (l : Nat) (d : Landing) (s : State) : (fly i l d s).clk = s.clk := rfl
@[simp] theorem fly_beat (i : Bool) (l : Nat) (d : Landing) (s : State) : (fly i l d s).beat = s.beat := rfl

/-! ## Kernels and groups -/


@[simp] theorem mapKernel_boot (s : State) (k : Nat) (f : Kernel → Kernel) : (mapKernel s k f).boot = s.boot := rfl
@[simp] theorem mapKernel_bootstat (s : State) (k : Nat) (f : Kernel → Kernel) : (mapKernel s k f).bootstat = s.bootstat := rfl
@[simp] theorem mapKernel_listed (s : State) (k : Nat) (f : Kernel → Kernel) : (mapKernel s k f).listed = s.listed := rfl
@[simp] theorem mapKernel_apbase (s : State) (k : Nat) (f : Kernel → Kernel) : (mapKernel s k f).apbase = s.apbase := rfl
@[simp] theorem mapKernel_bar2log (s : State) (k : Nat) (f : Kernel → Kernel) : (mapKernel s k f).bar2log = s.bar2log := rfl
@[simp] theorem mapKernel_dbdrop (s : State) (k : Nat) (f : Kernel → Kernel) : (mapKernel s k f).dbdrop = s.dbdrop := rfl
@[simp] theorem mapKernel_attdone (s : State) (k : Nat) (f : Kernel → Kernel) : (mapKernel s k f).attdone = s.attdone := rfl
@[simp] theorem mapKernel_attaddr (s : State) (k : Nat) (f : Kernel → Kernel) : (mapKernel s k f).attaddr = s.attaddr := rfl
@[simp] theorem mapKernel_attnonce (s : State) (k : Nat) (f : Kernel → Kernel) : (mapKernel s k f).attnonce = s.attnonce := rfl
@[simp] theorem mapKernel_attbusy (s : State) (k : Nat) (f : Kernel → Kernel) : (mapKernel s k f).attbusy = s.attbusy := rfl
@[simp] theorem mapKernel_mreg (s : State) (k : Nat) (f : Kernel → Kernel) : (mapKernel s k f).mreg = s.mreg := rfl
@[simp] theorem mapKernel_fenced (s : State) (k : Nat) (f : Kernel → Kernel) : (mapKernel s k f).fenced = s.fenced := rfl
@[simp] theorem mapKernel_fencedBays (s : State) (k : Nat) (f : Kernel → Kernel) : (mapKernel s k f).fencedBays = s.fencedBays := rfl
@[simp] theorem mapKernel_retired (s : State) (k : Nat) (f : Kernel → Kernel) : (mapKernel s k f).retired = s.retired := rfl
@[simp] theorem mapKernel_watts (s : State) (k : Nat) (f : Kernel → Kernel) : (mapKernel s k f).watts = s.watts := rfl
@[simp] theorem mapKernel_mhz (s : State) (k : Nat) (f : Kernel → Kernel) : (mapKernel s k f).mhz = s.mhz := rfl
@[simp] theorem mapKernel_overMs (s : State) (k : Nat) (f : Kernel → Kernel) : (mapKernel s k f).overMs = s.overMs := rfl
@[simp] theorem mapKernel_pgate (s : State) (k : Nat) (f : Kernel → Kernel) : (mapKernel s k f).pgate = s.pgate := rfl
@[simp] theorem mapKernel_ctxdesc (s : State) (k : Nat) (f : Kernel → Kernel) : (mapKernel s k f).ctxdesc = s.ctxdesc := rfl
@[simp] theorem mapKernel_ctxstat (s : State) (k : Nat) (f : Kernel → Kernel) : (mapKernel s k f).ctxstat = s.ctxstat := rfl
@[simp] theorem mapKernel_qsel (s : State) (k : Nat) (f : Kernel → Kernel) : (mapKernel s k f).qsel = s.qsel := rfl
@[simp] theorem mapKernel_pgiaddr (s : State) (k : Nat) (f : Kernel → Kernel) : (mapKernel s k f).pgiaddr = s.pgiaddr := rfl
@[simp] theorem mapKernel_pgiarg (s : State) (k : Nat) (f : Kernel → Kernel) : (mapKernel s k f).pgiarg = s.pgiarg := rfl
@[simp] theorem mapKernel_pgicmd (s : State) (k : Nat) (f : Kernel → Kernel) : (mapKernel s k f).pgicmd = s.pgicmd := rfl
@[simp] theorem mapKernel_devid (s : State) (k : Nat) (f : Kernel → Kernel) : (mapKernel s k f).devid = s.devid := rfl
@[simp] theorem mapKernel_msixTable (s : State) (k : Nat) (f : Kernel → Kernel) : (mapKernel s k f).msixTable = s.msixTable := rfl
@[simp] theorem mapKernel_msixPend (s : State) (k : Nat) (f : Kernel → Kernel) : (mapKernel s k f).msixPend = s.msixPend := rfl
@[simp] theorem mapKernel_profmask (s : State) (k : Nat) (f : Kernel → Kernel) : (mapKernel s k f).profmask = s.profmask := rfl
@[simp] theorem mapKernel_acl (s : State) (k : Nat) (f : Kernel → Kernel) : (mapKernel s k f).acl = s.acl := rfl
@[simp] theorem mapKernel_lucnt (s : State) (k : Nat) (f : Kernel → Kernel) : (mapKernel s k f).lucnt = s.lucnt := rfl
@[simp] theorem mapKernel_hbm (s : State) (k : Nat) (f : Kernel → Kernel) : (mapKernel s k f).hbm = s.hbm := rfl
@[simp] theorem mapKernel_hbmPoison (s : State) (k : Nat) (f : Kernel → Kernel) : (mapKernel s k f).hbmPoison = s.hbmPoison := rfl
@[simp] theorem mapKernel_hostMem (s : State) (k : Nat) (f : Kernel → Kernel) : (mapKernel s k f).hostMem = s.hostMem := rfl
@[simp] theorem mapKernel_planes (s : State) (k : Nat) (f : Kernel → Kernel) : (mapKernel s k f).planes = s.planes := rfl
@[simp] theorem mapKernel_pmap (s : State) (k : Nat) (f : Kernel → Kernel) : (mapKernel s k f).pmap = s.pmap := rfl
@[simp] theorem mapKernel_rehashes (s : State) (k : Nat) (f : Kernel → Kernel) : (mapKernel s k f).rehashes = s.rehashes := rfl
@[simp] theorem mapKernel_rehash (s : State) (k : Nat) (f : Kernel → Kernel) : (mapKernel s k f).rehash = s.rehash := rfl
@[simp] theorem mapKernel_rehashed (s : State) (k : Nat) (f : Kernel → Kernel) : (mapKernel s k f).rehashed = s.rehashed := rfl
@[simp] theorem mapKernel_plDetail (s : State) (k : Nat) (f : Kernel → Kernel) : (mapKernel s k f).plDetail = s.plDetail := rfl
@[simp] theorem mapKernel_reqs (s : State) (k : Nat) (f : Kernel → Kernel) : (mapKernel s k f).reqs = s.reqs := rfl
@[simp] theorem mapKernel_fetches (s : State) (k : Nat) (f : Kernel → Kernel) : (mapKernel s k f).fetches = s.fetches := rfl
@[simp] theorem mapKernel_partials (s : State) (k : Nat) (f : Kernel → Kernel) : (mapKernel s k f).partials = s.partials := rfl
@[simp] theorem mapKernel_deliveries (s : State) (k : Nat) (f : Kernel → Kernel) : (mapKernel s k f).deliveries = s.deliveries := rfl
@[simp] theorem mapKernel_migs (s : State) (k : Nat) (f : Kernel → Kernel) : (mapKernel s k f).migs = s.migs := rfl
@[simp] theorem mapKernel_links (s : State) (k : Nat) (f : Kernel → Kernel) : (mapKernel s k f).links = s.links := rfl
@[simp] theorem mapKernel_ctxs (s : State) (k : Nat) (f : Kernel → Kernel) : (mapKernel s k f).ctxs = s.ctxs := rfl
@[simp] theorem mapKernel_cores (s : State) (k : Nat) (f : Kernel → Kernel) : (mapKernel s k f).cores = s.cores := rfl
@[simp] theorem mapKernel_ckpt (s : State) (k : Nat) (f : Kernel → Kernel) : (mapKernel s k f).ckpt = s.ckpt := rfl
@[simp] theorem mapKernel_barReads (s : State) (k : Nat) (f : Kernel → Kernel) : (mapKernel s k f).barReads = s.barReads := rfl
@[simp] theorem mapKernel_barResp (s : State) (k : Nat) (f : Kernel → Kernel) : (mapKernel s k f).barResp = s.barResp := rfl
@[simp] theorem mapKernel_lastQ (s : State) (k : Nat) (f : Kernel → Kernel) : (mapKernel s k f).lastQ = s.lastQ := rfl
@[simp] theorem mapKernel_ctxpend (s : State) (k : Nat) (f : Kernel → Kernel) : (mapKernel s k f).ctxpend = s.ctxpend := rfl
@[simp] theorem mapKernel_savePos (s : State) (k : Nat) (f : Kernel → Kernel) : (mapKernel s k f).savePos = s.savePos := rfl
@[simp] theorem mapKernel_cur (s : State) (k : Nat) (f : Kernel → Kernel) : (mapKernel s k f).cur = s.cur := rfl
@[simp] theorem mapKernel_agenda (s : State) (k : Nat) (f : Kernel → Kernel) : (mapKernel s k f).agenda = s.agenda := rfl
@[simp] theorem mapKernel_nextId (s : State) (k : Nat) (f : Kernel → Kernel) : (mapKernel s k f).nextId = s.nextId := rfl
@[simp] theorem mapKernel_nextK (s : State) (k : Nat) (f : Kernel → Kernel) : (mapKernel s k f).nextK = s.nextK := rfl
@[simp] theorem mapKernel_freeCtr (s : State) (k : Nat) (f : Kernel → Kernel) : (mapKernel s k f).freeCtr = s.freeCtr := rfl
@[simp] theorem mapKernel_clk (s : State) (k : Nat) (f : Kernel → Kernel) : (mapKernel s k f).clk = s.clk := rfl
@[simp] theorem mapKernel_beat (s : State) (k : Nat) (f : Kernel → Kernel) : (mapKernel s k f).beat = s.beat := rfl

@[simp] theorem mapGroup_boot (s : State) (k g : Nat) (f : Group → Group) : (mapGroup s k g f).boot = s.boot := rfl
@[simp] theorem mapGroup_bootstat (s : State) (k g : Nat) (f : Group → Group) : (mapGroup s k g f).bootstat = s.bootstat := rfl
@[simp] theorem mapGroup_listed (s : State) (k g : Nat) (f : Group → Group) : (mapGroup s k g f).listed = s.listed := rfl
@[simp] theorem mapGroup_apbase (s : State) (k g : Nat) (f : Group → Group) : (mapGroup s k g f).apbase = s.apbase := rfl
@[simp] theorem mapGroup_bar2log (s : State) (k g : Nat) (f : Group → Group) : (mapGroup s k g f).bar2log = s.bar2log := rfl
@[simp] theorem mapGroup_dbdrop (s : State) (k g : Nat) (f : Group → Group) : (mapGroup s k g f).dbdrop = s.dbdrop := rfl
@[simp] theorem mapGroup_attdone (s : State) (k g : Nat) (f : Group → Group) : (mapGroup s k g f).attdone = s.attdone := rfl
@[simp] theorem mapGroup_attaddr (s : State) (k g : Nat) (f : Group → Group) : (mapGroup s k g f).attaddr = s.attaddr := rfl
@[simp] theorem mapGroup_attnonce (s : State) (k g : Nat) (f : Group → Group) : (mapGroup s k g f).attnonce = s.attnonce := rfl
@[simp] theorem mapGroup_attbusy (s : State) (k g : Nat) (f : Group → Group) : (mapGroup s k g f).attbusy = s.attbusy := rfl
@[simp] theorem mapGroup_mreg (s : State) (k g : Nat) (f : Group → Group) : (mapGroup s k g f).mreg = s.mreg := rfl
@[simp] theorem mapGroup_fenced (s : State) (k g : Nat) (f : Group → Group) : (mapGroup s k g f).fenced = s.fenced := rfl
@[simp] theorem mapGroup_fencedBays (s : State) (k g : Nat) (f : Group → Group) : (mapGroup s k g f).fencedBays = s.fencedBays := rfl
@[simp] theorem mapGroup_retired (s : State) (k g : Nat) (f : Group → Group) : (mapGroup s k g f).retired = s.retired := rfl
@[simp] theorem mapGroup_watts (s : State) (k g : Nat) (f : Group → Group) : (mapGroup s k g f).watts = s.watts := rfl
@[simp] theorem mapGroup_mhz (s : State) (k g : Nat) (f : Group → Group) : (mapGroup s k g f).mhz = s.mhz := rfl
@[simp] theorem mapGroup_overMs (s : State) (k g : Nat) (f : Group → Group) : (mapGroup s k g f).overMs = s.overMs := rfl
@[simp] theorem mapGroup_pgate (s : State) (k g : Nat) (f : Group → Group) : (mapGroup s k g f).pgate = s.pgate := rfl
@[simp] theorem mapGroup_ctxdesc (s : State) (k g : Nat) (f : Group → Group) : (mapGroup s k g f).ctxdesc = s.ctxdesc := rfl
@[simp] theorem mapGroup_ctxstat (s : State) (k g : Nat) (f : Group → Group) : (mapGroup s k g f).ctxstat = s.ctxstat := rfl
@[simp] theorem mapGroup_qsel (s : State) (k g : Nat) (f : Group → Group) : (mapGroup s k g f).qsel = s.qsel := rfl
@[simp] theorem mapGroup_pgiaddr (s : State) (k g : Nat) (f : Group → Group) : (mapGroup s k g f).pgiaddr = s.pgiaddr := rfl
@[simp] theorem mapGroup_pgiarg (s : State) (k g : Nat) (f : Group → Group) : (mapGroup s k g f).pgiarg = s.pgiarg := rfl
@[simp] theorem mapGroup_pgicmd (s : State) (k g : Nat) (f : Group → Group) : (mapGroup s k g f).pgicmd = s.pgicmd := rfl
@[simp] theorem mapGroup_devid (s : State) (k g : Nat) (f : Group → Group) : (mapGroup s k g f).devid = s.devid := rfl
@[simp] theorem mapGroup_msixTable (s : State) (k g : Nat) (f : Group → Group) : (mapGroup s k g f).msixTable = s.msixTable := rfl
@[simp] theorem mapGroup_msixPend (s : State) (k g : Nat) (f : Group → Group) : (mapGroup s k g f).msixPend = s.msixPend := rfl
@[simp] theorem mapGroup_profmask (s : State) (k g : Nat) (f : Group → Group) : (mapGroup s k g f).profmask = s.profmask := rfl
@[simp] theorem mapGroup_acl (s : State) (k g : Nat) (f : Group → Group) : (mapGroup s k g f).acl = s.acl := rfl
@[simp] theorem mapGroup_lucnt (s : State) (k g : Nat) (f : Group → Group) : (mapGroup s k g f).lucnt = s.lucnt := rfl
@[simp] theorem mapGroup_hbm (s : State) (k g : Nat) (f : Group → Group) : (mapGroup s k g f).hbm = s.hbm := rfl
@[simp] theorem mapGroup_hbmPoison (s : State) (k g : Nat) (f : Group → Group) : (mapGroup s k g f).hbmPoison = s.hbmPoison := rfl
@[simp] theorem mapGroup_hostMem (s : State) (k g : Nat) (f : Group → Group) : (mapGroup s k g f).hostMem = s.hostMem := rfl
@[simp] theorem mapGroup_planes (s : State) (k g : Nat) (f : Group → Group) : (mapGroup s k g f).planes = s.planes := rfl
@[simp] theorem mapGroup_pmap (s : State) (k g : Nat) (f : Group → Group) : (mapGroup s k g f).pmap = s.pmap := rfl
@[simp] theorem mapGroup_rehashes (s : State) (k g : Nat) (f : Group → Group) : (mapGroup s k g f).rehashes = s.rehashes := rfl
@[simp] theorem mapGroup_rehash (s : State) (k g : Nat) (f : Group → Group) : (mapGroup s k g f).rehash = s.rehash := rfl
@[simp] theorem mapGroup_rehashed (s : State) (k g : Nat) (f : Group → Group) : (mapGroup s k g f).rehashed = s.rehashed := rfl
@[simp] theorem mapGroup_plDetail (s : State) (k g : Nat) (f : Group → Group) : (mapGroup s k g f).plDetail = s.plDetail := rfl
@[simp] theorem mapGroup_reqs (s : State) (k g : Nat) (f : Group → Group) : (mapGroup s k g f).reqs = s.reqs := rfl
@[simp] theorem mapGroup_fetches (s : State) (k g : Nat) (f : Group → Group) : (mapGroup s k g f).fetches = s.fetches := rfl
@[simp] theorem mapGroup_partials (s : State) (k g : Nat) (f : Group → Group) : (mapGroup s k g f).partials = s.partials := rfl
@[simp] theorem mapGroup_deliveries (s : State) (k g : Nat) (f : Group → Group) : (mapGroup s k g f).deliveries = s.deliveries := rfl
@[simp] theorem mapGroup_migs (s : State) (k g : Nat) (f : Group → Group) : (mapGroup s k g f).migs = s.migs := rfl
@[simp] theorem mapGroup_links (s : State) (k g : Nat) (f : Group → Group) : (mapGroup s k g f).links = s.links := rfl
@[simp] theorem mapGroup_ctxs (s : State) (k g : Nat) (f : Group → Group) : (mapGroup s k g f).ctxs = s.ctxs := rfl
@[simp] theorem mapGroup_cores (s : State) (k g : Nat) (f : Group → Group) : (mapGroup s k g f).cores = s.cores := rfl
@[simp] theorem mapGroup_ckpt (s : State) (k g : Nat) (f : Group → Group) : (mapGroup s k g f).ckpt = s.ckpt := rfl
@[simp] theorem mapGroup_barReads (s : State) (k g : Nat) (f : Group → Group) : (mapGroup s k g f).barReads = s.barReads := rfl
@[simp] theorem mapGroup_barResp (s : State) (k g : Nat) (f : Group → Group) : (mapGroup s k g f).barResp = s.barResp := rfl
@[simp] theorem mapGroup_lastQ (s : State) (k g : Nat) (f : Group → Group) : (mapGroup s k g f).lastQ = s.lastQ := rfl
@[simp] theorem mapGroup_ctxpend (s : State) (k g : Nat) (f : Group → Group) : (mapGroup s k g f).ctxpend = s.ctxpend := rfl
@[simp] theorem mapGroup_savePos (s : State) (k g : Nat) (f : Group → Group) : (mapGroup s k g f).savePos = s.savePos := rfl
@[simp] theorem mapGroup_cur (s : State) (k g : Nat) (f : Group → Group) : (mapGroup s k g f).cur = s.cur := rfl
@[simp] theorem mapGroup_agenda (s : State) (k g : Nat) (f : Group → Group) : (mapGroup s k g f).agenda = s.agenda := rfl
@[simp] theorem mapGroup_nextId (s : State) (k g : Nat) (f : Group → Group) : (mapGroup s k g f).nextId = s.nextId := rfl
@[simp] theorem mapGroup_nextK (s : State) (k g : Nat) (f : Group → Group) : (mapGroup s k g f).nextK = s.nextK := rfl
@[simp] theorem mapGroup_freeCtr (s : State) (k g : Nat) (f : Group → Group) : (mapGroup s k g f).freeCtr = s.freeCtr := rfl
@[simp] theorem mapGroup_clk (s : State) (k g : Nat) (f : Group → Group) : (mapGroup s k g f).clk = s.clk := rfl
@[simp] theorem mapGroup_beat (s : State) (k g : Nat) (f : Group → Group) : (mapGroup s k g f).beat = s.beat := rfl

/-! ## Contexts, queues, links -/


@[simp] theorem setCtx_boot (s : State) (n : Nat) (x : Ctx) : (setCtx s n x).boot = s.boot := rfl
@[simp] theorem setCtx_bootstat (s : State) (n : Nat) (x : Ctx) : (setCtx s n x).bootstat = s.bootstat := rfl
@[simp] theorem setCtx_listed (s : State) (n : Nat) (x : Ctx) : (setCtx s n x).listed = s.listed := rfl
@[simp] theorem setCtx_apbase (s : State) (n : Nat) (x : Ctx) : (setCtx s n x).apbase = s.apbase := rfl
@[simp] theorem setCtx_bar2log (s : State) (n : Nat) (x : Ctx) : (setCtx s n x).bar2log = s.bar2log := rfl
@[simp] theorem setCtx_dbdrop (s : State) (n : Nat) (x : Ctx) : (setCtx s n x).dbdrop = s.dbdrop := rfl
@[simp] theorem setCtx_attdone (s : State) (n : Nat) (x : Ctx) : (setCtx s n x).attdone = s.attdone := rfl
@[simp] theorem setCtx_attaddr (s : State) (n : Nat) (x : Ctx) : (setCtx s n x).attaddr = s.attaddr := rfl
@[simp] theorem setCtx_attnonce (s : State) (n : Nat) (x : Ctx) : (setCtx s n x).attnonce = s.attnonce := rfl
@[simp] theorem setCtx_attbusy (s : State) (n : Nat) (x : Ctx) : (setCtx s n x).attbusy = s.attbusy := rfl
@[simp] theorem setCtx_mreg (s : State) (n : Nat) (x : Ctx) : (setCtx s n x).mreg = s.mreg := rfl
@[simp] theorem setCtx_fenced (s : State) (n : Nat) (x : Ctx) : (setCtx s n x).fenced = s.fenced := rfl
@[simp] theorem setCtx_fencedBays (s : State) (n : Nat) (x : Ctx) : (setCtx s n x).fencedBays = s.fencedBays := rfl
@[simp] theorem setCtx_retired (s : State) (n : Nat) (x : Ctx) : (setCtx s n x).retired = s.retired := rfl
@[simp] theorem setCtx_watts (s : State) (n : Nat) (x : Ctx) : (setCtx s n x).watts = s.watts := rfl
@[simp] theorem setCtx_mhz (s : State) (n : Nat) (x : Ctx) : (setCtx s n x).mhz = s.mhz := rfl
@[simp] theorem setCtx_overMs (s : State) (n : Nat) (x : Ctx) : (setCtx s n x).overMs = s.overMs := rfl
@[simp] theorem setCtx_pgate (s : State) (n : Nat) (x : Ctx) : (setCtx s n x).pgate = s.pgate := rfl
@[simp] theorem setCtx_ctxdesc (s : State) (n : Nat) (x : Ctx) : (setCtx s n x).ctxdesc = s.ctxdesc := rfl
@[simp] theorem setCtx_ctxstat (s : State) (n : Nat) (x : Ctx) : (setCtx s n x).ctxstat = s.ctxstat := rfl
@[simp] theorem setCtx_qsel (s : State) (n : Nat) (x : Ctx) : (setCtx s n x).qsel = s.qsel := rfl
@[simp] theorem setCtx_pgiaddr (s : State) (n : Nat) (x : Ctx) : (setCtx s n x).pgiaddr = s.pgiaddr := rfl
@[simp] theorem setCtx_pgiarg (s : State) (n : Nat) (x : Ctx) : (setCtx s n x).pgiarg = s.pgiarg := rfl
@[simp] theorem setCtx_pgicmd (s : State) (n : Nat) (x : Ctx) : (setCtx s n x).pgicmd = s.pgicmd := rfl
@[simp] theorem setCtx_devid (s : State) (n : Nat) (x : Ctx) : (setCtx s n x).devid = s.devid := rfl
@[simp] theorem setCtx_msixTable (s : State) (n : Nat) (x : Ctx) : (setCtx s n x).msixTable = s.msixTable := rfl
@[simp] theorem setCtx_msixPend (s : State) (n : Nat) (x : Ctx) : (setCtx s n x).msixPend = s.msixPend := rfl
@[simp] theorem setCtx_profmask (s : State) (n : Nat) (x : Ctx) : (setCtx s n x).profmask = s.profmask := rfl
@[simp] theorem setCtx_acl (s : State) (n : Nat) (x : Ctx) : (setCtx s n x).acl = s.acl := rfl
@[simp] theorem setCtx_lucnt (s : State) (n : Nat) (x : Ctx) : (setCtx s n x).lucnt = s.lucnt := rfl
@[simp] theorem setCtx_hbm (s : State) (n : Nat) (x : Ctx) : (setCtx s n x).hbm = s.hbm := rfl
@[simp] theorem setCtx_hbmPoison (s : State) (n : Nat) (x : Ctx) : (setCtx s n x).hbmPoison = s.hbmPoison := rfl
@[simp] theorem setCtx_hostMem (s : State) (n : Nat) (x : Ctx) : (setCtx s n x).hostMem = s.hostMem := rfl
@[simp] theorem setCtx_planes (s : State) (n : Nat) (x : Ctx) : (setCtx s n x).planes = s.planes := rfl
@[simp] theorem setCtx_pmap (s : State) (n : Nat) (x : Ctx) : (setCtx s n x).pmap = s.pmap := rfl
@[simp] theorem setCtx_rehashes (s : State) (n : Nat) (x : Ctx) : (setCtx s n x).rehashes = s.rehashes := rfl
@[simp] theorem setCtx_rehash (s : State) (n : Nat) (x : Ctx) : (setCtx s n x).rehash = s.rehash := rfl
@[simp] theorem setCtx_rehashed (s : State) (n : Nat) (x : Ctx) : (setCtx s n x).rehashed = s.rehashed := rfl
@[simp] theorem setCtx_plDetail (s : State) (n : Nat) (x : Ctx) : (setCtx s n x).plDetail = s.plDetail := rfl
@[simp] theorem setCtx_reqs (s : State) (n : Nat) (x : Ctx) : (setCtx s n x).reqs = s.reqs := rfl
@[simp] theorem setCtx_fetches (s : State) (n : Nat) (x : Ctx) : (setCtx s n x).fetches = s.fetches := rfl
@[simp] theorem setCtx_partials (s : State) (n : Nat) (x : Ctx) : (setCtx s n x).partials = s.partials := rfl
@[simp] theorem setCtx_deliveries (s : State) (n : Nat) (x : Ctx) : (setCtx s n x).deliveries = s.deliveries := rfl
@[simp] theorem setCtx_migs (s : State) (n : Nat) (x : Ctx) : (setCtx s n x).migs = s.migs := rfl
@[simp] theorem setCtx_links (s : State) (n : Nat) (x : Ctx) : (setCtx s n x).links = s.links := rfl
@[simp] theorem setCtx_kernels (s : State) (n : Nat) (x : Ctx) : (setCtx s n x).kernels = s.kernels := rfl
@[simp] theorem setCtx_cores (s : State) (n : Nat) (x : Ctx) : (setCtx s n x).cores = s.cores := rfl
@[simp] theorem setCtx_ckpt (s : State) (n : Nat) (x : Ctx) : (setCtx s n x).ckpt = s.ckpt := rfl
@[simp] theorem setCtx_barReads (s : State) (n : Nat) (x : Ctx) : (setCtx s n x).barReads = s.barReads := rfl
@[simp] theorem setCtx_barResp (s : State) (n : Nat) (x : Ctx) : (setCtx s n x).barResp = s.barResp := rfl
@[simp] theorem setCtx_lastQ (s : State) (n : Nat) (x : Ctx) : (setCtx s n x).lastQ = s.lastQ := rfl
@[simp] theorem setCtx_ctxpend (s : State) (n : Nat) (x : Ctx) : (setCtx s n x).ctxpend = s.ctxpend := rfl
@[simp] theorem setCtx_savePos (s : State) (n : Nat) (x : Ctx) : (setCtx s n x).savePos = s.savePos := rfl
@[simp] theorem setCtx_cur (s : State) (n : Nat) (x : Ctx) : (setCtx s n x).cur = s.cur := rfl
@[simp] theorem setCtx_agenda (s : State) (n : Nat) (x : Ctx) : (setCtx s n x).agenda = s.agenda := rfl
@[simp] theorem setCtx_nextId (s : State) (n : Nat) (x : Ctx) : (setCtx s n x).nextId = s.nextId := rfl
@[simp] theorem setCtx_nextK (s : State) (n : Nat) (x : Ctx) : (setCtx s n x).nextK = s.nextK := rfl
@[simp] theorem setCtx_freeCtr (s : State) (n : Nat) (x : Ctx) : (setCtx s n x).freeCtr = s.freeCtr := rfl
@[simp] theorem setCtx_clk (s : State) (n : Nat) (x : Ctx) : (setCtx s n x).clk = s.clk := rfl
@[simp] theorem setCtx_beat (s : State) (n : Nat) (x : Ctx) : (setCtx s n x).beat = s.beat := rfl

@[simp] theorem mapCtx_boot (s : State) (n : Nat) (f : Ctx → Ctx) : (mapCtx s n f).boot = s.boot := rfl
@[simp] theorem mapCtx_bootstat (s : State) (n : Nat) (f : Ctx → Ctx) : (mapCtx s n f).bootstat = s.bootstat := rfl
@[simp] theorem mapCtx_listed (s : State) (n : Nat) (f : Ctx → Ctx) : (mapCtx s n f).listed = s.listed := rfl
@[simp] theorem mapCtx_apbase (s : State) (n : Nat) (f : Ctx → Ctx) : (mapCtx s n f).apbase = s.apbase := rfl
@[simp] theorem mapCtx_bar2log (s : State) (n : Nat) (f : Ctx → Ctx) : (mapCtx s n f).bar2log = s.bar2log := rfl
@[simp] theorem mapCtx_dbdrop (s : State) (n : Nat) (f : Ctx → Ctx) : (mapCtx s n f).dbdrop = s.dbdrop := rfl
@[simp] theorem mapCtx_attdone (s : State) (n : Nat) (f : Ctx → Ctx) : (mapCtx s n f).attdone = s.attdone := rfl
@[simp] theorem mapCtx_attaddr (s : State) (n : Nat) (f : Ctx → Ctx) : (mapCtx s n f).attaddr = s.attaddr := rfl
@[simp] theorem mapCtx_attnonce (s : State) (n : Nat) (f : Ctx → Ctx) : (mapCtx s n f).attnonce = s.attnonce := rfl
@[simp] theorem mapCtx_attbusy (s : State) (n : Nat) (f : Ctx → Ctx) : (mapCtx s n f).attbusy = s.attbusy := rfl
@[simp] theorem mapCtx_mreg (s : State) (n : Nat) (f : Ctx → Ctx) : (mapCtx s n f).mreg = s.mreg := rfl
@[simp] theorem mapCtx_fenced (s : State) (n : Nat) (f : Ctx → Ctx) : (mapCtx s n f).fenced = s.fenced := rfl
@[simp] theorem mapCtx_fencedBays (s : State) (n : Nat) (f : Ctx → Ctx) : (mapCtx s n f).fencedBays = s.fencedBays := rfl
@[simp] theorem mapCtx_retired (s : State) (n : Nat) (f : Ctx → Ctx) : (mapCtx s n f).retired = s.retired := rfl
@[simp] theorem mapCtx_watts (s : State) (n : Nat) (f : Ctx → Ctx) : (mapCtx s n f).watts = s.watts := rfl
@[simp] theorem mapCtx_mhz (s : State) (n : Nat) (f : Ctx → Ctx) : (mapCtx s n f).mhz = s.mhz := rfl
@[simp] theorem mapCtx_overMs (s : State) (n : Nat) (f : Ctx → Ctx) : (mapCtx s n f).overMs = s.overMs := rfl
@[simp] theorem mapCtx_pgate (s : State) (n : Nat) (f : Ctx → Ctx) : (mapCtx s n f).pgate = s.pgate := rfl
@[simp] theorem mapCtx_ctxdesc (s : State) (n : Nat) (f : Ctx → Ctx) : (mapCtx s n f).ctxdesc = s.ctxdesc := rfl
@[simp] theorem mapCtx_ctxstat (s : State) (n : Nat) (f : Ctx → Ctx) : (mapCtx s n f).ctxstat = s.ctxstat := rfl
@[simp] theorem mapCtx_qsel (s : State) (n : Nat) (f : Ctx → Ctx) : (mapCtx s n f).qsel = s.qsel := rfl
@[simp] theorem mapCtx_pgiaddr (s : State) (n : Nat) (f : Ctx → Ctx) : (mapCtx s n f).pgiaddr = s.pgiaddr := rfl
@[simp] theorem mapCtx_pgiarg (s : State) (n : Nat) (f : Ctx → Ctx) : (mapCtx s n f).pgiarg = s.pgiarg := rfl
@[simp] theorem mapCtx_pgicmd (s : State) (n : Nat) (f : Ctx → Ctx) : (mapCtx s n f).pgicmd = s.pgicmd := rfl
@[simp] theorem mapCtx_devid (s : State) (n : Nat) (f : Ctx → Ctx) : (mapCtx s n f).devid = s.devid := rfl
@[simp] theorem mapCtx_msixTable (s : State) (n : Nat) (f : Ctx → Ctx) : (mapCtx s n f).msixTable = s.msixTable := rfl
@[simp] theorem mapCtx_msixPend (s : State) (n : Nat) (f : Ctx → Ctx) : (mapCtx s n f).msixPend = s.msixPend := rfl
@[simp] theorem mapCtx_profmask (s : State) (n : Nat) (f : Ctx → Ctx) : (mapCtx s n f).profmask = s.profmask := rfl
@[simp] theorem mapCtx_acl (s : State) (n : Nat) (f : Ctx → Ctx) : (mapCtx s n f).acl = s.acl := rfl
@[simp] theorem mapCtx_lucnt (s : State) (n : Nat) (f : Ctx → Ctx) : (mapCtx s n f).lucnt = s.lucnt := rfl
@[simp] theorem mapCtx_hbm (s : State) (n : Nat) (f : Ctx → Ctx) : (mapCtx s n f).hbm = s.hbm := rfl
@[simp] theorem mapCtx_hbmPoison (s : State) (n : Nat) (f : Ctx → Ctx) : (mapCtx s n f).hbmPoison = s.hbmPoison := rfl
@[simp] theorem mapCtx_hostMem (s : State) (n : Nat) (f : Ctx → Ctx) : (mapCtx s n f).hostMem = s.hostMem := rfl
@[simp] theorem mapCtx_planes (s : State) (n : Nat) (f : Ctx → Ctx) : (mapCtx s n f).planes = s.planes := rfl
@[simp] theorem mapCtx_pmap (s : State) (n : Nat) (f : Ctx → Ctx) : (mapCtx s n f).pmap = s.pmap := rfl
@[simp] theorem mapCtx_rehashes (s : State) (n : Nat) (f : Ctx → Ctx) : (mapCtx s n f).rehashes = s.rehashes := rfl
@[simp] theorem mapCtx_rehash (s : State) (n : Nat) (f : Ctx → Ctx) : (mapCtx s n f).rehash = s.rehash := rfl
@[simp] theorem mapCtx_rehashed (s : State) (n : Nat) (f : Ctx → Ctx) : (mapCtx s n f).rehashed = s.rehashed := rfl
@[simp] theorem mapCtx_plDetail (s : State) (n : Nat) (f : Ctx → Ctx) : (mapCtx s n f).plDetail = s.plDetail := rfl
@[simp] theorem mapCtx_reqs (s : State) (n : Nat) (f : Ctx → Ctx) : (mapCtx s n f).reqs = s.reqs := rfl
@[simp] theorem mapCtx_fetches (s : State) (n : Nat) (f : Ctx → Ctx) : (mapCtx s n f).fetches = s.fetches := rfl
@[simp] theorem mapCtx_partials (s : State) (n : Nat) (f : Ctx → Ctx) : (mapCtx s n f).partials = s.partials := rfl
@[simp] theorem mapCtx_deliveries (s : State) (n : Nat) (f : Ctx → Ctx) : (mapCtx s n f).deliveries = s.deliveries := rfl
@[simp] theorem mapCtx_migs (s : State) (n : Nat) (f : Ctx → Ctx) : (mapCtx s n f).migs = s.migs := rfl
@[simp] theorem mapCtx_links (s : State) (n : Nat) (f : Ctx → Ctx) : (mapCtx s n f).links = s.links := rfl
@[simp] theorem mapCtx_kernels (s : State) (n : Nat) (f : Ctx → Ctx) : (mapCtx s n f).kernels = s.kernels := rfl
@[simp] theorem mapCtx_cores (s : State) (n : Nat) (f : Ctx → Ctx) : (mapCtx s n f).cores = s.cores := rfl
@[simp] theorem mapCtx_ckpt (s : State) (n : Nat) (f : Ctx → Ctx) : (mapCtx s n f).ckpt = s.ckpt := rfl
@[simp] theorem mapCtx_barReads (s : State) (n : Nat) (f : Ctx → Ctx) : (mapCtx s n f).barReads = s.barReads := rfl
@[simp] theorem mapCtx_barResp (s : State) (n : Nat) (f : Ctx → Ctx) : (mapCtx s n f).barResp = s.barResp := rfl
@[simp] theorem mapCtx_lastQ (s : State) (n : Nat) (f : Ctx → Ctx) : (mapCtx s n f).lastQ = s.lastQ := rfl
@[simp] theorem mapCtx_ctxpend (s : State) (n : Nat) (f : Ctx → Ctx) : (mapCtx s n f).ctxpend = s.ctxpend := rfl
@[simp] theorem mapCtx_savePos (s : State) (n : Nat) (f : Ctx → Ctx) : (mapCtx s n f).savePos = s.savePos := rfl
@[simp] theorem mapCtx_cur (s : State) (n : Nat) (f : Ctx → Ctx) : (mapCtx s n f).cur = s.cur := rfl
@[simp] theorem mapCtx_agenda (s : State) (n : Nat) (f : Ctx → Ctx) : (mapCtx s n f).agenda = s.agenda := rfl
@[simp] theorem mapCtx_nextId (s : State) (n : Nat) (f : Ctx → Ctx) : (mapCtx s n f).nextId = s.nextId := rfl
@[simp] theorem mapCtx_nextK (s : State) (n : Nat) (f : Ctx → Ctx) : (mapCtx s n f).nextK = s.nextK := rfl
@[simp] theorem mapCtx_freeCtr (s : State) (n : Nat) (f : Ctx → Ctx) : (mapCtx s n f).freeCtr = s.freeCtr := rfl
@[simp] theorem mapCtx_clk (s : State) (n : Nat) (f : Ctx → Ctx) : (mapCtx s n f).clk = s.clk := rfl
@[simp] theorem mapCtx_beat (s : State) (n : Nat) (f : Ctx → Ctx) : (mapCtx s n f).beat = s.beat := rfl

@[simp] theorem mapQueue_boot (s : State) (n q : Nat) (f : Queue → Queue) : (mapQueue s n q f).boot = s.boot := rfl
@[simp] theorem mapQueue_bootstat (s : State) (n q : Nat) (f : Queue → Queue) : (mapQueue s n q f).bootstat = s.bootstat := rfl
@[simp] theorem mapQueue_listed (s : State) (n q : Nat) (f : Queue → Queue) : (mapQueue s n q f).listed = s.listed := rfl
@[simp] theorem mapQueue_apbase (s : State) (n q : Nat) (f : Queue → Queue) : (mapQueue s n q f).apbase = s.apbase := rfl
@[simp] theorem mapQueue_bar2log (s : State) (n q : Nat) (f : Queue → Queue) : (mapQueue s n q f).bar2log = s.bar2log := rfl
@[simp] theorem mapQueue_dbdrop (s : State) (n q : Nat) (f : Queue → Queue) : (mapQueue s n q f).dbdrop = s.dbdrop := rfl
@[simp] theorem mapQueue_attdone (s : State) (n q : Nat) (f : Queue → Queue) : (mapQueue s n q f).attdone = s.attdone := rfl
@[simp] theorem mapQueue_attaddr (s : State) (n q : Nat) (f : Queue → Queue) : (mapQueue s n q f).attaddr = s.attaddr := rfl
@[simp] theorem mapQueue_attnonce (s : State) (n q : Nat) (f : Queue → Queue) : (mapQueue s n q f).attnonce = s.attnonce := rfl
@[simp] theorem mapQueue_attbusy (s : State) (n q : Nat) (f : Queue → Queue) : (mapQueue s n q f).attbusy = s.attbusy := rfl
@[simp] theorem mapQueue_mreg (s : State) (n q : Nat) (f : Queue → Queue) : (mapQueue s n q f).mreg = s.mreg := rfl
@[simp] theorem mapQueue_fenced (s : State) (n q : Nat) (f : Queue → Queue) : (mapQueue s n q f).fenced = s.fenced := rfl
@[simp] theorem mapQueue_fencedBays (s : State) (n q : Nat) (f : Queue → Queue) : (mapQueue s n q f).fencedBays = s.fencedBays := rfl
@[simp] theorem mapQueue_retired (s : State) (n q : Nat) (f : Queue → Queue) : (mapQueue s n q f).retired = s.retired := rfl
@[simp] theorem mapQueue_watts (s : State) (n q : Nat) (f : Queue → Queue) : (mapQueue s n q f).watts = s.watts := rfl
@[simp] theorem mapQueue_mhz (s : State) (n q : Nat) (f : Queue → Queue) : (mapQueue s n q f).mhz = s.mhz := rfl
@[simp] theorem mapQueue_overMs (s : State) (n q : Nat) (f : Queue → Queue) : (mapQueue s n q f).overMs = s.overMs := rfl
@[simp] theorem mapQueue_pgate (s : State) (n q : Nat) (f : Queue → Queue) : (mapQueue s n q f).pgate = s.pgate := rfl
@[simp] theorem mapQueue_ctxdesc (s : State) (n q : Nat) (f : Queue → Queue) : (mapQueue s n q f).ctxdesc = s.ctxdesc := rfl
@[simp] theorem mapQueue_ctxstat (s : State) (n q : Nat) (f : Queue → Queue) : (mapQueue s n q f).ctxstat = s.ctxstat := rfl
@[simp] theorem mapQueue_qsel (s : State) (n q : Nat) (f : Queue → Queue) : (mapQueue s n q f).qsel = s.qsel := rfl
@[simp] theorem mapQueue_pgiaddr (s : State) (n q : Nat) (f : Queue → Queue) : (mapQueue s n q f).pgiaddr = s.pgiaddr := rfl
@[simp] theorem mapQueue_pgiarg (s : State) (n q : Nat) (f : Queue → Queue) : (mapQueue s n q f).pgiarg = s.pgiarg := rfl
@[simp] theorem mapQueue_pgicmd (s : State) (n q : Nat) (f : Queue → Queue) : (mapQueue s n q f).pgicmd = s.pgicmd := rfl
@[simp] theorem mapQueue_devid (s : State) (n q : Nat) (f : Queue → Queue) : (mapQueue s n q f).devid = s.devid := rfl
@[simp] theorem mapQueue_msixTable (s : State) (n q : Nat) (f : Queue → Queue) : (mapQueue s n q f).msixTable = s.msixTable := rfl
@[simp] theorem mapQueue_msixPend (s : State) (n q : Nat) (f : Queue → Queue) : (mapQueue s n q f).msixPend = s.msixPend := rfl
@[simp] theorem mapQueue_profmask (s : State) (n q : Nat) (f : Queue → Queue) : (mapQueue s n q f).profmask = s.profmask := rfl
@[simp] theorem mapQueue_acl (s : State) (n q : Nat) (f : Queue → Queue) : (mapQueue s n q f).acl = s.acl := rfl
@[simp] theorem mapQueue_lucnt (s : State) (n q : Nat) (f : Queue → Queue) : (mapQueue s n q f).lucnt = s.lucnt := rfl
@[simp] theorem mapQueue_hbm (s : State) (n q : Nat) (f : Queue → Queue) : (mapQueue s n q f).hbm = s.hbm := rfl
@[simp] theorem mapQueue_hbmPoison (s : State) (n q : Nat) (f : Queue → Queue) : (mapQueue s n q f).hbmPoison = s.hbmPoison := rfl
@[simp] theorem mapQueue_hostMem (s : State) (n q : Nat) (f : Queue → Queue) : (mapQueue s n q f).hostMem = s.hostMem := rfl
@[simp] theorem mapQueue_planes (s : State) (n q : Nat) (f : Queue → Queue) : (mapQueue s n q f).planes = s.planes := rfl
@[simp] theorem mapQueue_pmap (s : State) (n q : Nat) (f : Queue → Queue) : (mapQueue s n q f).pmap = s.pmap := rfl
@[simp] theorem mapQueue_rehashes (s : State) (n q : Nat) (f : Queue → Queue) : (mapQueue s n q f).rehashes = s.rehashes := rfl
@[simp] theorem mapQueue_rehash (s : State) (n q : Nat) (f : Queue → Queue) : (mapQueue s n q f).rehash = s.rehash := rfl
@[simp] theorem mapQueue_rehashed (s : State) (n q : Nat) (f : Queue → Queue) : (mapQueue s n q f).rehashed = s.rehashed := rfl
@[simp] theorem mapQueue_plDetail (s : State) (n q : Nat) (f : Queue → Queue) : (mapQueue s n q f).plDetail = s.plDetail := rfl
@[simp] theorem mapQueue_reqs (s : State) (n q : Nat) (f : Queue → Queue) : (mapQueue s n q f).reqs = s.reqs := rfl
@[simp] theorem mapQueue_fetches (s : State) (n q : Nat) (f : Queue → Queue) : (mapQueue s n q f).fetches = s.fetches := rfl
@[simp] theorem mapQueue_partials (s : State) (n q : Nat) (f : Queue → Queue) : (mapQueue s n q f).partials = s.partials := rfl
@[simp] theorem mapQueue_deliveries (s : State) (n q : Nat) (f : Queue → Queue) : (mapQueue s n q f).deliveries = s.deliveries := rfl
@[simp] theorem mapQueue_migs (s : State) (n q : Nat) (f : Queue → Queue) : (mapQueue s n q f).migs = s.migs := rfl
@[simp] theorem mapQueue_links (s : State) (n q : Nat) (f : Queue → Queue) : (mapQueue s n q f).links = s.links := rfl
@[simp] theorem mapQueue_kernels (s : State) (n q : Nat) (f : Queue → Queue) : (mapQueue s n q f).kernels = s.kernels := rfl
@[simp] theorem mapQueue_cores (s : State) (n q : Nat) (f : Queue → Queue) : (mapQueue s n q f).cores = s.cores := rfl
@[simp] theorem mapQueue_ckpt (s : State) (n q : Nat) (f : Queue → Queue) : (mapQueue s n q f).ckpt = s.ckpt := rfl
@[simp] theorem mapQueue_barReads (s : State) (n q : Nat) (f : Queue → Queue) : (mapQueue s n q f).barReads = s.barReads := rfl
@[simp] theorem mapQueue_barResp (s : State) (n q : Nat) (f : Queue → Queue) : (mapQueue s n q f).barResp = s.barResp := rfl
@[simp] theorem mapQueue_lastQ (s : State) (n q : Nat) (f : Queue → Queue) : (mapQueue s n q f).lastQ = s.lastQ := rfl
@[simp] theorem mapQueue_ctxpend (s : State) (n q : Nat) (f : Queue → Queue) : (mapQueue s n q f).ctxpend = s.ctxpend := rfl
@[simp] theorem mapQueue_savePos (s : State) (n q : Nat) (f : Queue → Queue) : (mapQueue s n q f).savePos = s.savePos := rfl
@[simp] theorem mapQueue_cur (s : State) (n q : Nat) (f : Queue → Queue) : (mapQueue s n q f).cur = s.cur := rfl
@[simp] theorem mapQueue_agenda (s : State) (n q : Nat) (f : Queue → Queue) : (mapQueue s n q f).agenda = s.agenda := rfl
@[simp] theorem mapQueue_nextId (s : State) (n q : Nat) (f : Queue → Queue) : (mapQueue s n q f).nextId = s.nextId := rfl
@[simp] theorem mapQueue_nextK (s : State) (n q : Nat) (f : Queue → Queue) : (mapQueue s n q f).nextK = s.nextK := rfl
@[simp] theorem mapQueue_freeCtr (s : State) (n q : Nat) (f : Queue → Queue) : (mapQueue s n q f).freeCtr = s.freeCtr := rfl
@[simp] theorem mapQueue_clk (s : State) (n q : Nat) (f : Queue → Queue) : (mapQueue s n q f).clk = s.clk := rfl
@[simp] theorem mapQueue_beat (s : State) (n q : Nat) (f : Queue → Queue) : (mapQueue s n q f).beat = s.beat := rfl

@[simp] theorem mapLink_boot (s : State) (n : Nat) (f : Link → Link) : (mapLink s n f).boot = s.boot := rfl
@[simp] theorem mapLink_bootstat (s : State) (n : Nat) (f : Link → Link) : (mapLink s n f).bootstat = s.bootstat := rfl
@[simp] theorem mapLink_listed (s : State) (n : Nat) (f : Link → Link) : (mapLink s n f).listed = s.listed := rfl
@[simp] theorem mapLink_apbase (s : State) (n : Nat) (f : Link → Link) : (mapLink s n f).apbase = s.apbase := rfl
@[simp] theorem mapLink_bar2log (s : State) (n : Nat) (f : Link → Link) : (mapLink s n f).bar2log = s.bar2log := rfl
@[simp] theorem mapLink_dbdrop (s : State) (n : Nat) (f : Link → Link) : (mapLink s n f).dbdrop = s.dbdrop := rfl
@[simp] theorem mapLink_attdone (s : State) (n : Nat) (f : Link → Link) : (mapLink s n f).attdone = s.attdone := rfl
@[simp] theorem mapLink_attaddr (s : State) (n : Nat) (f : Link → Link) : (mapLink s n f).attaddr = s.attaddr := rfl
@[simp] theorem mapLink_attnonce (s : State) (n : Nat) (f : Link → Link) : (mapLink s n f).attnonce = s.attnonce := rfl
@[simp] theorem mapLink_attbusy (s : State) (n : Nat) (f : Link → Link) : (mapLink s n f).attbusy = s.attbusy := rfl
@[simp] theorem mapLink_mreg (s : State) (n : Nat) (f : Link → Link) : (mapLink s n f).mreg = s.mreg := rfl
@[simp] theorem mapLink_fenced (s : State) (n : Nat) (f : Link → Link) : (mapLink s n f).fenced = s.fenced := rfl
@[simp] theorem mapLink_fencedBays (s : State) (n : Nat) (f : Link → Link) : (mapLink s n f).fencedBays = s.fencedBays := rfl
@[simp] theorem mapLink_retired (s : State) (n : Nat) (f : Link → Link) : (mapLink s n f).retired = s.retired := rfl
@[simp] theorem mapLink_watts (s : State) (n : Nat) (f : Link → Link) : (mapLink s n f).watts = s.watts := rfl
@[simp] theorem mapLink_mhz (s : State) (n : Nat) (f : Link → Link) : (mapLink s n f).mhz = s.mhz := rfl
@[simp] theorem mapLink_overMs (s : State) (n : Nat) (f : Link → Link) : (mapLink s n f).overMs = s.overMs := rfl
@[simp] theorem mapLink_pgate (s : State) (n : Nat) (f : Link → Link) : (mapLink s n f).pgate = s.pgate := rfl
@[simp] theorem mapLink_ctxdesc (s : State) (n : Nat) (f : Link → Link) : (mapLink s n f).ctxdesc = s.ctxdesc := rfl
@[simp] theorem mapLink_ctxstat (s : State) (n : Nat) (f : Link → Link) : (mapLink s n f).ctxstat = s.ctxstat := rfl
@[simp] theorem mapLink_qsel (s : State) (n : Nat) (f : Link → Link) : (mapLink s n f).qsel = s.qsel := rfl
@[simp] theorem mapLink_pgiaddr (s : State) (n : Nat) (f : Link → Link) : (mapLink s n f).pgiaddr = s.pgiaddr := rfl
@[simp] theorem mapLink_pgiarg (s : State) (n : Nat) (f : Link → Link) : (mapLink s n f).pgiarg = s.pgiarg := rfl
@[simp] theorem mapLink_pgicmd (s : State) (n : Nat) (f : Link → Link) : (mapLink s n f).pgicmd = s.pgicmd := rfl
@[simp] theorem mapLink_devid (s : State) (n : Nat) (f : Link → Link) : (mapLink s n f).devid = s.devid := rfl
@[simp] theorem mapLink_msixTable (s : State) (n : Nat) (f : Link → Link) : (mapLink s n f).msixTable = s.msixTable := rfl
@[simp] theorem mapLink_msixPend (s : State) (n : Nat) (f : Link → Link) : (mapLink s n f).msixPend = s.msixPend := rfl
@[simp] theorem mapLink_profmask (s : State) (n : Nat) (f : Link → Link) : (mapLink s n f).profmask = s.profmask := rfl
@[simp] theorem mapLink_acl (s : State) (n : Nat) (f : Link → Link) : (mapLink s n f).acl = s.acl := rfl
@[simp] theorem mapLink_lucnt (s : State) (n : Nat) (f : Link → Link) : (mapLink s n f).lucnt = s.lucnt := rfl
@[simp] theorem mapLink_hbm (s : State) (n : Nat) (f : Link → Link) : (mapLink s n f).hbm = s.hbm := rfl
@[simp] theorem mapLink_hbmPoison (s : State) (n : Nat) (f : Link → Link) : (mapLink s n f).hbmPoison = s.hbmPoison := rfl
@[simp] theorem mapLink_hostMem (s : State) (n : Nat) (f : Link → Link) : (mapLink s n f).hostMem = s.hostMem := rfl
@[simp] theorem mapLink_planes (s : State) (n : Nat) (f : Link → Link) : (mapLink s n f).planes = s.planes := rfl
@[simp] theorem mapLink_pmap (s : State) (n : Nat) (f : Link → Link) : (mapLink s n f).pmap = s.pmap := rfl
@[simp] theorem mapLink_rehashes (s : State) (n : Nat) (f : Link → Link) : (mapLink s n f).rehashes = s.rehashes := rfl
@[simp] theorem mapLink_rehash (s : State) (n : Nat) (f : Link → Link) : (mapLink s n f).rehash = s.rehash := rfl
@[simp] theorem mapLink_rehashed (s : State) (n : Nat) (f : Link → Link) : (mapLink s n f).rehashed = s.rehashed := rfl
@[simp] theorem mapLink_plDetail (s : State) (n : Nat) (f : Link → Link) : (mapLink s n f).plDetail = s.plDetail := rfl
@[simp] theorem mapLink_reqs (s : State) (n : Nat) (f : Link → Link) : (mapLink s n f).reqs = s.reqs := rfl
@[simp] theorem mapLink_fetches (s : State) (n : Nat) (f : Link → Link) : (mapLink s n f).fetches = s.fetches := rfl
@[simp] theorem mapLink_partials (s : State) (n : Nat) (f : Link → Link) : (mapLink s n f).partials = s.partials := rfl
@[simp] theorem mapLink_deliveries (s : State) (n : Nat) (f : Link → Link) : (mapLink s n f).deliveries = s.deliveries := rfl
@[simp] theorem mapLink_migs (s : State) (n : Nat) (f : Link → Link) : (mapLink s n f).migs = s.migs := rfl
@[simp] theorem mapLink_ctxs (s : State) (n : Nat) (f : Link → Link) : (mapLink s n f).ctxs = s.ctxs := rfl
@[simp] theorem mapLink_kernels (s : State) (n : Nat) (f : Link → Link) : (mapLink s n f).kernels = s.kernels := rfl
@[simp] theorem mapLink_cores (s : State) (n : Nat) (f : Link → Link) : (mapLink s n f).cores = s.cores := rfl
@[simp] theorem mapLink_ckpt (s : State) (n : Nat) (f : Link → Link) : (mapLink s n f).ckpt = s.ckpt := rfl
@[simp] theorem mapLink_barReads (s : State) (n : Nat) (f : Link → Link) : (mapLink s n f).barReads = s.barReads := rfl
@[simp] theorem mapLink_barResp (s : State) (n : Nat) (f : Link → Link) : (mapLink s n f).barResp = s.barResp := rfl
@[simp] theorem mapLink_lastQ (s : State) (n : Nat) (f : Link → Link) : (mapLink s n f).lastQ = s.lastQ := rfl
@[simp] theorem mapLink_ctxpend (s : State) (n : Nat) (f : Link → Link) : (mapLink s n f).ctxpend = s.ctxpend := rfl
@[simp] theorem mapLink_savePos (s : State) (n : Nat) (f : Link → Link) : (mapLink s n f).savePos = s.savePos := rfl
@[simp] theorem mapLink_cur (s : State) (n : Nat) (f : Link → Link) : (mapLink s n f).cur = s.cur := rfl
@[simp] theorem mapLink_agenda (s : State) (n : Nat) (f : Link → Link) : (mapLink s n f).agenda = s.agenda := rfl
@[simp] theorem mapLink_nextId (s : State) (n : Nat) (f : Link → Link) : (mapLink s n f).nextId = s.nextId := rfl
@[simp] theorem mapLink_nextK (s : State) (n : Nat) (f : Link → Link) : (mapLink s n f).nextK = s.nextK := rfl
@[simp] theorem mapLink_freeCtr (s : State) (n : Nat) (f : Link → Link) : (mapLink s n f).freeCtr = s.freeCtr := rfl
@[simp] theorem mapLink_clk (s : State) (n : Nat) (f : Link → Link) : (mapLink s n f).clk = s.clk := rfl
@[simp] theorem mapLink_beat (s : State) (n : Nat) (f : Link → Link) : (mapLink s n f).beat = s.beat := rfl

end Sys2Proof.Machine
end

