-- ==== Sys2Proof/Laws/Tab.lean ====
section
/-! SUPPORT. What the operations on finite tables and on lists of numbers do. -/

namespace Sys2Proof.Machine

variable {α : Type}

/-! ## Looking up -/

@[simp] theorem tabFind_nil (n : Nat) : tabFind ([] : Tab α) n = none := rfl

theorem tabFind_cons (k : Nat) (v : α) (r : Tab α) (n : Nat) :
    tabFind ((k, v) :: r) n = if k = n then some v else tabFind r n := rfl

@[simp] theorem tabGet_nil (d : α) (n : Nat) : tabGet d [] n = d := rfl

theorem tabFind_tabErase (t : Tab α) (n m : Nat) : tabFind (tabErase t n) m = if m = n then none else tabFind t m := by
  induction t with
  | nil => simp [tabErase]
  | cons p r ih =>
    obtain ⟨k, v⟩ := p
    simp only [tabErase]
    by_cases h : k = n
    · rw [if_pos h, ih, tabFind_cons]
      by_cases hm : m = n
      · simp [hm]
      · rw [if_neg hm, if_neg hm, if_neg (by omega)]
    · rw [if_neg h, tabFind_cons, ih, tabFind_cons]
      by_cases hm : k = m
      · rw [if_pos hm, if_pos hm, if_neg (by omega)]
      · rw [if_neg hm, if_neg hm]

theorem tabFind_tabInsert_ne (t : Tab α) (n : Nat) (a : α) (m : Nat) (h : m ≠ n) :
    tabFind (tabInsert n a t) m = tabFind t m := by
  induction t with
  | nil => simp only [tabInsert, tabFind_cons]; rw [if_neg (Ne.symm h)]
  | cons p r ih =>
    obtain ⟨k, v⟩ := p
    simp only [tabInsert]
    split
    · rw [tabFind_cons, if_neg (Ne.symm h)]
    · rw [tabFind_cons, ih, tabFind_cons]

theorem tabFind_tabInsert_self (t : Tab α) (n : Nat) (a : α) (h : tabFind t n = none) :
    tabFind (tabInsert n a t) n = some a := by
  induction t with
  | nil => simp [tabInsert, tabFind_cons]
  | cons p r ih =>
    obtain ⟨k, v⟩ := p
    rw [tabFind_cons] at h
    split at h
    · exact absurd h (by simp)
    · next hk =>
      simp only [tabInsert]
      split
      · simp [tabFind_cons]
      · rw [tabFind_cons, if_neg hk, ih h]

/-! ## Replacing a value -/

theorem tabFind_tabPut (t : Tab α) (n : Nat) (a : α) (m : Nat) :
    tabFind (tabPut t n a) m = if m = n then some a else tabFind t m := by
  rw [tabPut]
  by_cases h : m = n
  · subst h
    rw [if_pos rfl, tabFind_tabInsert_self _ _ _ (by rw [tabFind_tabErase, if_pos rfl])]
  · rw [if_neg h, tabFind_tabInsert_ne _ _ _ _ h, tabFind_tabErase, if_neg h]

@[simp] theorem tabGet_tabPut_self (d : α) (t : Tab α) (n : Nat) (a : α) : tabGet d (tabPut t n a) n = a := by
  simp [tabGet, tabFind_tabPut]

theorem tabGet_tabPut_ne (d : α) (t : Tab α) {n m : Nat} (a : α) (h : m ≠ n) : tabGet d (tabPut t n a) m = tabGet d t m := by
  simp [tabGet, tabFind_tabPut, h]

theorem tabGet_tabPut (d : α) (t : Tab α) (n : Nat) (a : α) (m : Nat) :
    tabGet d (tabPut t n a) m = if m = n then a else tabGet d t m := by
  by_cases h : m = n
  · subst h; simp
  · rw [if_neg h, tabGet_tabPut_ne d t a h]

theorem tabGet_tabSet [DecidableEq α] (d : α) (t : Tab α) (n : Nat) (a : α) (m : Nat) :
    tabGet d (tabSet d t n a) m = if m = n then a else tabGet d t m := by
  simp only [tabSet]
  by_cases ha : a = d
  · rw [if_pos ha, tabGet, tabFind_tabErase]
    by_cases h : m = n
    · simp [h, ha]
    · simp [h, tabGet]
  · rw [if_neg ha]
    exact tabGet_tabPut d t n a m

@[simp] theorem tabGet_tabSet_self [DecidableEq α] (d : α) (t : Tab α) (n : Nat) (a : α) :
    tabGet d (tabSet d t n a) n = a := by rw [tabGet_tabSet, if_pos rfl]

theorem tabGet_tabSet_ne [DecidableEq α] (d : α) (t : Tab α) {n m : Nat} (a : α) (h : m ≠ n) :
    tabGet d (tabSet d t n a) m = tabGet d t m := by rw [tabGet_tabSet, if_neg h]

theorem tabFind_tabMap (f : Nat → α → α) (t : Tab α) (n : Nat) :
    tabFind (tabMap f t) n = (tabFind t n).map (f n) := by
  induction t with
  | nil => rfl
  | cons p r ih =>
    obtain ⟨k, v⟩ := p
    simp only [tabMap, List.map_cons] at ih ⊢
    rw [tabFind_cons, tabFind_cons]
    split
    · next h => subst h; rfl
    · exact ih

/-- Where every value keeps a property of the default, a change of every value can be read at one key. -/
theorem tabGet_tabMap (d : α) (f : Nat → α → α) (t : Tab α) (n : Nat) (h : f n d = d) :
    tabGet d (tabMap f t) n = f n (tabGet d t n) := by
  rw [tabGet, tabFind_tabMap, tabGet]
  cases tabFind t n <;> simp [h]

/-! ## Rising lists -/

theorem mem_setIns (n m : Nat) (s : List Nat) : m ∈ setIns n s ↔ m = n ∨ m ∈ s := by
  induction s with
  | nil => simp [setIns]
  | cons k r ih =>
    simp only [setIns]
    split
    · simp
    · split
      · next h => subst h; simp
      · simp only [List.mem_cons, ih]
        constructor
        · rintro (h | h | h) <;> simp [h]
        · rintro (h | h | h) <;> simp [h]

theorem mem_setDel (n m : Nat) (s : List Nat) : m ∈ setDel n s ↔ m ∈ s ∧ m ≠ n := by
  simp [setDel]

@[simp] theorem upto_length (n : Nat) : (upto n).length = n := by
  induction n with
  | zero => rfl
  | succ n ih => simp [upto, ih]

theorem mem_upto (n i : Nat) : i ∈ upto n ↔ i < n := by
  induction n with
  | zero => simp [upto]
  | succ n ih => simp only [upto, List.mem_append, ih, List.mem_singleton]; omega

theorem upto_eq_range (n : Nat) : upto n = List.range n := by
  induction n with
  | zero => rfl
  | succ n ih => rw [upto, ih, List.range_succ]

@[simp] theorem leBytes_length (n v : Nat) : (leBytes n v).length = n := by
  induction n generalizing v with
  | zero => rfl
  | succ n ih => simp [leBytes, ih]

/-- Little-endian bytes read back give the value within their range. -/
theorem leNat_leBytes (n v : Nat) : leNat (leBytes n v) = v % 256 ^ n := by
  induction n generalizing v with
  | zero => simp [leBytes, leNat, Nat.mod_one]
  | succ n ih =>
    rw [leBytes, leNat, ih, BitVec.toNat_ofNat, show (256 : Nat) ^ (n + 1) = 2 ^ 8 * 256 ^ n from Nat.pow_succ']
    exact (Nat.mod_mul (a := 2 ^ 8) (b := 256 ^ n)).symm

end Sys2Proof.Machine
end

