-- ==== Sys2Proof/Laws/Issue.lean ====
section
/-! SUPPORT. What the issue of a bundle of one instruction does: a bundle that nothing keeps has the effects of its
instruction, and its time passes. -/

namespace Sys2Proof.Machine

/-! ## One core's update, read back -/

@[simp] theorem coreAt_setCore_self (s : State) (n : Nat) (c : Core) : coreAt (setCore s n c) n = c := by
  simp [coreAt, setCore]

theorem coreAt_setCore_ne (s : State) {n m : Nat} (c : Core) (h : m ≠ n) : coreAt (setCore s n c) m = coreAt s m := by
  simp [coreAt, setCore, tabGet_tabPut_ne _ _ _ h]

@[simp] theorem coreAt_mapCore_self (s : State) (n : Nat) (f : Core → Core) : coreAt (mapCore s n f) n = f (coreAt s n) := by
  simp [mapCore]

theorem coreAt_mapCore_ne (s : State) {n m : Nat} (f : Core → Core) (h : m ≠ n) :
    coreAt (mapCore s n f) m = coreAt s m := coreAt_setCore_ne s _ h

@[simp] theorem me_mapMe (s : State) (f : Core → Core) : me (mapMe s f) = f (me s) := by
  simp [me, mapMe]

/-- Another core is as it was. -/
theorem coreAt_mapMe_ne (s : State) {m : Nat} (f : Core → Core) (h : m ≠ s.cur) :
    coreAt (mapMe s f) m = coreAt s m := coreAt_mapCore_ne s f h

theorem tabErase_of_none {α : Type} : ∀ (t : Tab α) (n : Nat), tabFind t n = none → tabErase t n = t
  | [], _, _ => rfl
  | (k, v) :: r, n, h => by
    rw [tabFind_cons] at h
    split at h
    · exact absurd h (by simp)
    · next hk => rw [tabErase, if_neg hk, tabErase_of_none r n h]

theorem tabErase_tabInsert {α : Type} (n : Nat) (a : α) : ∀ (t : Tab α), tabErase (tabInsert n a t) n = tabErase t n
  | [] => by simp [tabInsert, tabErase]
  | (k, v) :: r => by
    simp only [tabInsert]
    split
    · rw [tabErase, if_pos rfl]
    · simp only [tabErase]
      split
      · exact tabErase_tabInsert n a r
      · rw [tabErase_tabInsert n a r]

theorem tabErase_idem {α : Type} (t : Tab α) (n : Nat) : tabErase (tabErase t n) n = tabErase t n :=
  tabErase_of_none _ _ (by rw [tabFind_tabErase, if_pos rfl])

theorem tabPut_tabPut {α : Type} (t : Tab α) (n : Nat) (a b : α) : tabPut (tabPut t n a) n b = tabPut t n b := by
  simp only [tabPut, tabErase_tabInsert, tabErase_idem]

@[simp] theorem setCore_setCore (s : State) (n : Nat) (c d : Core) : setCore (setCore s n c) n d = setCore s n d := by
  simp [setCore, tabPut_tabPut]

/-- Two updates of the current core are one. -/
theorem mapMe_mapMe (s : State) (f g : Core → Core) : mapMe (mapMe s f) g = mapMe s (fun c => g (f c)) := by
  have h : coreAt (setCore s s.cur (f (coreAt s s.cur))) s.cur = f (coreAt s s.cur) := coreAt_setCore_self ..
  simp only [mapMe, mapCore, setCore_cur, setCore_setCore, h]

theorem mapMe_congr (s : State) {f g : Core → Core} (h : f (me s) = g (me s)) : mapMe s f = mapMe s g := by
  simp only [mapMe, mapCore]; rw [show f (coreAt s s.cur) = g (coreAt s s.cur) from h]

/-! ## A bundle that nothing keeps -/

/-- The one slot of a bundle. -/
def only (sl : Slot) (w : Nat) (m : Sem) : Item := ⟨sl, w, .ok m⟩

@[simp] theorem only_sem (sl : Slot) (w : Nat) (m : Sem) : (only sl w m).sem = m := rfl
@[simp] theorem only_slot (sl : Slot) (w : Nat) (m : Sem) : (only sl w m).slot = sl := rfl

theorem clear_iff (s : State) (m : Sem) : clear s m = true ↔
    m.illop = false ∧ m.linkerr = none ∧ (m.unit.map (fun u => (me s).busy u.1)).getD false = false ∧
    (m.logs && decide (512 ≤ (me s).runLog.length)) = false ∧ m.reads.any (me s).waitRead = false ∧
    m.writes.any (me s).waitWrite = false ∧ m.stall = false ∧ m.drain = false ∧
    (m.walks.isEmpty || hasWalked s) = true ∧ (gateClosed s && m.sends) = false ∧ (fenceStays s && m.fence) = false ∧
    m.late = [] := by
  simp only [clear, Bool.and_eq_true, Bool.not_eq_true', Option.isNone_iff_eq_none, List.isEmpty_iff, and_assoc]

theorem comesToIssue_iff (s : State) : comesToIssue s = true ↔
    (me s).life = .running ∧ ((me s).stall.map Stall.early).getD false = false ∧
    (me s).stall.bind Stall.lccNext = none := by
  simp only [comesToIssue, Bool.and_eq_true, Bool.not_eq_true', beq_iff_eq, Option.isNone_iff_eq_none, and_assoc]

/-- A clear instruction, alone in its bundle, issues. -/
theorem attempt_clear (s : State) (sl : Slot) (w nxt : Nat) (m : Sem)
    (he : ((me s).stall.map Stall.early).getD false = false) (hc : clear s m = true) :
    attempt [only sl w m] nxt s = commit [only sl w m] [only sl w m] nxt s := by
  obtain ⟨h1, h2, h3, h4, h5, h6, h7, h8, h9, h10, hf, h11⟩ := (clear_iff s m).1 hc
  have htodo : todoOf (me s) [only sl w m] = [only sl w m] := by simp [todoOf, he]
  have hfull : logFull (me s) [only sl w m] (only sl w m) = decide (512 ≤ (me s).runLog.length) := by
    simp [logFull]
  have hres : (only sl w m).res = .ok m := rfl
  have hill : firstIllop (me s) [only sl w m] [only sl w m] = none := by
    simp only [firstIllop, reasonOf, hres, hfull, h1, h3, h4]
    simp
  have hst : stalled s [only sl w m] = false := by
    simp only [stalled, objsHeld, mustWalk, gateHeld, fenceHeld, List.any_cons, List.any_nil, only_sem, h5, h6, h7, h8, h10,
      Bool.or_false, Bool.false_or]
    simp only [fenceStays] at hf
    simp only [hasWalked] at h9
    cases hw : m.walks.isEmpty <;> simp_all
  have hch : checks (me s) [only sl w m] = [] := by simp [checks, hill, h2]
  have htake : takenCause (me s) [only sl w m] = none := by simp [takenCause, hch, h11, firstLate]
  simp [attempt, htodo, hst, secondCheck, htake]

/-- The meaning of a clear slot instruction. -/
theorem issueAlone_clear (i : Instr) (sl : Slot) (sem : Env → State → Sem) (s : State) (hsl : i.slot? = some sl)
    (hr : comesToIssue s = true) (hc : clear s (sem (envOf s i) s) = true) :
    issueAlone i sem s = .next (commit [only sl (encode i) (sem (envOf s i) s)] [only sl (encode i) (sem (envOf s i) s)]
      ((me s).bpc + 1 + sl.bytes) s) := by
  obtain ⟨hl, he, _⟩ := (comesToIssue_iff s).1 hr
  have henv : envOf s i = ⟨phaseOf s (me s), (me s).bpc + 1 + sl.bytes, encode i⟩ := by simp [envOf, hsl]
  rw [henv] at hc ⊢
  simp only [issueAlone, hl, hsl, Option.getD_some]
  simp only [bne_self_eq_false, Bool.false_eq_true, if_false]
  exact congrArg _ (attempt_clear s sl _ _ _ he hc)

/-! ## What its issue does -/

/-- The state with the unit of an instruction taken, if it uses one. -/
def occupied (u : Option (VUnit × Nat)) (s : State) : State :=
  match u with
  | some (u, ii) => occupy u ii s
  | none => s

/-- The effects of an instruction before its time passes: scoreboard marks, its own effect, its unit. -/
def effected (m : Sem) (s : State) : State :=
  occupied m.unit (m.eff (if m.mark then marks m.reads m.writes s else s))

theorem checkDue_only (s : State) (sl : Slot) (w : Nat) (m : Sem) (hm : m.isM = decide (sl = .m))
    (hrdv : m.rdv ≠ some .phopen ∧ m.rdv ≠ some .phpub) : checkDue s (me s) [only sl w m] = checkAt sl s := by
  have h1 : (m.rdv == some Rdv.phopen) = false := by simpa using hrdv.1
  have h2 : (m.rdv == some Rdv.phpub) = false := by simpa using hrdv.2
  have h3 : (!m.isM) = (sl != .m) := by rw [hm]; cases sl <;> rfl
  simp only [checkDue, checkAt, bundleInside, insidePhase, List.any_cons, List.any_nil, only_sem, h1, h2, Bool.or_false,
    Bool.not_false, Bool.and_true, h3]

/-- What the issue of a bundle of one instruction does to the core, once its effects have come about. -/
theorem advance_only (c : Core) (sl : Slot) (w nxt : Nat) (m : Sem) (due : Option Bool) (hm : m.isM = decide (sl = .m))
    (hl : m.lpc = none) (hadv : 1 ≤ m.adv) (hst : c.stall.bind Stall.lccNext = none)
    (hn : nxt = c.bpc + 1 + sl.bytes) :
    c.advance [only sl w m] nxt due =
      { ({ c with units := c.units ++ m.unit.toList } : Core).onward sl m.adv due with
        bpc := m.redirect.getD (c.bpc + 1 + sl.bytes) } := by
  subst hn
  have hmax : max 1 m.adv = m.adv := by omega
  have hp : ∀ (c' : Core), c'.stall = c.stall → c'.pass m.adv = c'.tick m.adv := by
    intro c' h
    simp only [Core.pass, h, hst]
  have hf1 : ([only sl w m].filterMap (fun (it : Item) => it.sem.unit)) = m.unit.toList := by
    cases hu : m.unit <;> simp [hu]
  have hf2 : ([only sl w m].filterMap (fun (it : Item) => it.sem.redirect)).head? = m.redirect := by
    cases hu : m.redirect <;> simp [hu]
  simp only [Core.advance, List.foldl_cons, List.foldl_nil, only_sem, hmax, List.any_cons, List.any_nil, Bool.or_false,
    hf1, hf2]
  rw [hp]
  rotate_left
  · rfl
  simp only [Core.tick, Core.elapse, Core.onward, hm]
  have hlpc : ([only sl w m].filterMap (fun (it : Item) => it.sem.lpc)).head?.getD
      (if decide (sl = .m) = true then c.lpc + 1 else c.lpc) = if sl = .m then c.lpc + 1 else c.lpc := by
    simp [hl]
  rw [hlpc]
  rcases htl : c.tl with _ | _ | n
  · simp
  · simp
  · simp

/-- The time of a bundle of one instruction, once its effects have come about. -/
theorem passed_only (s t : State) (sl : Slot) (w : Nat) (m : Sem) (hm : m.isM = decide (sl = .m)) (hl : m.lpc = none)
    (hadv : 1 ≤ m.adv) (ht : m.eff (if m.mark then marks m.reads m.writes s else s) = t)
    (hst : (me t).stall.bind Stall.lccNext = none) (hb : (me t).bpc = (me s).bpc) :
    mapMe t (fun c => c.advance [only sl w m] ((me s).bpc + 1 + sl.bytes) (checkAt sl s)) =
      match m.redirect with
      | none => onward sl m.adv s (effected m s)
      | some a => goesTo a (onward sl m.adv s (effected m s)) := by
  have hadv' := advance_only (me t) sl w ((me s).bpc + 1 + sl.bytes) m (checkAt sl s) hm hl hadv hst (by rw [hb])
  have hocc : effected m s = mapMe t (fun c => { c with units := c.units ++ m.unit.toList }) ∨
      (m.unit = none ∧ effected m s = t) := by
    simp only [effected, occupied, ht]
    cases hu : m.unit with
    | none => exact .inr ⟨rfl, rfl⟩
    | some u => exact .inl rfl
  have hself : ∀ f : Core → Core, f (me t) = (me t).advance [only sl w m] ((me s).bpc + 1 + sl.bytes) (checkAt sl s) →
      mapMe t (fun c => c.advance [only sl w m] ((me s).bpc + 1 + sl.bytes) (checkAt sl s)) = mapMe t f :=
    fun f h => mapMe_congr t h.symm
  cases hr : m.redirect with
  | none =>
    simp only [hr, Option.getD_none] at hadv'
    rcases hocc with h | ⟨hu, h⟩
    · rw [h, onward, mapMe_mapMe]
      exact hself _ hadv'.symm
    · rw [h, onward]
      refine hself _ ?_
      rw [hadv']
      simp [hu, Core.onward]
  | some a =>
    simp only [hr, Option.getD_some] at hadv'
    show _ = goesTo a (onward sl m.adv s (effected m s))
    rcases hocc with h | ⟨hu, h⟩
    · rw [h, onward, goesTo, mapMe_mapMe, mapMe_mapMe]
      exact hself _ hadv'.symm
    · rw [h, onward, goesTo, mapMe_mapMe]
      refine hself _ ?_
      rw [hadv']
      simp [hu, Core.onward]

/-- What follows the issue of a bundle of one instruction (R148, R313, R388-R390). -/
def followed (m : Sem) (t : State) : State :=
  if spent t then t else
  match m.after with
  | .go => t
  | .trap imm => trapOn t t.cur 9 (BitVec.ofNat 64 imm) 0 (me t).bpc (me t).lpc true
  | .tret => comeBack (mapMe t Core.leave)
  | .endp => mapMe t (fun c => { c with life := .ended })
  | .snap area accs => mapMe t (fun c => c.openSnap area accs)

/-- The issue of a bundle of one instruction: its effects, its time, and what follows. -/
theorem commit_only (s : State) (sl : Slot) (w : Nat) (m : Sem) (hm : m.isM = decide (sl = .m))
    (hrdv : m.rdv ≠ some .phopen ∧ m.rdv ≠ some .phpub) (hl : m.lpc = none) (hadv : 1 ≤ m.adv)
    (hst : (me (m.eff (if m.mark then marks m.reads m.writes s else s))).stall.bind Stall.lccNext = none)
    (hb : (me (m.eff (if m.mark then marks m.reads m.writes s else s))).bpc = (me s).bpc) :
    commit [only sl w m] [only sl w m] ((me s).bpc + 1 + sl.bytes) s =
      followed m (match m.redirect with
        | none => onward sl m.adv s (effected m s)
        | some a => goesTo a (onward sl m.adv s (effected m s))) := by
  have heff : effects [only sl w m] s = m.eff (if m.mark then marks m.reads m.writes s else s) := by
    simp only [effects, List.foldl_cons, List.foldl_nil, only_sem]
    rfl
  rw [← passed_only s _ sl w m hm hl hadv rfl hst hb]
  simp only [commit, List.foldl_cons, List.foldl_nil, only_sem, heff, checkDue_only s sl w m hm hrdv]
  rfl

/-- The meaning of a clear slot instruction that only goes on: its effects, and the time of its bundle. -/
theorem issueAlone_onward (i : Instr) (sl : Slot) (sem : Env → State → Sem) (s : State) (m : Sem)
    (hsl : i.slot? = some sl) (hr : comesToIssue s = true) (hsem : sem (envOf s i) s = m) (hc : clear s m = true)
    (hm : m.isM = decide (sl = .m)) (hrdv : m.rdv ≠ some .phopen ∧ m.rdv ≠ some .phpub) (hl : m.lpc = none)
    (hadv : 1 ≤ m.adv)
    (hst : (me (m.eff (if m.mark then marks m.reads m.writes s else s))).stall.bind Stall.lccNext = none)
    (hb : (me (m.eff (if m.mark then marks m.reads m.writes s else s))).bpc = (me s).bpc) :
    issueAlone i sem s = .next (followed m (match m.redirect with
      | none => onward sl m.adv s (effected m s)
      | some a => goesTo a (onward sl m.adv s (effected m s)))) := by
  subst hsem
  rw [issueAlone_clear i sl sem s hsl hr hc, commit_only s sl (encode i) _ hm hrdv hl hadv hst hb]

end Sys2Proof.Machine
end

