-- ==== Sys2Proof/Laws/Lands.lean ====
section
/-! SUPPORT. The meanings whose only effect is a result on its way: what `toX`, `toP` and `underPred` come to. -/

namespace Sys2Proof.Machine

@[simp] theorem me_fly (i : Bool) (l : Nat) (d : Landing) (s : State) :
    me (fly i l d s) = { me s with pipe := (me s).pipe ++ [⟨l, i, d⟩] } := me_mapMe ..

@[simp] theorem envOf_inside (s : State) (i : Instr) : (envOf s i).ph.inside = insidePhase s := rfl

theorem stall_of_comes {s : State} (h : comesToIssue s = true) : (me s).stall.bind Stall.lccNext = none :=
  ((comesToIssue_iff s).1 h).2.2

@[simp] theorem marks_nil (s : State) : marks [] [] s = s := rfl

/-- An instruction that only sends a result on its way. -/
theorem issueAlone_lands (i : Instr) (sl : Slot) (sem : Env → State → Sem) (s : State) (lat : Nat) (d : Landing)
    (hsl : i.slot? = some sl) (hns : sl ≠ .m) (hr : comesToIssue s = true)
    (hsem : sem (envOf s i) s = { eff := fly (insidePhase s) lat d }) :
    issueAlone i sem s = .next (lands sl lat d s) := by
  rw [issueAlone_onward i sl sem s _ hsl hr hsem]
  · simp only [followed, effected, occupied, lands, marks_nil, ite_self]
  · simp [clear]
  · simp [hns]
  · simp
  · rfl
  · simp
  · simpa using stall_of_comes hr
  · simp

end Sys2Proof.Machine
end

