-- ==== Sys2Proof/Laws/Memory.lean ====
section
/-! SUPPORT. What the memory operations do: every one of them keeps the canonical form, a read finds what was written
last, and a write leaves every other address alone. -/

namespace Sys2Proof.Machine

/-! ## The canonical form, one cell at a time -/

/-- Cells in rising order from address `a` on, none of them the default. -/
def CellsFrom : Nat → Memory → Prop
  | _, [] => True
  | a, (k, v) :: r => a ≤ k ∧ v ≠ Memory.dflt ∧ CellsFrom (k + 1) r

theorem cellsFrom_mono {b a : Nat} (h : b ≤ a) : ∀ {m : Memory}, CellsFrom a m → CellsFrom b m
  | [], _ => trivial
  | (_, _) :: _, hm => ⟨Nat.le_trans h hm.1, hm.2⟩

theorem keysRise_iff : ∀ (k : Nat) (v : Byte) (r : Memory),
    keysRise ((k, v) :: r) = true ∧ r.all (fun p => p.2 != Memory.dflt) = true ↔ CellsFrom (k + 1) r
  | _, _, [] => by simp [keysRise, CellsFrom]
  | k, v, (k', v') :: r => by
    have ih := keysRise_iff k' v' r
    simp only [keysRise, Bool.and_eq_true, decide_eq_true_eq, List.all_cons, CellsFrom, bne_iff_ne, ne_eq] at ih ⊢
    rw [← ih]
    constructor
    · rintro ⟨⟨h1, h2⟩, h3, h4⟩
      exact ⟨by omega, h3, h2, h4⟩
    · rintro ⟨h1, h3, h2, h4⟩
      exact ⟨⟨by omega, h2⟩, h3, h4⟩

theorem Memory.wf_iff (m : Memory) : m.wf = true ↔ CellsFrom 0 m := by
  cases m with
  | nil => simp [Memory.wf, tabWf, keysRise, CellsFrom]
  | cons p r =>
    obtain ⟨k, v⟩ := p
    have h := keysRise_iff k v r
    simp only [Memory.wf, tabWf, Bool.and_eq_true, List.all_cons, bne_iff_ne, ne_eq, CellsFrom, Nat.zero_le, true_and]
    constructor
    · rintro ⟨h1, h2, h3⟩
      exact ⟨h2, h.1 ⟨h1, h3⟩⟩
    · rintro ⟨h2, h3⟩
      exact ⟨(h.2 h3).1, h2, (h.2 h3).2⟩

@[simp] theorem Memory.wf_nil : Memory.wf [] = true := rfl

/-! ## Reading one byte -/

@[simp] theorem Memory.read_nil (a : Nat) : Memory.read [] a = Memory.dflt := rfl

theorem Memory.read_cons (k : Nat) (v : Byte) (r : Memory) (a : Nat) :
    Memory.read ((k, v) :: r) a = if k = a then v else Memory.read r a := by
  simp only [Memory.read, tabGet, tabFind]
  split <;> simp

/-- Nothing is listed below the first cell. -/
theorem Memory.read_below : ∀ {m : Memory} {a x : Nat}, CellsFrom a m → x < a → m.read x = Memory.dflt
  | [], _, _, _, _ => rfl
  | (k, v) :: r, a, x, hm, hx => by
    rw [Memory.read_cons, if_neg (by have := hm.1; omega)]
    exact Memory.read_below hm.2.2 (by have := hm.1; omega)

/-! ## The two parts of a memory at an address -/

theorem cellsFrom_dropBelow : ∀ {m : Memory} {b a : Nat}, CellsFrom b m → CellsFrom a (dropBelow a m)
  | [], _, _, _ => trivial
  | (k, v) :: r, b, a, hm => by
    simp only [dropBelow]
    split
    · exact cellsFrom_dropBelow hm.2.2
    · exact ⟨by omega, hm.2⟩

theorem read_dropBelow : ∀ {m : Memory} {b a x : Nat}, CellsFrom b m → a ≤ x → (dropBelow a m).read x = m.read x
  | [], _, _, _, _, _ => rfl
  | (k, v) :: r, b, a, x, hm, hx => by
    simp only [dropBelow]
    split
    · rw [read_dropBelow hm.2.2 hx, Memory.read_cons, if_neg (by omega)]
    · rfl

theorem read_keepBelow : ∀ {m : Memory} {b a x : Nat}, CellsFrom b m → x < a → (keepBelow a m).read x = m.read x
  | [], _, _, _, _, _ => rfl
  | (k, v) :: r, b, a, x, hm, hx => by
    simp only [keepBelow]
    split
    · rw [Memory.read_cons, Memory.read_cons, read_keepBelow hm.2.2 hx]
    · rw [Memory.read_nil, Memory.read_cons, if_neg (by omega)]
      exact (Memory.read_below hm.2.2 (by omega)).symm

theorem read_keepBelow_above : ∀ {m : Memory} {a x : Nat}, a ≤ x → (keepBelow a m).read x = Memory.dflt
  | [], _, _, _ => rfl
  | (k, v) :: r, a, x, hx => by
    simp only [keepBelow]
    split
    · rw [Memory.read_cons, if_neg (by omega)]
      exact read_keepBelow_above hx
    · rfl

/-- A part below an address put before a part from that address on. -/
theorem cellsFrom_append : ∀ {m : Memory} {b a : Nat} {r : Memory}, CellsFrom b m → b ≤ a → CellsFrom a r →
    CellsFrom b (keepBelow a m ++ r)
  | [], _, _, _, _, hb, hr => cellsFrom_mono hb hr
  | (k, v) :: m, b, a, r, hm, hb, hr => by
    simp only [keepBelow]
    split
    · exact ⟨hm.1, hm.2.1, cellsFrom_append hm.2.2 (by omega) hr⟩
    · exact cellsFrom_mono hb hr

theorem Memory.read_append (m r : Memory) (x : Nat) :
    Memory.read (m ++ r) x = if (tabFind m x).isSome then m.read x else Memory.read r x := by
  induction m with
  | nil => simp [tabFind]
  | cons p m ih =>
    obtain ⟨k, v⟩ := p
    rw [List.cons_append, Memory.read_cons, ih, Memory.read_cons]
    simp only [tabFind]
    by_cases h : k = x <;> simp [h]

theorem tabFind_keepBelow : ∀ {m : Memory} {a x : Nat}, a ≤ x → tabFind (keepBelow a m) x = none
  | [], _, _, _ => rfl
  | (k, v) :: r, a, x, hx => by
    simp only [keepBelow]
    split
    · simp only [tabFind]
      rw [if_neg (by omega)]
      exact tabFind_keepBelow hx
    · rfl

/-! ## The merge of a run of bytes -/

theorem cellsFrom_mergeBytes : ∀ (a : Nat) (bs : List (Option Byte)) (m : Memory), CellsFrom a m →
    CellsFrom a (mergeBytes a bs m)
  | a, [], m, hm => by
    cases m <;> exact hm
  | a, b :: bs, [], _ => by
    have ih := cellsFrom_mergeBytes (a + 1) bs [] trivial
    simp only [mergeBytes]
    split
    · split
      · exact cellsFrom_mono (Nat.le_succ a) ih
      · exact ⟨Nat.le_refl a, by assumption, ih⟩
    · exact cellsFrom_mono (Nat.le_succ a) ih
  | a, b :: bs, (k, w) :: r, hm => by
    have hrest : CellsFrom (a + 1) (if k = a then r else (k, w) :: r) := by
      split
      · next h => subst h; exact hm.2.2
      · next h => exact ⟨by have := hm.1; omega, hm.2⟩
    have ih := cellsFrom_mergeBytes (a + 1) bs _ hrest
    simp only [mergeBytes]
    split
    · split
      · exact cellsFrom_mono (Nat.le_succ a) ih
      · exact ⟨Nat.le_refl a, by assumption, ih⟩
    · exact cellsFrom_mono (Nat.le_succ a) ih

/-- What a merge leaves at an address: the byte written there, or the old one. -/
theorem read_mergeBytes : ∀ (a : Nat) (bs : List (Option Byte)) (m : Memory) (x : Nat), CellsFrom a m → a ≤ x →
    (mergeBytes a bs m).read x = ((bs[x - a]?).bind id).getD (m.read x)
  | a, [], m, x, _, _ => by
    cases m <;> simp [mergeBytes]
  | a, b :: bs, [], x, _, hx => by
    have ih := read_mergeBytes (a + 1) bs [] x trivial
    have hb := Memory.read_below (x := a) (cellsFrom_mergeBytes (a + 1) bs [] trivial) (Nat.lt_succ_self a)
    by_cases h : x = a
    · subst h
      simp only [mergeBytes, Nat.sub_self, List.getElem?_cons_zero, Option.bind_some, id_eq, Memory.read_nil]
      split
      · split
        · next v hv => simp [hb, hv]
        · rw [Memory.read_cons, if_pos rfl]; rfl
      · rw [hb]; rfl
    · have hs : x - a = (x - (a + 1)) + 1 := by omega
      rw [hs, List.getElem?_cons_succ, ← ih (by omega)]
      simp only [mergeBytes]
      split
      · split
        · rfl
        · rw [Memory.read_cons, if_neg (by omega)]
      · rfl
  | a, b :: bs, (k, w) :: r, x, hm, hx => by
    have hrest : CellsFrom (a + 1) (if k = a then r else (k, w) :: r) := by
      split
      · next h => subst h; exact hm.2.2
      · next h => exact ⟨by have := hm.1; omega, hm.2⟩
    have ih := read_mergeBytes (a + 1) bs _ x hrest
    have hb := Memory.read_below (x := a) (cellsFrom_mergeBytes (a + 1) bs _ hrest) (Nat.lt_succ_self a)
    by_cases h : x = a
    · subst h
      simp only [mergeBytes, Nat.sub_self, List.getElem?_cons_zero, Option.bind_some, id_eq]
      by_cases hk : k = x
      · subst hk
        simp only [if_true, Memory.read_cons]
        cases b with
        | none =>
          simp only [Option.orElse_none]
          rw [if_neg hm.2.1, Memory.read_cons, if_pos rfl]
          rfl
        | some v =>
          simp only [Option.orElse_some]
          split
          · next hv => rw [if_pos rfl] at hb; rw [hb, hv]; rfl
          · rw [Memory.read_cons, if_pos rfl]; rfl
      · have hr : Memory.read ((k, w) :: r) x = Memory.dflt := by
          rw [Memory.read_cons, if_neg hk]
          exact Memory.read_below hm.2.2 (by have := hm.1; omega)
        rw [hr]
        simp only [if_neg hk] at hb ⊢
        cases b with
        | none => simp only [Option.orElse_none]; rw [hb]; rfl
        | some v =>
          simp only [Option.orElse_some]
          split
          · next hv => rw [hb, hv]; rfl
          · rw [Memory.read_cons, if_pos rfl]; rfl
    · have hs : x - a = (x - (a + 1)) + 1 := by omega
      have hm' : Memory.read (if k = a then r else (k, w) :: r) x = Memory.read ((k, w) :: r) x := by
        split
        · rw [Memory.read_cons, if_neg (by omega)]
        · rfl
      rw [hs, List.getElem?_cons_succ, ← hm', ← ih (by omega)]
      simp only [mergeBytes]
      split
      · split
        · rfl
        · rw [Memory.read_cons, if_neg (by omega)]
      · rfl

/-! ## Runs of bytes -/

/-- A write keeps the canonical form. -/
theorem Memory.wf_writeM {m : Memory} (h : m.wf = true) (a : Nat) (bs : List (Option Byte)) :
    (m.writeM a bs).wf = true := by
  rw [Memory.wf_iff] at h ⊢
  exact cellsFrom_append h (Nat.zero_le a) (cellsFrom_mergeBytes a bs _ (cellsFrom_dropBelow h))

theorem Memory.wf_writeN {m : Memory} (h : m.wf = true) (a : Nat) (bs : List Byte) : (m.writeN a bs).wf = true :=
  Memory.wf_writeM h a _

/-- What a write leaves at an address: the byte written there, or the old one. -/
theorem Memory.read_writeM {m : Memory} (h : m.wf = true) (a : Nat) (bs : List (Option Byte)) (x : Nat) :
    (m.writeM a bs).read x = if x < a then m.read x else ((bs[x - a]?).bind id).getD (m.read x) := by
  rw [Memory.wf_iff] at h
  have hd := cellsFrom_dropBelow (a := a) h
  rw [Memory.writeM, Memory.read_append]
  by_cases hx : x < a
  · rw [if_pos hx]
    split
    · exact read_keepBelow h hx
    · next hf =>
      rw [Memory.read_below (cellsFrom_mergeBytes a bs _ hd) hx, ← read_keepBelow h hx, Memory.read, tabGet]
      simp only [Option.not_isSome_iff_eq_none] at hf
      rw [hf]; rfl
  · rw [if_neg hx, tabFind_keepBelow (by omega)]
    simp only [Option.isSome_none, Bool.false_eq_true, if_false]
    rw [read_mergeBytes a bs _ x hd (by omega), read_dropBelow h (by omega)]

/-- A write leaves every other address alone. -/
theorem Memory.read_writeM_other {m : Memory} (h : m.wf = true) (a : Nat) (bs : List (Option Byte)) (x : Nat)
    (hx : x < a ∨ a + bs.length ≤ x) : (m.writeM a bs).read x = m.read x := by
  rw [Memory.read_writeM h]
  split
  · rfl
  · rw [List.getElem?_eq_none (by omega)]; rfl

theorem Memory.read_writeN_other {m : Memory} (h : m.wf = true) (a : Nat) (bs : List Byte) (x : Nat)
    (hx : x < a ∨ a + bs.length ≤ x) : (m.writeN a bs).read x = m.read x :=
  Memory.read_writeM_other h a _ x (by simpa using hx)

/-- A read finds the byte that a write left. -/
theorem Memory.read_writeN_at {m : Memory} (h : m.wf = true) (a : Nat) (bs : List Byte) (i : Nat) (hi : i < bs.length) :
    (m.writeN a bs).read (a + i) = bs[i] := by
  rw [Memory.writeN, Memory.read_writeM h, if_neg (by omega), Nat.add_sub_cancel_left]
  simp [hi]

theorem takeBytes_eq : ∀ (n a : Nat) (m : Memory), CellsFrom a m → takeBytes n a m = (List.range n).map (fun i => m.read (a + i))
  | 0, _, _, _ => rfl
  | n + 1, a, [], _ => by
    rw [takeBytes, takeBytes_eq n (a + 1) [] trivial, List.range_succ_eq_map]
    simp [Function.comp_def]
  | n + 1, a, (k, v) :: r, hm => by
    rw [List.range_succ_eq_map, List.map_cons, List.map_map]
    simp only [takeBytes, Nat.add_zero]
    split
    · next h =>
      subst h
      rw [takeBytes_eq n (k + 1) r hm.2.2, Memory.read_cons, if_pos rfl]
      congr 1
      apply List.map_congr_left
      intro i _
      simp only [Function.comp, Memory.read_cons]
      rw [if_neg (by omega)]
      congr 1; omega
    · next h =>
      have hm' : CellsFrom (a + 1) ((k, v) :: r) := ⟨by have := hm.1; omega, hm.2⟩
      rw [takeBytes_eq n (a + 1) _ hm', Memory.read_cons, if_neg h]
      rw [Memory.read_below hm.2.2 (by have := hm.1; omega)]
      congr 1
      apply List.map_congr_left
      intro i _
      simp only [Function.comp]
      congr 1; omega

/-- A run of bytes is read byte by byte. -/
theorem Memory.readN_eq {m : Memory} (h : m.wf = true) (a n : Nat) :
    m.readN a n = (List.range n).map (fun i => m.read (a + i)) := by
  rw [Memory.wf_iff] at h
  rw [Memory.readN, takeBytes_eq n a _ (cellsFrom_dropBelow h)]
  apply List.map_congr_left
  intro i _
  exact read_dropBelow h (by omega)

/-- A run of bytes is found as it was written. -/
theorem Memory.readN_writeN {m : Memory} (h : m.wf = true) (a : Nat) (bs : List Byte) :
    (m.writeN a bs).readN a bs.length = bs := by
  rw [Memory.readN_eq (Memory.wf_writeN h a bs)]
  apply List.ext_getElem
  · simp
  · intro i h1 h2
    simp only [List.getElem_map, List.getElem_range]
    exact Memory.read_writeN_at h a bs i h2

end Sys2Proof.Machine
end

