-- ==== Sys2Proof/Laws/PerInstr.lean ====
section
/-! SUPPORT. The word of every instruction fits in its slot. -/

namespace Sys2Proof

theorem b2n_lt (b : Bool) : b2n b < 2 ^ 1 := by cases b <;> decide

theorem VTy.code_lt (t : VTy) : t.code < 2 ^ 4 := by cases t <;> decide

theorem Rnd.code_lt (r : Rnd) : r.code < 2 ^ 4 := by cases r <;> decide

theorem rWord_lt {op d a b s w func : Nat} (h0 : op < 2 ^ 6) (h1 : d < 2 ^ 5) (h2 : a < 2 ^ 5) (h3 : b < 2 ^ 5) (h4 : s
    < 2 ^ 1) (h5 : w < 2 ^ 2) (h6 : func < 2 ^ 8) :
    rWord ⟨op, d, a, b, s, w, func⟩ < 2 ^ 32 := by
  simp only [rWord]
  omega

theorem iWord_lt {op d a imm : Nat} (h0 : op < 2 ^ 6) (h1 : d < 2 ^ 5) (h2 : a < 2 ^ 5) (h3 : imm < 2 ^ 16) :
    iWord ⟨op, d, a, imm⟩ < 2 ^ 32 := by
  simp only [iWord]
  omega

theorem bWord_lt {op c disp : Nat} (h0 : op < 2 ^ 6) (h1 : c < 2 ^ 5) (h2 : disp < 2 ^ 21) :
    bWord ⟨op, c, disp⟩ < 2 ^ 32 := by
  simp only [bWord]
  omega

theorem vWord_lt {op vd va vb vc pred neg ty rnd mod : Nat} (h0 : op < 2 ^ 8) (h1 : vd < 2 ^ 4) (h2 : va < 2 ^ 4) (h3 :
    vb < 2 ^ 4) (h4 : vc < 2 ^ 4) (h5 : pred < 2 ^ 3) (h6 : neg < 2 ^ 1) (h7 : ty < 2 ^ 4) (h8 : rnd < 2 ^ 4) (h9 : mod
    < 2 ^ 28) :
    vWord ⟨op, vd, va, vb, vc, pred, neg, ty, rnd, mod⟩ < 2 ^ 64 := by
  simp only [vWord]
  omega

theorem mWord_lt {op acc tA tB sh sw pa pb mode : Nat} (h0 : op < 2 ^ 6) (h1 : acc < 2 ^ 3) (h2 : tA < 2 ^ 6) (h3 : tB <
    2 ^ 6) (h4 : sh < 2 ^ 2) (h5 : sw < 2 ^ 1) (h6 : pa < 2 ^ 4) (h7 : pb < 2 ^ 4) (h8 : mode < 2 ^ 32) :
    mWord ⟨op, acc, tA, tB, sh, sw, pa, pb, mode⟩ < 2 ^ 64 := by
  simp only [mWord]
  omega

theorem cWord_lt {op tag tile h sh sw cb aux pr : Nat} (h0 : op < 2 ^ 6) (h1 : tag < 2 ^ 9) (h2 : tile < 2 ^ 6) (h3 : h
    < 2 ^ 6) (h4 : sh < 2 ^ 2) (h5 : sw < 2 ^ 1) (h6 : cb < 2 ^ 5) (h7 : aux < 2 ^ 5) (h8 : pr < 2 ^ 24) :
    cWord ⟨op, tag, tile, h, sh, sw, cb, aux, pr⟩ < 2 ^ 64 := by
  simp only [cWord]
  omega

theorem lWord_lt {op port tile sh sw len ts : Nat} (h0 : op < 2 ^ 6) (h1 : port < 2 ^ 5) (h2 : tile < 2 ^ 6) (h3 : sh <
    2 ^ 2) (h4 : sw < 2 ^ 1) (h5 : len < 2 ^ 20) (h6 : ts < 2 ^ 24) :
    lWord ⟨op, port, tile, sh, sw, len, ts⟩ < 2 ^ 64 := by
  simp only [lWord]
  omega

namespace Laws.Encoding

/-- The word of a slot instruction fits in the bytes of its slot (R56). -/
def Statement (i : Instr) : Prop :=
  match i.slot? with
  | none => True
  | some sl => encode i < 2 ^ (8 * sl.bytes)

theorem add (d a b : XNo) (s w : Bool) : Statement (.add d a b s w) :=
  rWord_lt (by decide) d.isLt a.isLt b.isLt (b2n_lt s) (Nat.lt_of_lt_of_le (b2n_lt w) (by decide)) (by decide)
theorem sub (d a b : XNo) (s w : Bool) : Statement (.sub d a b s w) :=
  rWord_lt (by decide) d.isLt a.isLt b.isLt (b2n_lt s) (Nat.lt_of_lt_of_le (b2n_lt w) (by decide)) (by decide)
theorem mul (d a b : XNo) (s w : Bool) : Statement (.mul d a b s w) :=
  rWord_lt (by decide) d.isLt a.isLt b.isLt (b2n_lt s) (Nat.lt_of_lt_of_le (b2n_lt w) (by decide)) (by decide)
theorem mulh (d a b : XNo) : Statement (.mulh d a b) :=
  rWord_lt (by decide) d.isLt a.isLt b.isLt (by decide) (by decide) (by decide)
theorem mulhu (d a b : XNo) : Statement (.mulhu d a b) :=
  rWord_lt (by decide) d.isLt a.isLt b.isLt (by decide) (by decide) (by decide)
theorem div (d a b : XNo) (w : Bool) : Statement (.div d a b w) :=
  rWord_lt (by decide) d.isLt a.isLt b.isLt (by decide) (Nat.lt_of_lt_of_le (b2n_lt w) (by decide)) (by decide)
theorem divu (d a b : XNo) (w : Bool) : Statement (.divu d a b w) :=
  rWord_lt (by decide) d.isLt a.isLt b.isLt (by decide) (Nat.lt_of_lt_of_le (b2n_lt w) (by decide)) (by decide)
theorem rem (d a b : XNo) (w : Bool) : Statement (.rem d a b w) :=
  rWord_lt (by decide) d.isLt a.isLt b.isLt (by decide) (Nat.lt_of_lt_of_le (b2n_lt w) (by decide)) (by decide)
theorem remu (d a b : XNo) (w : Bool) : Statement (.remu d a b w) :=
  rWord_lt (by decide) d.isLt a.isLt b.isLt (by decide) (Nat.lt_of_lt_of_le (b2n_lt w) (by decide)) (by decide)
theorem and (d a b : XNo) : Statement (.and d a b) :=
  rWord_lt (by decide) d.isLt a.isLt b.isLt (by decide) (by decide) (by decide)
theorem or (d a b : XNo) : Statement (.or d a b) :=
  rWord_lt (by decide) d.isLt a.isLt b.isLt (by decide) (by decide) (by decide)
theorem xor (d a b : XNo) : Statement (.xor d a b) :=
  rWord_lt (by decide) d.isLt a.isLt b.isLt (by decide) (by decide) (by decide)
theorem sll (d a b : XNo) (s w : Bool) : Statement (.sll d a b s w) :=
  rWord_lt (by decide) d.isLt a.isLt b.isLt (b2n_lt s) (Nat.lt_of_lt_of_le (b2n_lt w) (by decide)) (by decide)
theorem srl (d a b : XNo) (w : Bool) : Statement (.srl d a b w) :=
  rWord_lt (by decide) d.isLt a.isLt b.isLt (by decide) (Nat.lt_of_lt_of_le (b2n_lt w) (by decide)) (by decide)
theorem sra (d a b : XNo) (w : Bool) : Statement (.sra d a b w) :=
  rWord_lt (by decide) d.isLt a.isLt b.isLt (by decide) (Nat.lt_of_lt_of_le (b2n_lt w) (by decide)) (by decide)
theorem min (d a b : XNo) : Statement (.min d a b) :=
  rWord_lt (by decide) d.isLt a.isLt b.isLt (by decide) (by decide) (by decide)
theorem max (d a b : XNo) : Statement (.max d a b) :=
  rWord_lt (by decide) d.isLt a.isLt b.isLt (by decide) (by decide) (by decide)
theorem minu (d a b : XNo) : Statement (.minu d a b) :=
  rWord_lt (by decide) d.isLt a.isLt b.isLt (by decide) (by decide) (by decide)
theorem maxu (d a b : XNo) : Statement (.maxu d a b) :=
  rWord_lt (by decide) d.isLt a.isLt b.isLt (by decide) (by decide) (by decide)
theorem clz (d a : XNo) (w : Bool) : Statement (.clz d a w) :=
  rWord_lt (by decide) d.isLt a.isLt (by decide) (by decide) (Nat.lt_of_lt_of_le (b2n_lt w) (by decide)) (by decide)
theorem popc (d a : XNo) (w : Bool) : Statement (.popc d a w) :=
  rWord_lt (by decide) d.isLt a.isLt (by decide) (by decide) (Nat.lt_of_lt_of_le (b2n_lt w) (by decide)) (by decide)
theorem cmp (p : PNo) (a b : XNo) (w : Bool) (cc : BitVec 4) : Statement (.cmp p a b w cc) :=
  rWord_lt (by decide) (Nat.lt_of_lt_of_le p.isLt (by decide)) a.isLt b.isLt (by decide) (Nat.lt_of_lt_of_le (b2n_lt w)
    (by decide)) (Nat.lt_of_lt_of_le cc.isLt (by decide))
theorem sel (d a b : XNo) (p : PNo) : Statement (.sel d a b p) :=
  rWord_lt (by decide) d.isLt a.isLt b.isLt (by decide) (by decide) (Nat.lt_of_lt_of_le p.isLt (by decide))
theorem plog (d a b : PNo) (t : BitVec 4) : Statement (.plog d a b t) :=
  rWord_lt (by decide) (Nat.lt_of_lt_of_le d.isLt (by decide)) (Nat.lt_of_lt_of_le a.isLt (by decide))
    (Nat.lt_of_lt_of_le b.isLt (by decide)) (by decide) (by decide) (Nat.lt_of_lt_of_le t.isLt (by decide))
theorem addi (d a : XNo) (imm : BitVec 16) : Statement (.addi d a imm) :=
  iWord_lt (by decide) d.isLt a.isLt imm.isLt
theorem andi (d a : XNo) (imm : BitVec 16) : Statement (.andi d a imm) :=
  iWord_lt (by decide) d.isLt a.isLt imm.isLt
theorem ori (d a : XNo) (imm : BitVec 16) : Statement (.ori d a imm) :=
  iWord_lt (by decide) d.isLt a.isLt imm.isLt
theorem xori (d a : XNo) (imm : BitVec 16) : Statement (.xori d a imm) :=
  iWord_lt (by decide) d.isLt a.isLt imm.isLt
theorem slli (d a : XNo) (sh : BitVec 6) : Statement (.slli d a sh) :=
  iWord_lt (by decide) d.isLt a.isLt (Nat.lt_of_lt_of_le sh.isLt (by decide))
theorem srli (d a : XNo) (sh : BitVec 6) : Statement (.srli d a sh) :=
  iWord_lt (by decide) d.isLt a.isLt (Nat.lt_of_lt_of_le sh.isLt (by decide))
theorem srai (d a : XNo) (sh : BitVec 6) : Statement (.srai d a sh) :=
  iWord_lt (by decide) d.isLt a.isLt (Nat.lt_of_lt_of_le sh.isLt (by decide))
theorem li (d : XNo) (imm : BitVec 16) : Statement (.li d imm) :=
  iWord_lt (by decide) d.isLt (by decide) imm.isLt
theorem lis (d a : XNo) (imm : BitVec 16) : Statement (.lis d a imm) :=
  iWord_lt (by decide) d.isLt a.isLt imm.isLt
theorem cmpi (p : PNo) (a : XNo) (cc : BitVec 3) (imm : BitVec 13) : Statement (.cmpi p a cc imm) :=
  iWord_lt (by decide) (Nat.lt_of_lt_of_le p.isLt (by decide)) a.isLt (by have := cc.isLt; have := imm.isLt; omega)
theorem bfx (d a : XNo) (se : Bool) (len pos : BitVec 6) : Statement (.bfx d a se len pos) :=
  iWord_lt (by decide) d.isLt a.isLt (by have := len.isLt; have := pos.isLt; have := b2n_lt se; omega)
theorem bfi (d a : XNo) (len pos : BitVec 6) : Statement (.bfi d a len pos) :=
  iWord_lt (by decide) d.isLt a.isLt (by have := len.isLt; have := pos.isLt; omega)
theorem br (neg : Bool) (p : PNo) (disp : BitVec 21) : Statement (.br neg p disp) :=
  bWord_lt (by decide) (by have := p.isLt; have := b2n_lt neg; omega) disp.isLt
theorem call (l : XNo) (disp : BitVec 21) : Statement (.call l disp) :=
  bWord_lt (by decide) l.isLt disp.isLt
theorem jr (d a : XNo) : Statement (.jr d a) :=
  rWord_lt (by decide) d.isLt a.isLt (by decide) (by decide) (by decide) (by decide)
theorem loop (c : XNo) (disp : BitVec 21) : Statement (.loop c disp) :=
  bWord_lt (by decide) c.isLt disp.isLt
theorem lds (d b : XNo) (size : BitVec 2) (off : BitVec 14) : Statement (.lds d b size off) :=
  iWord_lt (by decide) d.isLt b.isLt (by have := size.isLt; have := off.isLt; omega)
theorem ldz (d b : XNo) (size : BitVec 2) (off : BitVec 14) : Statement (.ldz d b size off) :=
  iWord_lt (by decide) d.isLt b.isLt (by have := size.isLt; have := off.isLt; omega)
theorem st (d b : XNo) (size : BitVec 2) (off : BitVec 14) : Statement (.st d b size off) :=
  iWord_lt (by decide) d.isLt b.isLt (by have := size.isLt; have := off.isLt; omega)
theorem shw (n : BitVec 4) (a : XNo) (f : BitVec 3) : Statement (.shw n a f) :=
  rWord_lt (by decide) (Nat.lt_of_lt_of_le n.isLt (by decide)) a.isLt (by decide) (by decide) (by decide)
    (Nat.lt_of_lt_of_le f.isLt (by decide))
theorem litr (d a : XNo) (imm : BitVec 12) : Statement (.litr d a imm) :=
  iWord_lt (by decide) d.isLt a.isLt (Nat.lt_of_lt_of_le imm.isLt (by decide))
theorem csrr (d : XNo) (csr : BitVec 16) : Statement (.csrr d csr) :=
  iWord_lt (by decide) d.isLt (by decide) csr.isLt
theorem csrw (a : XNo) (csr : BitVec 16) : Statement (.csrw a csr) :=
  iWord_lt (by decide) (by decide) a.isLt csr.isLt
theorem tdw (n : TNo) (a : XNo) : Statement (.tdw n a) :=
  iWord_lt (by decide) (by decide) a.isLt (Nat.lt_of_lt_of_le n.isLt (by decide))
theorem bfw (n : BitVec 4) (a : XNo) : Statement (.bfw n a) :=
  iWord_lt (by decide) (Nat.lt_of_lt_of_le n.isLt (by decide)) a.isLt (by decide)
theorem nop : Statement .nop :=
  iWord_lt (by decide) (by decide) (by decide) (by decide)
theorem nopn (n : BitVec 16) : Statement (.nopn n) :=
  iWord_lt (by decide) (by decide) (by decide) n.isLt
theorem endp : Statement .endp :=
  iWord_lt (by decide) (by decide) (by decide) (by decide)
theorem lalign : Statement .lalign :=
  iWord_lt (by decide) (by decide) (by decide) (by decide)
theorem wnext (d : PNo) : Statement (.wnext d) :=
  iWord_lt (by decide) (by decide) (by decide) (Nat.lt_of_lt_of_le d.isLt (by decide))
theorem phopen (a : XNo) (e1 : Bool) (acc1 : ANo) (e0 : Bool) (acc0 : ANo) : Statement (.phopen a e1 acc1 e0 acc0) :=
  iWord_lt (by decide) a.isLt (by decide)
    (by have := acc1.isLt; have := acc0.isLt; have := b2n_lt e1; have := b2n_lt e0; omega)
theorem phseal : Statement .phseal :=
  iWord_lt (by decide) (by decide) (by decide) (by decide)
theorem phpub : Statement .phpub :=
  iWord_lt (by decide) (by decide) (by decide) (by decide)
theorem phacq : Statement .phacq :=
  iWord_lt (by decide) (by decide) (by decide) (by decide)
theorem pfence : Statement .pfence :=
  iWord_lt (by decide) (by decide) (by decide) (by decide)
theorem trap (imm : BitVec 16) : Statement (.trap imm) :=
  iWord_lt (by decide) (by decide) (by decide) imm.isLt
theorem tret : Statement .tret :=
  iWord_lt (by decide) (by decide) (by decide) (by decide)
theorem binit (a b : XNo) : Statement (.binit a b) :=
  iWord_lt (by decide) a.isLt b.isLt (by decide)
theorem barr (a : XNo) : Statement (.barr a) :=
  iWord_lt (by decide) a.isLt (by decide) (by decide)
theorem barrG (a : XNo) : Statement (.barrG a) :=
  iWord_lt (by decide) a.isLt (by decide) (by decide)
theorem bexp (a b : XNo) (arr : Bool) : Statement (.bexp a b arr) :=
  iWord_lt (by decide) a.isLt b.isLt (Nat.lt_of_lt_of_le (b2n_lt arr) (by decide))
theorem btest (a d : XNo) (h : Bool) : Statement (.btest a d h) :=
  iWord_lt (by decide) a.isLt d.isLt (Nat.lt_of_lt_of_le (b2n_lt h) (by decide))
theorem bwait (a b : XNo) : Statement (.bwait a b) :=
  iWord_lt (by decide) a.isLt b.isLt (by decide)
theorem sbwaitTile (f : Bool) (n : TNo) : Statement (.sbwaitTile f n) :=
  iWord_lt (by decide) (by decide) (by decide) (by have := n.isLt; have := b2n_lt f; omega)
theorem sbwaitAcc (f : Bool) (n : ANo) : Statement (.sbwaitAcc f n) :=
  iWord_lt (by decide) (by decide) (by decide) (by have := n.isLt; have := b2n_lt f; omega)
theorem enq (a : XNo) (q : BitVec 10) : Statement (.enq a q) :=
  iWord_lt (by decide) a.isLt (by decide) (Nat.lt_of_lt_of_le q.isLt (by decide))
theorem qsig (a b : XNo) (o : Bool) : Statement (.qsig a b o) :=
  iWord_lt (by decide) a.isLt b.isLt (Nat.lt_of_lt_of_le (b2n_lt o) (by decide))
theorem qwait (a b : XNo) : Statement (.qwait a b) :=
  iWord_lt (by decide) a.isLt b.isLt (by decide)
theorem pginv (a b : XNo) : Statement (.pginv a b) :=
  iWord_lt (by decide) a.isLt b.isLt (by decide)
theorem pgprobe (a d : XNo) : Statement (.pgprobe a d) :=
  iWord_lt (by decide) a.isLt d.isLt (by decide)
theorem pgmig (a b : XNo) (ret : Bool) : Statement (.pgmig a b ret) :=
  iWord_lt (by decide) a.isLt b.isLt (Nat.lt_of_lt_of_le (b2n_lt ret) (by decide))
theorem digrd (d : XNo) : Statement (.digrd d) :=
  iWord_lt (by decide) d.isLt (by decide) (by decide)
theorem evpost (a b : XNo) (code : BitVec 16) : Statement (.evpost a b code) :=
  iWord_lt (by decide) a.isLt b.isLt code.isLt
theorem vadd (c : Cluster) (vd va vb : VNo) (p : PNo) (neg : Bool) (ty : VTy) (rnd : Rnd) (s : Bool) : Statement (.vadd
    c vd va vb p neg ty rnd s) := by
  cases c <;> exact vWord_lt (by decide) vd.isLt va.isLt vb.isLt (by decide) p.isLt (b2n_lt neg) ty.code_lt rnd.code_lt
    (Nat.lt_of_lt_of_le (b2n_lt s) (by decide))
theorem vsub (c : Cluster) (vd va vb : VNo) (p : PNo) (neg : Bool) (ty : VTy) (rnd : Rnd) (s : Bool) : Statement (.vsub
    c vd va vb p neg ty rnd s) := by
  cases c <;> exact vWord_lt (by decide) vd.isLt va.isLt vb.isLt (by decide) p.isLt (b2n_lt neg) ty.code_lt rnd.code_lt
    (Nat.lt_of_lt_of_le (b2n_lt s) (by decide))
theorem vmul (c : Cluster) (vd va vb : VNo) (p : PNo) (neg : Bool) (ty : VTy) (rnd : Rnd) (s : Bool) : Statement (.vmul
    c vd va vb p neg ty rnd s) := by
  cases c <;> exact vWord_lt (by decide) vd.isLt va.isLt vb.isLt (by decide) p.isLt (b2n_lt neg) ty.code_lt rnd.code_lt
    (Nat.lt_of_lt_of_le (b2n_lt s) (by decide))
theorem vfma (c : Cluster) (vd va vb vc : VNo) (p : PNo) (neg : Bool) (ty : VTy) (rnd : Rnd) : Statement (.vfma c vd va
    vb vc p neg ty rnd) := by
  cases c <;> exact vWord_lt (by decide) vd.isLt va.isLt vb.isLt vc.isLt p.isLt (b2n_lt neg) ty.code_lt rnd.code_lt (by
    decide)
theorem vfms (c : Cluster) (vd va vb vc : VNo) (p : PNo) (neg : Bool) (ty : VTy) (rnd : Rnd) : Statement (.vfms c vd va
    vb vc p neg ty rnd) := by
  cases c <;> exact vWord_lt (by decide) vd.isLt va.isLt vb.isLt vc.isLt p.isLt (b2n_lt neg) ty.code_lt rnd.code_lt (by
    decide)
theorem vmin (c : Cluster) (vd va vb : VNo) (p : PNo) (ty : VTy) : Statement (.vmin c vd va vb p ty) := by
  cases c <;> exact vWord_lt (by decide) vd.isLt va.isLt vb.isLt (by decide) p.isLt (by decide) ty.code_lt (by decide)
    (by decide)
theorem vmax (c : Cluster) (vd va vb : VNo) (p : PNo) (ty : VTy) : Statement (.vmax c vd va vb p ty) := by
  cases c <;> exact vWord_lt (by decide) vd.isLt va.isLt vb.isLt (by decide) p.isLt (by decide) ty.code_lt (by decide)
    (by decide)
theorem vabs (c : Cluster) (vd va : VNo) (p : PNo) (ty : VTy) (s : Bool) : Statement (.vabs c vd va p ty s) := by
  cases c <;> exact vWord_lt (by decide) vd.isLt va.isLt (by decide) (by decide) p.isLt (by decide) ty.code_lt (by
    decide) (Nat.lt_of_lt_of_le (b2n_lt s) (by decide))
theorem vcsgn (c : Cluster) (vd va vb : VNo) (p : PNo) (ty : VTy) : Statement (.vcsgn c vd va vb p ty) := by
  cases c <;> exact vWord_lt (by decide) vd.isLt va.isLt vb.isLt (by decide) p.isLt (by decide) ty.code_lt (by decide)
    (by decide)
theorem vmulh (c : Cluster) (vd va vb : VNo) (p : PNo) (ty : VTy) : Statement (.vmulh c vd va vb p ty) := by
  cases c <;> exact vWord_lt (by decide) vd.isLt va.isLt vb.isLt (by decide) p.isLt (by decide) ty.code_lt (by decide)
    (by decide)
theorem vand (c : Cluster) (vd va vb : VNo) (p : PNo) : Statement (.vand c vd va vb p) := by
  cases c <;> exact vWord_lt (by decide) vd.isLt va.isLt vb.isLt (by decide) p.isLt (by decide) (by decide) (by decide)
    (by decide)
theorem vor (c : Cluster) (vd va vb : VNo) (p : PNo) : Statement (.vor c vd va vb p) := by
  cases c <;> exact vWord_lt (by decide) vd.isLt va.isLt vb.isLt (by decide) p.isLt (by decide) (by decide) (by decide)
    (by decide)
theorem vxor (c : Cluster) (vd va vb : VNo) (p : PNo) : Statement (.vxor c vd va vb p) := by
  cases c <;> exact vWord_lt (by decide) vd.isLt va.isLt vb.isLt (by decide) p.isLt (by decide) (by decide) (by decide)
    (by decide)
theorem vnot (c : Cluster) (vd va : VNo) (p : PNo) : Statement (.vnot c vd va p) := by
  cases c <;> exact vWord_lt (by decide) vd.isLt va.isLt (by decide) (by decide) p.isLt (by decide) (by decide) (by
    decide) (by decide)
theorem vsll (c : Cluster) (vd va vb : VNo) (p : PNo) (ty : VTy) (i : Bool) (n : BitVec 6) : Statement (.vsll c vd va vb
    p ty i n) := by
  cases c <;> exact vWord_lt (by decide) vd.isLt va.isLt vb.isLt (by decide) p.isLt (by decide) ty.code_lt (by decide)
    (by have := n.isLt; have := b2n_lt i; omega)
theorem vsrl (c : Cluster) (vd va vb : VNo) (p : PNo) (ty : VTy) (i : Bool) (n : BitVec 6) : Statement (.vsrl c vd va vb
    p ty i n) := by
  cases c <;> exact vWord_lt (by decide) vd.isLt va.isLt vb.isLt (by decide) p.isLt (by decide) ty.code_lt (by decide)
    (by have := n.isLt; have := b2n_lt i; omega)
theorem vsra (c : Cluster) (vd va vb : VNo) (p : PNo) (ty : VTy) (i : Bool) (n : BitVec 6) : Statement (.vsra c vd va vb
    p ty i n) := by
  cases c <;> exact vWord_lt (by decide) vd.isLt va.isLt vb.isLt (by decide) p.isLt (by decide) ty.code_lt (by decide)
    (by have := n.isLt; have := b2n_lt i; omega)
theorem vcmp (c : Cluster) (vd va vb : VNo) (p : PNo) (ty : VTy) (cc : BitVec 4) (pd : PNo) (all : Bool) : Statement
    (.vcmp c vd va vb p ty cc pd all) := by
  cases c <;> exact vWord_lt (by decide) vd.isLt va.isLt vb.isLt (by decide) p.isLt (by decide) ty.code_lt (by decide)
    (by have := pd.isLt; have := cc.isLt; have := b2n_lt all; omega)
theorem vsel (c : Cluster) (vd va vb vc : VNo) (p : PNo) : Statement (.vsel c vd va vb vc p) := by
  cases c <;> exact vWord_lt (by decide) vd.isLt va.isLt vb.isLt vc.isLt p.isLt (by decide) (by decide) (by decide) (by
    decide)
theorem vcvt (c : Cluster) (vd va : VNo) (p : PNo) (ty : VTy) (rnd : Rnd) (src : VTy) (h : BitVec 2) (s : Bool) :
    Statement (.vcvt c vd va p ty rnd src h s) := by
  cases c <;> exact vWord_lt (by decide) vd.isLt va.isLt (by decide) (by decide) p.isLt (by decide) ty.code_lt
    rnd.code_lt (by have := h.isLt; have := b2n_lt s; have := src.code_lt; omega)
theorem vclz (c : Cluster) (vd va : VNo) (p : PNo) (ty : VTy) : Statement (.vclz c vd va p ty) := by
  cases c <;> exact vWord_lt (by decide) vd.isLt va.isLt (by decide) (by decide) p.isLt (by decide) ty.code_lt (by
    decide) (by decide)
theorem vpopc (c : Cluster) (vd va : VNo) (p : PNo) (ty : VTy) : Statement (.vpopc c vd va p ty) := by
  cases c <;> exact vWord_lt (by decide) vd.isLt va.isLt (by decide) (by decide) p.isLt (by decide) ty.code_lt (by
    decide) (by decide)
theorem vmov (c : Cluster) (vd va : VNo) (p : PNo) : Statement (.vmov c vd va p) := by
  cases c <;> exact vWord_lt (by decide) vd.isLt va.isLt (by decide) (by decide) p.isLt (by decide) (by decide) (by
    decide) (by decide)
theorem vsplat (c : Cluster) (vd : VNo) (p : PNo) (ty : VTy) (xs : XNo) : Statement (.vsplat c vd p ty xs) := by
  cases c <;> exact vWord_lt (by decide) vd.isLt (by decide) (by decide) (by decide) p.isLt (by decide) ty.code_lt (by
    decide) (Nat.lt_of_lt_of_le xs.isLt (by decide))
theorem viota (c : Cluster) (vd : VNo) (p : PNo) (ty : VTy) (xs : XNo) : Statement (.viota c vd p ty xs) := by
  cases c <;> exact vWord_lt (by decide) vd.isLt (by decide) (by decide) (by decide) p.isLt (by decide) ty.code_lt (by
    decide) (Nat.lt_of_lt_of_le xs.isLt (by decide))
theorem vli (c : Cluster) (vd : VNo) (p : PNo) (ty : VTy) (imm : BitVec 16) : Statement (.vli c vd p ty imm) := by
  cases c <;> exact vWord_lt (by decide) vd.isLt (by decide) (by decide) (by decide) p.isLt (by decide) ty.code_lt (by
    decide) (Nat.lt_of_lt_of_le imm.isLt (by decide))
theorem vrotr (c : Cluster) (vd va : VNo) (p : PNo) (ty : VTy) (i : Bool) (n : BitVec 6) (xs : XNo) : Statement (.vrotr
    c vd va p ty i n xs) := by
  cases c <;> exact vWord_lt (by decide) vd.isLt va.isLt (by decide) (by decide) p.isLt (by decide) ty.code_lt (by
    decide) (by have := n.isLt; have := xs.isLt; have := b2n_lt i; omega)
theorem vrotc (c : Cluster) (vd va : VNo) (p : PNo) (ty : VTy) (i : Bool) (n : BitVec 6) (xs : XNo) : Statement (.vrotc
    c vd va p ty i n xs) := by
  cases c <;> exact vWord_lt (by decide) vd.isLt va.isLt (by decide) (by decide) p.isLt (by decide) ty.code_lt (by
    decide) (by have := n.isLt; have := xs.isLt; have := b2n_lt i; omega)
theorem vbcr (c : Cluster) (vd va : VNo) (p : PNo) (ty : VTy) (i : Bool) (n : BitVec 6) (xs : XNo) : Statement (.vbcr c
    vd va p ty i n xs) := by
  cases c <;> exact vWord_lt (by decide) vd.isLt va.isLt (by decide) (by decide) p.isLt (by decide) ty.code_lt (by
    decide) (by have := n.isLt; have := xs.isLt; have := b2n_lt i; omega)
theorem vbcc (c : Cluster) (vd va : VNo) (p : PNo) (ty : VTy) (i : Bool) (n : BitVec 6) (xs : XNo) : Statement (.vbcc c
    vd va p ty i n xs) := by
  cases c <;> exact vWord_lt (by decide) vd.isLt va.isLt (by decide) (by decide) p.isLt (by decide) ty.code_lt (by
    decide) (by have := n.isLt; have := xs.isLt; have := b2n_lt i; omega)
theorem vredr (c : Cluster) (vd va : VNo) (p : PNo) (ty : VTy) (rnd : Rnd) (op : BitVec 2) : Statement (.vredr c vd va p
    ty rnd op) := by
  cases c <;> exact vWord_lt (by decide) vd.isLt va.isLt (by decide) (by decide) p.isLt (by decide) ty.code_lt
    rnd.code_lt (Nat.lt_of_lt_of_le op.isLt (by decide))
theorem vredc (c : Cluster) (vd va : VNo) (p : PNo) (ty : VTy) (rnd : Rnd) (op : BitVec 2) : Statement (.vredc c vd va p
    ty rnd op) := by
  cases c <;> exact vWord_lt (by decide) vd.isLt va.isLt (by decide) (by decide) p.isLt (by decide) ty.code_lt
    rnd.code_lt (Nat.lt_of_lt_of_le op.isLt (by decide))
theorem vscanr (c : Cluster) (vd va : VNo) (p : PNo) (ty : VTy) (rnd : Rnd) (op : BitVec 2) (ex : Bool) : Statement
    (.vscanr c vd va p ty rnd op ex) := by
  cases c <;> exact vWord_lt (by decide) vd.isLt va.isLt (by decide) (by decide) p.isLt (by decide) ty.code_lt
    rnd.code_lt (by have := op.isLt; have := b2n_lt ex; omega)
theorem vscanc (c : Cluster) (vd va : VNo) (p : PNo) (ty : VTy) (rnd : Rnd) (op : BitVec 2) (ex : Bool) : Statement
    (.vscanc c vd va p ty rnd op ex) := by
  cases c <;> exact vWord_lt (by decide) vd.isLt va.isLt (by decide) (by decide) p.isLt (by decide) ty.code_lt
    rnd.code_lt (by have := op.isLt; have := b2n_lt ex; omega)
theorem vcompact (c : Cluster) (vd va vb vc : VNo) (p : PNo) (xc : XNo) : Statement (.vcompact c vd va vb vc p xc) := by
  cases c <;> exact vWord_lt (by decide) vd.isLt va.isLt vb.isLt vc.isLt p.isLt (by decide) (by decide) (by decide)
    (Nat.lt_of_lt_of_le xc.isLt (by decide))
theorem vext (c : Cluster) (va : VNo) (p : PNo) (ty : VTy) (xd : XNo) (row : BitVec 4) (col : BitVec 6) : Statement
    (.vext c va p ty xd row col) := by
  cases c <;> exact vWord_lt (by decide) (by decide) va.isLt (by decide) (by decide) p.isLt (by decide) ty.code_lt (by
    decide) (by have := col.isLt; have := row.isLt; have := xd.isLt; omega)
theorem vexpQ (c : Cluster) (vd va : VNo) (p : PNo) (ty : VTy) : Statement (.vexpQ c vd va p ty) := by
  cases c <;> exact vWord_lt (by decide) vd.isLt va.isLt (by decide) (by decide) p.isLt (by decide) ty.code_lt (by
    decide) (by decide)
theorem vexpX (c : Cluster) (vd va : VNo) (p : PNo) (ty : VTy) : Statement (.vexpX c vd va p ty) := by
  cases c <;> exact vWord_lt (by decide) vd.isLt va.isLt (by decide) (by decide) p.isLt (by decide) ty.code_lt (by
    decide) (by decide)
theorem vexp2Q (c : Cluster) (vd va : VNo) (p : PNo) (ty : VTy) : Statement (.vexp2Q c vd va p ty) := by
  cases c <;> exact vWord_lt (by decide) vd.isLt va.isLt (by decide) (by decide) p.isLt (by decide) ty.code_lt (by
    decide) (by decide)
theorem vexp2X (c : Cluster) (vd va : VNo) (p : PNo) (ty : VTy) : Statement (.vexp2X c vd va p ty) := by
  cases c <;> exact vWord_lt (by decide) vd.isLt va.isLt (by decide) (by decide) p.isLt (by decide) ty.code_lt (by
    decide) (by decide)
theorem vlogQ (c : Cluster) (vd va : VNo) (p : PNo) (ty : VTy) : Statement (.vlogQ c vd va p ty) := by
  cases c <;> exact vWord_lt (by decide) vd.isLt va.isLt (by decide) (by decide) p.isLt (by decide) ty.code_lt (by
    decide) (by decide)
theorem vlogX (c : Cluster) (vd va : VNo) (p : PNo) (ty : VTy) : Statement (.vlogX c vd va p ty) := by
  cases c <;> exact vWord_lt (by decide) vd.isLt va.isLt (by decide) (by decide) p.isLt (by decide) ty.code_lt (by
    decide) (by decide)
theorem vlog2Q (c : Cluster) (vd va : VNo) (p : PNo) (ty : VTy) : Statement (.vlog2Q c vd va p ty) := by
  cases c <;> exact vWord_lt (by decide) vd.isLt va.isLt (by decide) (by decide) p.isLt (by decide) ty.code_lt (by
    decide) (by decide)
theorem vlog2X (c : Cluster) (vd va : VNo) (p : PNo) (ty : VTy) : Statement (.vlog2X c vd va p ty) := by
  cases c <;> exact vWord_lt (by decide) vd.isLt va.isLt (by decide) (by decide) p.isLt (by decide) ty.code_lt (by
    decide) (by decide)
theorem vsinQ (c : Cluster) (vd va : VNo) (p : PNo) (ty : VTy) : Statement (.vsinQ c vd va p ty) := by
  cases c <;> exact vWord_lt (by decide) vd.isLt va.isLt (by decide) (by decide) p.isLt (by decide) ty.code_lt (by
    decide) (by decide)
theorem vsinX (c : Cluster) (vd va : VNo) (p : PNo) (ty : VTy) : Statement (.vsinX c vd va p ty) := by
  cases c <;> exact vWord_lt (by decide) vd.isLt va.isLt (by decide) (by decide) p.isLt (by decide) ty.code_lt (by
    decide) (by decide)
theorem vcosQ (c : Cluster) (vd va : VNo) (p : PNo) (ty : VTy) : Statement (.vcosQ c vd va p ty) := by
  cases c <;> exact vWord_lt (by decide) vd.isLt va.isLt (by decide) (by decide) p.isLt (by decide) ty.code_lt (by
    decide) (by decide)
theorem vcosX (c : Cluster) (vd va : VNo) (p : PNo) (ty : VTy) : Statement (.vcosX c vd va p ty) := by
  cases c <;> exact vWord_lt (by decide) vd.isLt va.isLt (by decide) (by decide) p.isLt (by decide) ty.code_lt (by
    decide) (by decide)
theorem vtanhQ (c : Cluster) (vd va : VNo) (p : PNo) (ty : VTy) : Statement (.vtanhQ c vd va p ty) := by
  cases c <;> exact vWord_lt (by decide) vd.isLt va.isLt (by decide) (by decide) p.isLt (by decide) ty.code_lt (by
    decide) (by decide)
theorem vtanhX (c : Cluster) (vd va : VNo) (p : PNo) (ty : VTy) : Statement (.vtanhX c vd va p ty) := by
  cases c <;> exact vWord_lt (by decide) vd.isLt va.isLt (by decide) (by decide) p.isLt (by decide) ty.code_lt (by
    decide) (by decide)
theorem vsigmQ (c : Cluster) (vd va : VNo) (p : PNo) (ty : VTy) : Statement (.vsigmQ c vd va p ty) := by
  cases c <;> exact vWord_lt (by decide) vd.isLt va.isLt (by decide) (by decide) p.isLt (by decide) ty.code_lt (by
    decide) (by decide)
theorem vsigmX (c : Cluster) (vd va : VNo) (p : PNo) (ty : VTy) : Statement (.vsigmX c vd va p ty) := by
  cases c <;> exact vWord_lt (by decide) vd.isLt va.isLt (by decide) (by decide) p.isLt (by decide) ty.code_lt (by
    decide) (by decide)
theorem vrsqrtQ (c : Cluster) (vd va : VNo) (p : PNo) (ty : VTy) : Statement (.vrsqrtQ c vd va p ty) := by
  cases c <;> exact vWord_lt (by decide) vd.isLt va.isLt (by decide) (by decide) p.isLt (by decide) ty.code_lt (by
    decide) (by decide)
theorem vrsqrtX (c : Cluster) (vd va : VNo) (p : PNo) (ty : VTy) : Statement (.vrsqrtX c vd va p ty) := by
  cases c <;> exact vWord_lt (by decide) vd.isLt va.isLt (by decide) (by decide) p.isLt (by decide) ty.code_lt (by
    decide) (by decide)
theorem vrecipQ (c : Cluster) (vd va : VNo) (p : PNo) (ty : VTy) : Statement (.vrecipQ c vd va p ty) := by
  cases c <;> exact vWord_lt (by decide) vd.isLt va.isLt (by decide) (by decide) p.isLt (by decide) ty.code_lt (by
    decide) (by decide)
theorem vrecipX (c : Cluster) (vd va : VNo) (p : PNo) (ty : VTy) : Statement (.vrecipX c vd va p ty) := by
  cases c <;> exact vWord_lt (by decide) vd.isLt va.isLt (by decide) (by decide) p.isLt (by decide) ty.code_lt (by
    decide) (by decide)
theorem verfQ (c : Cluster) (vd va : VNo) (p : PNo) (ty : VTy) : Statement (.verfQ c vd va p ty) := by
  cases c <;> exact vWord_lt (by decide) vd.isLt va.isLt (by decide) (by decide) p.isLt (by decide) ty.code_lt (by
    decide) (by decide)
theorem verfX (c : Cluster) (vd va : VNo) (p : PNo) (ty : VTy) : Statement (.verfX c vd va p ty) := by
  cases c <;> exact vWord_lt (by decide) vd.isLt va.isLt (by decide) (by decide) p.isLt (by decide) ty.code_lt (by
    decide) (by decide)
theorem vshawm (c : Cluster) (vd va : VNo) (p : PNo) (v : Bool) (xc xk : XNo) : Statement (.vshawm c vd va p v xc xk) :=
    by
  cases c <;> exact vWord_lt (by decide) vd.isLt va.isLt (by decide) (by decide) p.isLt (by decide) (by decide) (by
    decide) (by have := xc.isLt; have := xk.isLt; have := b2n_lt v; omega)
theorem vshawmf (c : Cluster) (vd va : VNo) (p : PNo) (v : Bool) (xc xk : XNo) : Statement (.vshawmf c vd va p v xc xk)
    := by
  cases c <;> exact vWord_lt (by decide) vd.isLt va.isLt (by decide) (by decide) p.isLt (by decide) (by decide) (by
    decide) (by have := xc.isLt; have := xk.isLt; have := b2n_lt v; omega)
theorem vld (c : Cluster) (vd : VNo) (p : PNo) (xb xs : XNo) (off : BitVec 16) : Statement (.vld c vd p xb xs off) := by
  cases c <;> exact vWord_lt (by decide) vd.isLt (by decide) (by decide) (by decide) p.isLt (by decide) (by decide) (by
    decide) (by have := off.isLt; have := xs.isLt; have := xb.isLt; omega)
theorem vst (c : Cluster) (va vc : VNo) (p : PNo) (ty : VTy) (m : Bool) (xb xs : XNo) (off : BitVec 16) : Statement
    (.vst c va vc p ty m xb xs off) := by
  cases c <;> exact vWord_lt (by decide) (by decide) va.isLt (by decide) vc.isLt p.isLt (by decide) ty.code_lt (by
    decide) (by have := off.isLt; have := xs.isLt; have := xb.isLt; have := b2n_lt m; omega)
theorem xmv (c : Cluster) (vd va : VNo) (p : PNo) : Statement (.xmv c vd va p) := by
  cases c <;> exact vWord_lt (by decide) vd.isLt va.isLt (by decide) (by decide) p.isLt (by decide) (by decide) (by
    decide) (by decide)
theorem rank (vd va : VNo) (p : PNo) (ty : VTy) (k : BitVec 7) : Statement (.rank vd va p ty k) :=
  vWord_lt (by decide) vd.isLt va.isLt (by decide) (by decide) p.isLt (by decide) ty.code_lt (by decide)
    (Nat.lt_of_lt_of_le k.isLt (by decide))
theorem rankt (vd va : VNo) (p : PNo) (ty : VTy) (k : BitVec 7) (xt : XNo) : Statement (.rankt vd va p ty k xt) :=
  vWord_lt (by decide) vd.isLt va.isLt (by decide) (by decide) p.isLt (by decide) ty.code_lt (by decide)
    (by have := xt.isLt; have := k.isLt; omega)
theorem rval (vd va : VNo) (p : PNo) (xf : XNo) : Statement (.rval vd va p xf) :=
  vWord_lt (by decide) vd.isLt va.isLt (by decide) (by decide) p.isLt (by decide) (by decide) (by decide)
    (Nat.lt_of_lt_of_le xf.isLt (by decide))
theorem vatt (va : VNo) (p : PNo) (row : BitVec 4) : Statement (.vatt va p row) :=
  vWord_lt (by decide) (by decide) va.isLt (by decide) (by decide) p.isLt (by decide) (by decide) (by decide)
    (Nat.lt_of_lt_of_le row.isLt (by decide))
theorem mma (acc : ANo) (tA tB : TNo) (sh : ShNo) (sw : Bool) (pa pb : BitVec 4) (sub : Bool) : Statement (.mma acc tA
    tB sh sw pa pb sub) :=
  mWord_lt (by decide) acc.isLt tA.isLt tB.isLt sh.isLt (b2n_lt sw) pa.isLt pb.isLt (Nat.lt_of_lt_of_le (b2n_lt sub) (by
    decide))
theorem imma (acc : ANo) (tA tB : TNo) (sh : ShNo) (sw : Bool) (pa pb : BitVec 4) (sub : Bool) : Statement (.imma acc tA
    tB sh sw pa pb sub) :=
  mWord_lt (by decide) acc.isLt tA.isLt tB.isLt sh.isLt (b2n_lt sw) pa.isLt pb.isLt (Nat.lt_of_lt_of_le (b2n_lt sub) (by
    decide))
theorem pmm (acc : ANo) (tA tB : TNo) (sh : ShNo) (sw : Bool) (pa pb : BitVec 4) (sub : Bool) : Statement (.pmm acc tA
    tB sh sw pa pb sub) :=
  mWord_lt (by decide) acc.isLt tA.isLt tB.isLt sh.isLt (b2n_lt sw) pa.isLt pb.isLt (Nat.lt_of_lt_of_le (b2n_lt sub) (by
    decide))
theorem pmms (acc : ANo) (tA tB : TNo) (sh : ShNo) (sw : Bool) (pa pb : BitVec 4) (sub : Bool) : Statement (.pmms acc tA
    tB sh sw pa pb sub) :=
  mWord_lt (by decide) acc.isLt tA.isLt tB.isLt sh.isLt (b2n_lt sw) pa.isLt pb.isLt (Nat.lt_of_lt_of_le (b2n_lt sub) (by
    decide))
theorem bmm (acc : ANo) (tA tB : TNo) (sh : ShNo) (sw : Bool) (pa pb : BitVec 4) (sub : Bool) : Statement (.bmm acc tA
    tB sh sw pa pb sub) :=
  mWord_lt (by decide) acc.isLt tA.isLt tB.isLt sh.isLt (b2n_lt sw) pa.isLt pb.isLt (Nat.lt_of_lt_of_le (b2n_lt sub) (by
    decide))
theorem mmas (acc : ANo) (tA tB : TNo) (sh : ShNo) (sw : Bool) (pa pb : BitVec 4) (sub : Bool) : Statement (.mmas acc tA
    tB sh sw pa pb sub) :=
  mWord_lt (by decide) acc.isLt tA.isLt tB.isLt sh.isLt (b2n_lt sw) pa.isLt pb.isLt (Nat.lt_of_lt_of_le (b2n_lt sub) (by
    decide))
theorem racc (acc : ANo) (tA tB : TNo) (sh : ShNo) (sw : Bool) (pb : BitVec 4) (sub : Bool) : Statement (.racc acc tA tB
    sh sw pb sub) :=
  mWord_lt (by decide) acc.isLt tA.isLt tB.isLt sh.isLt (b2n_lt sw) (by decide) pb.isLt (Nat.lt_of_lt_of_le (b2n_lt sub)
    (by decide))
theorem anch (acc : ANo) : Statement (.anch acc) :=
  mWord_lt (by decide) acc.isLt (by decide) (by decide) (by decide) (by decide) (by decide) (by decide) (by decide)
theorem norm (acc : ANo) : Statement (.norm acc) :=
  mWord_lt (by decide) acc.isLt (by decide) (by decide) (by decide) (by decide) (by decide) (by decide) (by decide)
theorem azero (acc : ANo) : Statement (.azero acc) :=
  mWord_lt (by decide) acc.isLt (by decide) (by decide) (by decide) (by decide) (by decide) (by decide) (by decide)
theorem accrd (acc : ANo) (td ts : TNo) (sh : ShNo) (sw : Bool) (sc : Bool) (rnd : Rnd) (fmt : VTy) : Statement (.accrd
    acc td ts sh sw sc rnd fmt) :=
  mWord_lt (by decide) acc.isLt td.isLt ts.isLt sh.isLt (b2n_lt sw) (by decide) (by decide)
    (by have := b2n_lt sc; have := rnd.code_lt; have := fmt.code_lt; omega)
theorem accadd (acc src : ANo) : Statement (.accadd acc src) :=
  mWord_lt (by decide) acc.isLt (by decide) (by decide) (by decide) (by decide) (by decide) (by decide)
    (Nat.lt_of_lt_of_le src.isLt (by decide))
theorem accmv (acc src : ANo) : Statement (.accmv acc src) :=
  mWord_lt (by decide) acc.isLt (by decide) (by decide) (by decide) (by decide) (by decide) (by decide)
    (Nat.lt_of_lt_of_le src.isLt (by decide))
theorem accsv (acc : ANo) (t : TNo) : Statement (.accsv acc t) :=
  mWord_lt (by decide) acc.isLt t.isLt (by decide) (by decide) (by decide) (by decide) (by decide) (by decide)
theorem accld (acc : ANo) (t : TNo) : Statement (.accld acc t) :=
  mWord_lt (by decide) acc.isLt t.isLt (by decide) (by decide) (by decide) (by decide) (by decide) (by decide)
theorem ttrn (tA tB : TNo) (sh : ShNo) (sw : Bool) : Statement (.ttrn tA tB sh sw) :=
  mWord_lt (by decide) (by decide) tA.isLt tB.isLt sh.isLt (b2n_lt sw) (by decide) (by decide) (by decide)
theorem tzero (t : TNo) : Statement (.tzero t) :=
  mWord_lt (by decide) (by decide) t.isLt (by decide) (by decide) (by decide) (by decide) (by decide) (by decide)
theorem kchk (seed : BitVec 8) : Statement (.kchk seed) :=
  mWord_lt (by decide) (by decide) (by decide) (by decide) (by decide) (by decide) (by decide) (by decide)
    (Nat.lt_of_lt_of_le seed.isLt (by decide))
theorem tld (e : CopyEng) (g : TagNo) (t : TNo) (h : HNo) (sh : ShNo) (sw : Bool) (cb : XNo) (pr : BitVec 24) :
    Statement (.tld e g t h sh sw cb pr) := by
  cases e <;> exact cWord_lt (by decide) g.isLt t.isLt h.isLt sh.isLt (b2n_lt sw) cb.isLt (by decide) pr.isLt
theorem tst (e : CopyEng) (g : TagNo) (t : TNo) (h : HNo) (sh : ShNo) (sw : Bool) (cb : XNo) : Statement (.tst e g t h
    sh sw cb) := by
  cases e <;> exact cWord_lt (by decide) g.isLt t.isLt h.isLt sh.isLt (b2n_lt sw) cb.isLt (by decide) (by decide)
theorem pref (e : CopyEng) (g : TagNo) (h : HNo) (sh : ShNo) (sw : Bool) (cb : XNo) : Statement (.pref e g h sh sw cb)
    := by
  cases e <;> exact cWord_lt (by decide) g.isLt (by decide) h.isLt sh.isLt (b2n_lt sw) cb.isLt (by decide) (by decide)
theorem tgath (e : CopyEng) (g : TagNo) (t : TNo) (h : HNo) (sh : ShNo) (sw : Bool) (cb xi : XNo) (pr : BitVec 24) :
    Statement (.tgath e g t h sh sw cb xi pr) := by
  cases e <;> exact cWord_lt (by decide) g.isLt t.isLt h.isLt sh.isLt (b2n_lt sw) cb.isLt xi.isLt pr.isLt
theorem tscat (e : CopyEng) (g : TagNo) (t : TNo) (h : HNo) (sh : ShNo) (sw : Bool) (cb xi : XNo) : Statement (.tscat e
    g t h sh sw cb xi) := by
  cases e <;> exact cWord_lt (by decide) g.isLt t.isLt h.isLt sh.isLt (b2n_lt sw) cb.isLt xi.isLt (by decide)
theorem tldb (e : CopyEng) (g : TagNo) (t : TNo) (h : HNo) (sh : ShNo) (sw : Bool) (cb : XNo) (pr : BitVec 24) :
    Statement (.tldb e g t h sh sw cb pr) := by
  cases e <;> exact cWord_lt (by decide) g.isLt t.isLt h.isLt sh.isLt (b2n_lt sw) cb.isLt (by decide) pr.isLt
theorem scopyLd (e : CopyEng) (g : TagNo) (t : TNo) (sh : ShNo) (sw : Bool) (xa xs : XNo) (pr : BitVec 24) : Statement
    (.scopyLd e g t sh sw xa xs pr) := by
  cases e <;> exact cWord_lt (by decide) g.isLt t.isLt (by decide) sh.isLt (b2n_lt sw) xa.isLt xs.isLt pr.isLt
theorem scopySt (e : CopyEng) (g : TagNo) (t : TNo) (sh : ShNo) (sw : Bool) (xa xs : XNo) : Statement (.scopySt e g t sh
    sw xa xs) := by
  cases e <;> exact cWord_lt (by decide) g.isLt t.isLt (by decide) sh.isLt (b2n_lt sw) xa.isLt xs.isLt (by decide)
theorem vtld (e : CopyEng) (t : TNo) (sh : ShNo) (sw : Bool) (xo xs : XNo) : Statement (.vtld e t sh sw xo xs) := by
  cases e <;> exact cWord_lt (by decide) (by decide) t.isLt (by decide) sh.isLt (b2n_lt sw) xo.isLt xs.isLt (by decide)
theorem vtst (e : CopyEng) (t : TNo) (sh : ShNo) (sw : Bool) (xo xs : XNo) : Statement (.vtst e t sh sw xo xs) := by
  cases e <;> exact cWord_lt (by decide) (by decide) t.isLt (by decide) sh.isLt (b2n_lt sw) xo.isLt xs.isLt (by decide)
theorem tfill (e : CopyEng) (t : TNo) (sh : ShNo) (sw : Bool) (xv : XNo) : Statement (.tfill e t sh sw xv) := by
  cases e <;> exact cWord_lt (by decide) (by decide) t.isLt (by decide) sh.isLt (b2n_lt sw) (by decide) xv.isLt (by
    decide)
theorem atom (e : CopyEng) (g : TagNo) (t : TNo) (op : BitVec 6) (sz : BitVec 2) (xa xv : XNo) (pr : BitVec 24) :
    Statement (.atom e g t op sz xa xv pr) := by
  cases e <;> exact cWord_lt (by decide) g.isLt t.isLt op.isLt sz.isLt (by decide) xa.isLt xv.isLt pr.isLt
theorem red (e : CopyEng) (g : TagNo) (op : BitVec 6) (sz : BitVec 2) (xa xv : XNo) : Statement (.red e g op sz xa xv)
    := by
  cases e <;> exact cWord_lt (by decide) g.isLt (by decide) op.isLt sz.isLt (by decide) xa.isLt xv.isLt (by decide)
theorem redt (e : CopyEng) (g : TagNo) (t : TNo) (h : HNo) (sh : ShNo) (sw : Bool) (cb : XNo) (op : BitVec 5) :
    Statement (.redt e g t h sh sw cb op) := by
  cases e <;> exact cWord_lt (by decide) g.isLt t.isLt h.isLt sh.isLt (b2n_lt sw) cb.isLt op.isLt (by decide)
theorem hld (e : CopyEng) (t : TNo) (h : HNo) : Statement (.hld e t h) := by
  cases e <;> exact cWord_lt (by decide) (by decide) t.isLt h.isLt (by decide) (by decide) (by decide) (by decide) (by
    decide)
theorem hst (e : CopyEng) (t : TNo) (h : HNo) : Statement (.hst e t h) := by
  cases e <;> exact cWord_lt (by decide) (by decide) t.isLt h.isLt (by decide) (by decide) (by decide) (by decide) (by
    decide)
theorem hmod (e : CopyEng) (h : HNo) (xv : XNo) (f : BitVec 8) : Statement (.hmod e h xv f) := by
  cases e <;> exact cWord_lt (by decide) (by decide) (by decide) h.isLt (by decide) (by decide) xv.isLt (by decide)
    (Nat.lt_of_lt_of_le f.isLt (by decide))
theorem ovl (e : CopyEng) (g : TagNo) (n : BitVec 24) : Statement (.ovl e g n) := by
  cases e <;> exact cWord_lt (by decide) g.isLt (by decide) (by decide) (by decide) (by decide) (by decide) (by decide)
    n.isLt
theorem send (port : BitVec 5) (t : TNo) (peer : BitVec 10) : Statement (.send port t peer) :=
  lWord_lt (by decide) port.isLt t.isLt (by decide) (by decide) (by have := peer.isLt; omega) (by decide)
theorem recv (port : BitVec 5) (t : TNo) (peer : BitVec 10) (ts : BitVec 24) : Statement (.recv port t peer ts) :=
  lWord_lt (by decide) port.isLt t.isLt (by decide) (by decide) (by have := peer.isLt; omega) ts.isLt
theorem sendr (port : BitVec 5) (t : TNo) (peer : BitVec 10) (k : BitVec 6) (rows : BitVec 4) : Statement (.sendr port t
    peer k rows) :=
  lWord_lt (by decide) port.isLt t.isLt (by decide) (by decide)
    (by have := peer.isLt; have := k.isLt; have := rows.isLt; omega) (by decide)
theorem recvr (port : BitVec 5) (t : TNo) (peer : BitVec 10) (k : BitVec 6) (rows : BitVec 4) (ts : BitVec 24) :
    Statement (.recvr port t peer k rows ts) :=
  lWord_lt (by decide) port.isLt t.isLt (by decide) (by decide)
    (by have := peer.isLt; have := k.isLt; have := rows.isLt; omega) ts.isLt
theorem radd (port : BitVec 5) (t : TNo) (peer : BitVec 10) (ts : BitVec 24) : Statement (.radd port t peer ts) :=
  lWord_lt (by decide) port.isLt t.isLt (by decide) (by decide) (by have := peer.isLt; omega) ts.isLt
theorem rmax (port : BitVec 5) (t : TNo) (peer : BitVec 10) (ts : BitVec 24) : Statement (.rmax port t peer ts) :=
  lWord_lt (by decide) port.isLt t.isLt (by decide) (by decide) (by have := peer.isLt; omega) ts.isLt
theorem rmin (port : BitVec 5) (t : TNo) (peer : BitVec 10) (ts : BitVec 24) : Statement (.rmin port t peer ts) :=
  lWord_lt (by decide) port.isLt t.isLt (by decide) (by decide) (by have := peer.isLt; omega) ts.isLt
theorem lcopy (port : BitVec 5) (t : TNo) (sh : ShNo) (sw : Bool) (xd xbar xe : XNo) (f s : Bool) (len8 : BitVec 3) :
    Statement (.lcopy port t sh sw xd xbar xe f s len8) :=
  lWord_lt (by decide) port.isLt t.isLt sh.isLt (b2n_lt sw)
    (by have := xd.isLt; have := xbar.isLt; have := xe.isLt; have := len8.isLt; have := b2n_lt f; have := b2n_lt s; omega)
    (by decide)
theorem lcrcr (d : XNo) : Statement (.lcrcr d) :=
  lWord_lt (by decide) (by decide) (by decide) (by decide) (by decide) (by have := d.isLt; omega) (by decide)
theorem lcrcw (a : XNo) : Statement (.lcrcw a) :=
  lWord_lt (by decide) (by decide) (by decide) (by decide) (by decide) (by have := a.isLt; omega) (by decide)
theorem lstat (port : BitVec 5) (d : XNo) : Statement (.lstat port d) :=
  lWord_lt (by decide) port.isLt (by decide) (by decide) (by decide) (by have := d.isLt; omega) (by decide)
theorem lfence (q : Bool) : Statement (.lfence q) :=
  lWord_lt (by decide) (by decide) (by decide) (by decide) (by decide) (Nat.lt_of_lt_of_le (b2n_lt q) (by decide)) (by
    decide)
theorem resultLanding (core : Nat) : Statement (.resultLanding core) := trivial
theorem stallRelease (core : Nat) : Statement (.stallRelease core) := trivial
theorem engineReadFinished (core id : Nat) : Statement (.engineReadFinished core id) := trivial
theorem engineOpDone (core : Nat) : Statement (.engineOpDone core) := trivial
theorem transferDone (core id : Nat) : Statement (.transferDone core id) := trivial
theorem ovlLineLanded (core line : Nat) : Statement (.ovlLineLanded core line) := trivial
theorem promise (core : Nat) : Statement (.promise core) := trivial
theorem injectedCheck (core : Nat) : Statement (.injectedCheck core) := trivial
theorem kchkComplete (core : Nat) (ok : Bool) : Statement (.kchkComplete core ok) := trivial
theorem boundaryTrapEntry (core : Nat) : Statement (.boundaryTrapEntry core) := trivial
theorem handlerBudgetExceeded (core : Nat) : Statement (.handlerBudgetExceeded core) := trivial
theorem coreRetire (core : Nat) : Statement (.coreRetire core) := trivial
theorem groupRendezvous (k g : Nat) : Statement (.groupRendezvous k g) := trivial
theorem dispatch (k bay g : Nat) : Statement (.dispatch k bay g) := trivial
theorem workSteal (k bay : Nat) : Statement (.workSteal k bay) := trivial
theorem kernelPreempt (k : Nat) : Statement (.kernelPreempt k) := trivial
theorem kernelResume (k : Nat) (bays : List Nat) : Statement (.kernelResume k bays) := trivial
theorem kernelLoadDone (k : Nat) : Statement (.kernelLoadDone k) := trivial
theorem kernelFinish (k : Nat) : Statement (.kernelFinish k) := trivial
theorem kernelRetire (k : Nat) : Statement (.kernelRetire k) := trivial
theorem phasePrepare (k g : Nat) : Statement (.phasePrepare k g) := trivial
theorem homePrepareVote (k g home : Nat) (far : FarResp) : Statement (.homePrepareVote k g home far) := trivial
theorem homeCommitApply (k g home : Nat) : Statement (.homeCommitApply k g home) := trivial
theorem phaseCommitComplete (k g : Nat) : Statement (.phaseCommitComplete k g) := trivial
theorem phaseCancel (k g : Nat) : Statement (.phaseCancel k g) := trivial
theorem lateFault (who : Origin) (addr : Nat) : Statement (.lateFault who addr) := trivial
theorem suppliesValid : Statement .suppliesValid := trivial
theorem perstDeassert : Statement .perstDeassert := trivial
theorem perstAssert : Statement .perstAssert := trivial
theorem firmwareSignatureCheck (signer : Signer) (digest : BitVec 256) : Statement (.firmwareSignatureCheck signer digest) := trivial
theorem measureDone (digests : List (BitVec 256)) : Statement (.measureDone digests) := trivial
theorem selftestDone (bad : Failed) (badPlanes : List Nat) (dead : Bool) : Statement (.selftestDone bad badPlanes dead) := trivial
theorem powerWindowCheck (watts : Nat) (drew : List Nat) : Statement (.powerWindowCheck watts drew) := trivial
theorem globalIssueGateClose : Statement .globalIssueGateClose := trivial
theorem globalIssueGateOpen : Statement .globalIssueGateOpen := trivial
theorem apbaseWrite (v : W64) : Statement (.apbaseWrite v) := trivial
theorem attgo (v : W64) : Statement (.attgo v) := trivial
theorem attestationReportDone : Statement .attestationReportDone := trivial
theorem registerWrite (off : Nat) (v : W64) : Statement (.registerWrite off v) := trivial
theorem ctxCreate (ctx : Nat) : Statement (.ctxCreate ctx) := trivial
theorem ctxSuspend (ctx : Nat) : Statement (.ctxSuspend ctx) := trivial
theorem ctxResume (ctx : Nat) : Statement (.ctxResume ctx) := trivial
theorem ctxKill (ctx : Nat) : Statement (.ctxKill ctx) := trivial
theorem ctxDestroy (ctx : Nat) : Statement (.ctxDestroy ctx) := trivial
theorem doorbellWrite (off : Nat) (v : W64) : Statement (.doorbellWrite off v) := trivial
theorem queueEnable : Statement .queueEnable := trivial
theorem queueDisable : Statement .queueDisable := trivial
theorem queueReset (base : Nat) : Statement (.queueReset base) := trivial
theorem queueArbitrate (ctx q : Nat) : Statement (.queueArbitrate ctx q) := trivial
theorem packetNop (ctx q : Nat) : Statement (.packetNop ctx q) := trivial
theorem launch (ctx q : Nat) (bays : List Nat) : Statement (.launch ctx q bays) := trivial
theorem copy (ctx q : Nat) : Statement (.copy ctx q) := trivial
theorem signal (ctx q : Nat) : Statement (.signal ctx q) := trivial
theorem wait (ctx q : Nat) : Statement (.wait ctx q) := trivial
theorem mode (ctx q : Nat) : Statement (.mode ctx q) := trivial
theorem checkpoint (ctx q : Nat) : Statement (.checkpoint ctx q) := trivial
theorem checkpointComplete (refusal : Option (Nat × Nat × Nat)) : Statement (.checkpointComplete refusal) := trivial
theorem query (ctx q : Nat) : Statement (.query ctx q) := trivial
theorem packetComplete (ctx q : Nat) : Statement (.packetComplete ctx q) := trivial
theorem homeRequest (id : Nat) (far : FarResp) : Statement (.homeRequest id far) := trivial
theorem homeAck (id : Nat) : Statement (.homeAck id) := trivial
theorem reductionAddend (id : Nat) : Statement (.reductionAddend id) := trivial
theorem reductionPartialTimeout (plane addr : Nat) : Statement (.reductionPartialTimeout plane addr) := trivial
theorem sectorDelivery (id n : Nat) : Statement (.sectorDelivery id n) := trivial
theorem remoteArrival (id : Nat) : Statement (.remoteArrival id) := trivial
theorem flitRetryExhausted (plane : Nat) : Statement (.flitRetryExhausted plane) := trivial
theorem planeAckTimeout (plane : Nat) : Statement (.planeAckTimeout plane) := trivial
theorem planeBufferError (plane : Nat) : Statement (.planeBufferError plane) := trivial
theorem planeIslandFault (plane : Nat) : Statement (.planeIslandFault plane) := trivial
theorem plcmdRetire (v : W64) : Statement (.plcmdRetire v) := trivial
theorem rehashDrained : Statement .rehashDrained := trivial
theorem translationWalkDone (core : Nat) : Statement (.translationWalkDone core) := trivial
theorem migrationPull (page line : Nat) : Statement (.migrationPull page line) := trivial
theorem pgicmdInvalidate (ctx : Nat) : Statement (.pgicmdInvalidate ctx) := trivial
theorem pgicmdMigrate (ctx : Nat) : Statement (.pgicmdMigrate ctx) := trivial
theorem pgicmdMigrateRetire (ctx : Nat) : Statement (.pgicmdMigrateRetire ctx) := trivial
theorem profileMaskWrite (stack profile i : Nat) (v : W64) : Statement (.profileMaskWrite stack profile i v) := trivial
theorem devidWrite (v : W64) : Statement (.devidWrite v) := trivial
theorem lpcfgWrite (port : Nat) (v : W64) : Statement (.lpcfgWrite port v) := trivial
theorem lpcmdTrain (link : Nat) : Statement (.lpcmdTrain link) := trivial
theorem lpcmdQuiesce (link : Nat) : Statement (.lpcmdQuiesce link) := trivial
theorem lpcmdResume (link : Nat) : Statement (.lpcmdResume link) := trivial
theorem lpcmdDisable (link : Nat) : Statement (.lpcmdDisable link) := trivial
theorem trainingComplete (link lanes : Nat) : Statement (.trainingComplete link lanes) := trivial
theorem trainingTimeout (link : Nat) : Statement (.trainingTimeout link) := trivial
theorem flitError (link : Nat) (far : Bool) : Statement (.flitError link far) := trivial
theorem replayComplete (link : Nat) : Statement (.replayComplete link) := trivial
theorem replayFail (link : Nat) : Statement (.replayFail link) := trivial
theorem laneRepairTrigger (link : Nat) : Statement (.laneRepairTrigger link) := trivial
theorem repairComplete (link lanes : Nat) : Statement (.repairComplete link lanes) := trivial
theorem repairTimeout (link : Nat) : Statement (.repairTimeout link) := trivial
theorem incomingRequest (port addr : Nat) (op : FarOp) : Statement (.incomingRequest port addr op) := trivial
theorem stackLinkRequest (link requester entry off : Nat) (op : FarOp) (poison : Bool) : Statement (.stackLinkRequest
    link requester entry off op poison) := trivial
theorem incomingMessage (port dev src dst : Nat) (sendr : Bool) (stamp k rows : Nat) (payload : List Byte) : Statement
    (.incomingMessage port dev src dst sendr stamp k rows payload) := trivial
theorem messageAccepted (port : Nat) : Statement (.messageAccepted port) := trivial
theorem chainCommandArrival (port dev src : Nat) (seed : W32) (start : Option Nat) (dest : Nat) (bar : Option Nat) (final :
    Option W32) (bytes : List Byte) : Statement (.chainCommandArrival port dev src seed start dest bar final bytes) :=
    trivial
theorem chainVerdictReturn (core : Nat) (v : Verdict) (crc : W32) : Statement (.chainVerdictReturn core v crc) :=
    trivial
theorem receivePayloadLanded (core id : Nat) : Statement (.receivePayloadLanded core id) := trivial
theorem chainStagingReserved (core : Nat) : Statement (.chainStagingReserved core) := trivial
theorem bar2Access (off : Nat) (op : FarOp) : Statement (.bar2Access off op) := trivial

end Laws.Encoding

end Sys2Proof
end

