-- ==== Sys2Proof/Laws/Request.lean ====
section
/-! SUPPORT. What the shared operations on requests can change: requests, partials and the next number, and nothing else. -/

namespace Sys2Proof.Machine

/-- Only requests, partials and the next number differ from `s` to `t`. -/
abbrev sendsOnly (s t : State) : Prop := t = { s with partials := t.partials, reqs := t.reqs, nextId := t.nextId }

theorem sendsOnly_refl (s : State) : sendsOnly s s := rfl

theorem sendsOnly_trans {s t u : State} (h : sendsOnly s t) (k : sendsOnly t u) : sendsOnly s u := by
  unfold sendsOnly at *; rw [k, h]

theorem sendsOnly_foldl {α : Type} (f : State → α → State) (h : ∀ s a, sendsOnly s (f s a)) (l : List α) (s : State) :
    sendsOnly s (l.foldl f s) := by
  induction l generalizing s with
  | nil => rfl
  | cons a l ih => exact sendsOnly_trans (h s a) (ih (f s a))

/-- A partial that leaves its unit. -/
theorem sendPartial_only (s : State) (p : Partial) : sendsOnly s (sendPartial s p) := rfl

/-- The partials that a request closes. -/
theorem enterPlane_only (s : State) (p : Place) (op : ReqOp) (ph : Option (Nat × Nat)) : sendsOnly s (enterPlane s p op ph) := by
  unfold enterPlane
  split
  · rfl
  · exact sendsOnly_foldl _ sendPartial_only _ s

/-- A request that leaves. -/
theorem sendReqAfter_only (s : State) (src : Src) (ctx : Nat) (xfer : Option Nat) (p : Place) (va : Nat) (op : ReqOp)
    (ph : Option (Nat × Nat)) (lg : Nat) (after : List Nat) : sendsOnly s (sendReqAfter s src ctx xfer p va op ph lg after) :=
  sendsOnly_trans (enterPlane_only s p op ph) rfl

theorem sendReqBy_only (s : State) (src : Src) (ctx : Nat) (xfer : Option Nat) (p : Place) (va : Nat) (op : ReqOp)
    (ph : Option (Nat × Nat)) (lg : Nat) : sendsOnly s (sendReqBy s src ctx xfer p va op ph lg) :=
  sendReqAfter_only s src ctx xfer p va op ph lg []

theorem setReqSt_only (s : State) (id : Nat) (st : ReqSt) : sendsOnly s (setReqSt s id st) := rfl

/-- A request that goes back to its source. -/
theorem sentBack_only (r : Req) (s : State) : sendsOnly s (sentBack r s) := by
  unfold sentBack
  split
  · exact sendsOnly_trans (t := dropReq s r.id) rfl (sendsOnly_foldl _ (fun s id => setReqSt_only s id .source) _ _)
  · rfl

end Sys2Proof.Machine
end

