-- ==== Sys2Proof/Laws/Slice.lean ====
section
/-! SUPPORT. What the streams of a checkpoint are made of (22_link R416): a stretch of a memory in canonical form, moved to
its place in the stream, is in canonical form, and holds the bytes of the stretch. -/

namespace Sys2Proof.Machine

/-- The cells below an address of a memory that rises from `b` on. -/
theorem cellsFrom_keepBelow : ∀ {m : Memory} {a b : Nat}, CellsFrom b m → CellsFrom b (keepBelow a m)
  | [], _, _, _ => trivial
  | (k, v) :: r, a, b, h => by
    simp only [keepBelow]
    split
    · exact ⟨h.1, h.2.1, cellsFrom_keepBelow h.2.2⟩
    · trivial

/-- Cells that rise from `base` on, moved by `off - base`. -/
theorem cellsFrom_shift (base off : Nat) : ∀ {m : Memory} {a : Nat}, base ≤ a → CellsFrom a m →
    CellsFrom (a - base + off) (m.map (fun c => (c.1 - base + off, c.2)))
  | [], _, _, _ => trivial
  | (k, v) :: r, a, ha, h => by
    have hk : k + 1 - base + off = k - base + off + 1 := by have := h.1; omega
    refine ⟨by have := h.1; omega, h.2.1, ?_⟩
    rw [← hk]
    exact cellsFrom_shift base off (by have := h.1; omega) h.2.2

/-- A stretch rises from its place in the stream on. -/
theorem cellsFrom_stretch {m : Memory} (h : m.wf = true) (base len off : Nat) : CellsFrom off (stretch m base len off) := by
  have := cellsFrom_shift base off (Nat.le_refl base)
    (cellsFrom_keepBelow (a := base + len) (cellsFrom_dropBelow (a := base) ((Memory.wf_iff m).1 h)))
  simpa [stretch] using this

/-- A stretch of a memory in canonical form is in canonical form. -/
theorem wf_stretch {m : Memory} (h : m.wf = true) (base len off : Nat) : (stretch m base len off).wf = true :=
  (Memory.wf_iff _).2 (cellsFrom_mono (Nat.zero_le off) (cellsFrom_stretch h base len off))

/-- The beginning of a slice in canonical form is in canonical form. -/
theorem Slice.wf_upTo {v : Slice} (h : v.bytes.wf = true) (k : Nat) : (v.upTo k).bytes.wf = true := by
  unfold Slice.upTo
  split
  · exact h
  · exact (Memory.wf_iff _).2 (cellsFrom_keepBelow ((Memory.wf_iff _).1 h))

/-- A moved memory read at a moved address. -/
theorem read_shift (base off : Nat) : ∀ {m : Memory} {a : Nat} (x : Nat), base ≤ a → CellsFrom a m →
    Memory.read (m.map (fun c => (c.1 - base + off, c.2))) (off + x) = m.read (base + x)
  | [], _, _, _, _ => rfl
  | (k, v) :: r, a, x, ha, h => by
    have h1 := h.1
    simp only [List.map_cons, Memory.read_cons]
    rw [read_shift base off x (by omega) h.2.2]
    by_cases hk : k = base + x
    · rw [if_pos hk, if_pos (by omega)]
    · rw [if_neg hk, if_neg (by omega)]

/-- A stretch in its place reads as the memory that it is taken from. -/
theorem read_stretch {m : Memory} (h : m.wf = true) (base len off x : Nat) (hx : x < len) :
    Memory.read (stretch m base len off) (off + x) = m.read (base + x) := by
  have hm := (Memory.wf_iff m).1 h
  have hd := cellsFrom_dropBelow (a := base) hm
  rw [stretch, read_shift base off x (Nat.le_refl base) (cellsFrom_keepBelow hd),
    read_keepBelow hd (by omega), read_dropBelow hm (by omega)]

end Sys2Proof.Machine
end

