-- ==== Sys2Proof/Tests/Slice0.lean ====
section
/-! SUPPORT. Tests: ill-formed terms that the check refuses, words that the spec encodes, and for every statement states
and operands that meet its hypotheses. Expected values come from the spec's examples and tables. -/

namespace Sys2Proof.Tests

open Sys2Proof.Machine

-- The tests are elaborated one after another: each waits for the kernel, and the threads would not fit in memory.
set_option Elab.async false
-- A witness may have many clauses.
set_option synthInstance.maxSize 1000

/-! ## States -/

/-- Core 0 running in a kernel of its own. -/
def run : State := loadKernel State.reset

/-- The same with its core changed. -/
def with_ (f : Core → Core) : State := mapMe run f

/-- The same with scalar registers set. -/
def regs (l : List (Nat × W64)) : State := with_ (fun c => { c with x := l })

/-- Core 0 at trap level `n`. -/
def atLevel (n : Nat) : State := with_ (fun c => { c with tl := n })

/-- The group of core 0 changed. -/
def inGroup (f : Group → Group) (s : State) : State := mapGroup s 1 0 f

/-- The kernel of core 0 changed. -/
def inKernel (f : Kernel → Kernel) (s : State) : State := mapKernel s 1 f

/-- A core whose group stands in a phase. -/
def inPhase (ph : PhState) (s : State) : State := inGroup (fun g => { g with ph := ph }) s

/-- Its kernel is a nest kernel. -/
def nest (s : State) : State := inKernel (fun k => { k with lr := { k.lr with nest := true } }) s

/-- Its bundle comes to issue for the first time. -/
def anew (s : State) : State := mapMe s (fun c => { c with stall := none })

/-- Its kernel's context has level `n`. -/
def leveled (n : Nat) (s : State) : State := inKernel (fun k => { k with level := n }) s

/-- Its bundle is stalled. -/
def waits_ (f : Stall → Stall) (s : State) : State := mapMe s (fun c => { c with stall := some (f freshStall) })

/-- Bytes with fields at offsets, the rest zero. -/
def fields (n : Nat) (l : List (Nat × Nat × Nat)) : List Byte :=
  (l.foldl (fun (m : Memory) f => m.writeN f.1 (leBytes f.2.1 f.2.2)) []).readN 0 n

/-! ## Ill-formed terms -/

/-- Every check of well-formedness refuses a term: one term for each, in the order of the checks (R81-R83, R95). -/
theorem test_ill_formed_refused : ([
    .phopen 1 false 1 true 0, .phopen 1 false 0 false 0, .phopen 0 true 0 false 0,
    .vadd .a 1 2 3 0 true .i32 .rne false, .vsub .a 1 2 3 0 false .i32 .rtz false, .vmul .a 1 2 3 0 false .f32 .rne true,
    .vfma .a 1 2 3 4 0 false .i32 .rne, .vfms .a 1 2 3 4 0 false .n8x4 .rne, .vabs .a 1 2 0 .n32 false,
    .vabs .a 1 2 0 .f32 true, .vcsgn .a 1 2 3 0 .i16x2, .vmulh .a 1 2 3 0 .f64, .vsll .a 1 2 3 0 .i32 true 4,
    .vsrl .a 1 2 3 0 .i32 false 4, .vsra .a 1 2 3 0 .f32 false 0, .vcmp .a 1 2 3 0 .i32 0 0 true,
    .vcvt .a 1 2 0 .f64 .rne .i8x4 0 false, .vcvt .a 1 2 0 .f32 .rne .f16x2 0 true, .vcvt .a 1 2 0 .i32 .rtz .i8x4 0 false,
    .vclz .a 1 2 0 .f32, .vpopc .a 1 2 0 .f16x2, .viota .a 1 0 .bf16x2 3, .vli .a 1 0 .i8x4 256,
    .vrotr .a 1 2 0 .f32 false 0 3] : List Instr).all (fun i => !i.wf) = true := by decide

theorem test_ill_formed_refused_more : ([
    .vrotc .a 1 2 0 .i32 true 3 5, .vbcr .a 1 2 0 .i32 false 3 5, .vbcc .a 1 2 0 .n32 false 0 5,
    .vredr .a 1 2 0 .i32 .rtz 0, .vredc .a 1 2 0 .f32 .rtz 1, .vscanr .a 1 2 0 .n64 .rup 0 false,
    .vscanc .a 1 2 0 .f32 .rna 2 true, .vext .a 1 0 .f32 3 0 0, .vexpQ .a 1 2 0 .i32, .verfX .b 1 2 0 .n16x2,
    .vshawm .a 1 2 0 false 3 4, .vshawmf .b 1 2 0 false 3 4, .vst .a 1 2 0 .i8x4 false 3 0 0, .vst .a 1 0 0 .i32 false 3 0 0,
    .rank 1 2 0 .f64 4, .rankt 1 2 0 .i16x2 4 5, .mma 0 1 2 0 false 4 0 false, .imma 0 1 2 0 false 3 4 false,
    .pmm 0 1 2 0 false 8 7 false, .pmms 0 1 2 0 false 15 8 false, .bmm 0 1 2 0 false 7 6 false, .mmas 0 1 2 0 false 0 4 false,
    .racc 0 1 2 0 false 7 false, .accrd 0 1 2 0 false false .rne .f32, .atom .a 1 2 10 1 3 4 0,
    .lcopy 2 4 0 false 10 0 5 false true 0, .lcopy 2 4 0 false 10 0 0 true false 1] : List Instr).all (fun i => !i.wf) =
    true := by decide

/-- Words with a reserved field or code that a slot does not have are refused with their reason: ADD with func 1 (4), an S-slot
opcode beyond the table (2), VADD with type 12 (3), MMA with precision 4 (3 or 4 by the table of 12_tile), NOP with bits (4),
an L-slot opcode beyond the table (2). -/
theorem test_reserved_words_refused :
    (decodeSlot .s 0x00000001).toOption = none ∧ (decodeSlot .s 0xFC000000).toOption = none ∧
    (decodeSlot .va 0x0012300C00000000).toOption = none ∧ (decodeSlot .m 0x0108_4A41_0000_0000).toOption = none ∧
    (decodeSlot .x 0x00000001).toOption = none ∧ (decodeSlot .l 0xFC00000000000000).toOption = none ∧
    (decodeSlot .ca 0xFC00000000000000).toOption = none ∧ (decodeSlot .va 0x9041000800000006).toOption = none := by decide

/-! ## Words that the spec writes out -/

/-- 09_scalar: Examples of R185, R187, R190, R198, R204; 21_program_nested_trap and 15_program_column_walk; R244, R248. -/
theorem test_words_of_s :
    decodeSlot .s 0x14A63900 = .ok (.div 5 6 7 true) ∧ decodeSlot .s 0x7CA00123 = .ok (.li 5 0x0123) ∧
    decodeSlot .s 0x80A589AB = .ok (.lis 5 5 0x89AB) ∧ decodeSlot .s 0x84494064 = .ok (.cmpi 2 9 2 100) ∧
    decodeSlot .s 0x9C9FFFED = .ok (.loop 4 0x1FFFED) ∧ decodeSlot .s 0xB7C00060 = .ok (.csrr 30 0x060) ∧
    decodeSlot .s 0x90200072 = .ok (.br false 1 114) ∧ decodeSlot .s 0xA820DC00 = .ok (.st 1 0 3 0x1C00) ∧
    decodeSlot .s 0xB8010072 = .ok (.csrw 1 0x072) ∧ decodeSlot .s 0xBC050009 = .ok (.tdw 9 5) ∧
    decodeSlot .s 0xC0660000 = .ok (.bfw 3 6) := by
  refine ⟨?_, ?_, ?_, ?_, ?_, ?_, ?_, ?_, ?_, ?_, ?_⟩ <;> rfl

/-- 10_vector, 11_function, 13_rank: Examples of R217, R223, R229, R232, R240, R274; 25_program_top_p. -/
theorem test_words_of_v :
    decodeSlot .va 0x1362000850000009 = .ok (.vcvt .a 6 2 0 .f32 .rto .f64 0 false) ∧
    decodeSlot .va 0x1376000600000018 = .ok (.vcvt .a 7 6 0 .f16x2 .rne .f32 1 false) ∧
    decodeSlot .va 0x4881230200000009 = .ok (.vcompact .a 8 1 2 3 0 9) ∧
    decodeSlot .va 0x8101020000000403 = .ok (.vst .a 1 2 0 .i8x4 true 3 0 0) ∧
    decodeSlot .va 0x6131000800000000 = .ok (.vexpX .a 3 1 0 .f32) ∧
    decodeSlot .vb 0x77200008000000C5 = .ok (.vshawmf .b 2 0 0 false 6 5) ∧
    decodeSlot .vb 0x9041000800000006 = .ok (.rank 4 1 0 .f32 6) ∧
    decodeSlot .vb 0x9132000800000688 = .ok (.rankt 3 2 0 .f32 8 13) ∧
    decodeSlot .vb 0x4643000800000000 = .ok (.vscanr .b 4 3 0 .f32 .rne 0 false) ∧
    decodeSlot .vb 0x42B400020000000B = .ok (.vbcr .b 11 4 0 .i32 false 0 11) := by
  refine ⟨?_, ?_, ?_, ?_, ?_, ?_, ?_, ?_, ?_, ?_⟩ <;> rfl

/-- 12_tile and 13_rank: Examples of R253, R260, R262, R276. -/
theorem test_words_of_m :
    decodeSlot .m 0x01084A1100000000 = .ok (.mma 2 4 9 1 false 1 1 false) ∧
    decodeSlot .m 0x1D00000000000000 = .ok (.anch 2) ∧
    decodeSlot .m 0x290C3C0000000108 = .ok (.accrd 2 6 7 2 false true .rne .f32) ∧
    decodeSlot .m 0x3C104C0000000000 = .ok (.ttrn 8 9 2 false) ∧
    decodeSlot .m 0x19945C0100000000 = .ok (.racc 3 10 11 2 false 1 false) := by
  refine ⟨?_, ?_, ?_, ?_, ?_⟩ <;> rfl

/-- 14_tensor: Example of R288; 15_program_column_walk; 21_program_nested_trap; 07_kernel: Example of R149. -/
theorem test_words_of_c :
    decodeSlot .ca 0x000E2869400000C8 = .ok (.tld .a 7 5 3 1 false 10 200) ∧
    decodeSlot .ca 0x180618302C000000 = .ok (.scopySt .a 3 3 2 false 1 12) ∧
    decodeSlot .ca 0x1BE9E03BE0000000 = .ok (.scopySt .a 500 60 3 false 31 0) ∧
    decodeSlot .ca 0x3C00002040000000 = .ok (.hmod .a 1 2 0) ∧
    decodeSlot .cb 0x4022000000000003 = .ok (.ovl .b 17 3) := by
  refine ⟨?_, ?_, ?_, ?_, ?_⟩ <;> rfl

/-- 08_group: Example of R160; 13_rank: Example of R278; 22_link: Example 1. -/
theorem test_words_of_l :
    decodeSlot .l 0x0202000400000000 = .ok (.send 16 4 1) ∧ decodeSlot .l 0x0603000000000014 = .ok (.recv 16 6 0 20) ∧
    decodeSlot .l 0x0463000000000014 = .ok (.recv 3 6 0 20) ∧
    decodeSlot .l 0x0A06000450000000 = .ok (.sendr 16 12 1 5 0) ∧
    decodeSlot .l 0x1C42050008000000 = .ok (.lcopy 2 4 0 false 10 0 0 false true 0) ∧
    decodeSlot .l 0x1C42A58010000000 = .ok (.lcopy 2 5 1 false 11 0 0 true false 0) ∧
    decodeSlot .l 0x2C00000000000000 = .ok (.lfence false) := by
  refine ⟨?_, ?_, ?_, ?_, ?_, ?_, ?_⟩ <;> rfl

/-- 03_bundle: R62; 07_kernel: R148; 08_group: R165; 06_queue: R136; 16_phase, 17_barrier, 18_page, 19_plane, 20_trap. -/
theorem test_words_of_x :
    decodeSlot .x 0x04000003 = .ok (.nopn 3) ∧ decodeSlot .x 0x08000000 = .ok .endp ∧
    decodeSlot .x 0x10000001 = .ok (.wnext 1) ∧ decodeSlot .x 0x15800A00 = .ok (.phopen 12 false 0 true 2) ∧
    decodeSlot .x 0x18000000 = .ok .phseal ∧ decodeSlot .x 0x24000000 = .ok .pfence ∧ decodeSlot .x 0x2C000000 = .ok .tret ∧
    decodeSlot .x 0x31090000 = .ok (.binit 8 9) ∧ decodeSlot .x 0x36E08000 = .ok (.barrG 23) ∧
    decodeSlot .x 0x38A70000 = .ok (.bexp 5 7 false) ∧ decodeSlot .x 0x40A80000 = .ok (.bwait 5 8) ∧
    decodeSlot .x 0x44000006 = .ok (.sbwaitTile false 6) ∧ decodeSlot .x 0x4C850000 = .ok (.qsig 4 5 false) ∧
    decodeSlot .x 0x54A70000 = .ok (.pginv 5 7) ∧ decodeSlot .x 0x5CA60000 = .ok (.pgmig 5 6 false) := by
  refine ⟨?_, ?_, ?_, ?_, ?_, ?_, ?_, ?_, ?_, ?_, ?_, ?_, ?_, ?_, ?_⟩ <;> rfl

/-- 03_bundle, Example of R57: the bundle of `nopn 3` is 80 03 00 00 04. -/
theorem test_bundle_bytes : encodeAlone (.nopn 3) = [0x80, 0x03, 0x00, 0x00, 0x04] := by decide

/-- 14_tensor, Example of R288; 13_rank, Example of R274: the encoder writes the spec's words. -/
theorem test_encoder : encode (.tld .a 7 5 3 1 false 10 200) = 0x000E2869400000C8 ∧ encode (.rank 4 1 0 .f32 6) = 0x9041000800000006 ∧
    encode (.phopen 12 false 0 true 2) = 0x15800A00 := by decide

/-! ## Witnesses: states and operands that meet the hypotheses of the statements -/

theorem witness_comesToIssue : comesToIssue run = true := by decide +kernel

/-- CLZ of 0 and of the top bit, at both widths. -/
theorem witness_TwoOperands :
    let s := regs [(1, 0x80000000), (2, 0x8000000000000000)]
    comesToIssue s = true ∧ ((me s).rx 0).toNat % 2 ^ 64 = 0 ∧ ((me s).rx 1).toNat % 2 ^ 32 ≠ 0 ∧
    ((me s).rx 2).toNat % 2 ^ 32 = 0 ∧ ((me s).rx 2).toNat % 2 ^ 64 ≠ 0 := by decide +kernel

/-- A divisor that is zero at 32 bits only, and one that is at neither width. -/
theorem witness_Divides_and_DivideByZero :
    let s := regs [(7, 0x100000000), (8, 1)]
    comesToIssue s = true ∧ (me s).rx 7 ≠ 0 ∧ low ((me s).rx 7) = 0 ∧ (me s).rx 8 ≠ 0 ∧ low ((me s).rx 8) ≠ 0 ∧
    (me s).rx 0 = 0 := by decide +kernel

theorem witness_Immediates : (63 : BitVec 6).toNat + (0 : BitVec 6).toNat + 1 ≤ 64 ∧
    (0 : BitVec 6).toNat + (63 : BitVec 6).toNat + 1 ≤ 64 := by decide +kernel

theorem witness_Predicates : comesToIssue run = true ∧ (7 : PNo) ≠ 0 ∧ (5 : BitVec 4).toNat < 6 ∧ (5 : BitVec 3).toNat < 6 := by
  decide +kernel

/-- Branches not taken and taken, to the first and to the last address of the bundle store. -/
theorem witness_Branches :
    let s := with_ (fun c => { c with bpc := 0x1FFFA, x := [(1, 0x1FFFF)], p := 0x81 })
    comesToIssue s = true ∧ (me s).rp 7 = true ∧ (me s).rp 1 = false ∧
    ((me s).bpc : Int) + (5 : BitVec 21).toInt = 0x1FFFF ∧ ((me run).bpc : Int) + (0 : BitVec 21).toInt = 0 ∧
    ((me s).rx 1).toNat < 0x20000 := by decide +kernel

/-- Each clause of LOOP: x0; a count of 0, 1 and 2; a target at 0, at the last address, below 0 and beyond the end. -/
theorem witness_Loop :
    let s := with_ (fun c => { c with bpc := 0x1FFFA, x := [(2, 1), (3, 2)] })
    comesToIssue s = true ∧ ((me s).rx 1).toNat = 0 ∧ ((me s).rx 2).toNat = 1 ∧ ((me s).rx 3).toNat = 2 ∧
    ((me s).bpc : Int) + (5 : BitVec 21).toInt = 0x1FFFF ∧ ((me s).bpc : Int) + (6 : BitVec 21).toInt = 0x20000 ∧
    ((me run).bpc : Int) + (0 : BitVec 21).toInt = 0 ∧ ((me run).bpc : Int) + (0x1FFFFF : BitVec 21).toInt < 0 := by decide +kernel

/-- The last words of the scratchpad at every size, whole and poisoned. -/
theorem witness_ScalarAccess :
    let s := with_ (fun c => { c with x := [(1, 0xFFFF8), (2, 0xFFFFF)] })
    let t := mapMe s (fun c => { c with spPoison := [0x3FFFE] })
    let ea := ((me s).rx 1 + ((0 : BitVec 14).signExtend 64 <<< 3)).toNat
    comesToIssue s = true ∧ ea < 0x100000 ∧ ea % 8 = 0 ∧ (me s).poisonIn ea 8 = none ∧ ((me s).rx 2).toNat % 1 = 0 ∧
    comesToIssue t = true ∧ insidePhase t = false ∧ (me t).poisonIn ea 8 = some 0xFFFF8 := by decide +kernel

theorem witness_DescriptorWrites :
    let s := regs [(1, 0xFFFFFFFFFFFFFFFA)]
    comesToIssue s = true ∧ (4 : BitVec 3).toNat < 5 ∧ (me s).sbAt (.tile 63) = none ∧ ((me s).rx 1).toNat % 16 < 11 ∧
    (me s).bankBusy 15 = false := by decide +kernel

theorem witness_ControlRegisters :
    let s := regs [(1, 0x1FFC0), (2, 0xFFFFFFFFFFFFE00), (3, 0x1FFFF)]
    comesToIssue s = true ∧ csrRead s 0x060 = some 0 ∧ csrRead s 0x004 = none ∧ ((me s).rx 1).toNat < 0x20000 ∧
    ((me s).rx 1).toNat % 64 = 0 ∧ ((me s).rx 2).toNat < 2 ^ 60 ∧ ((me s).rx 2).toNat % 512 = 0 ∧
    ((me s).rx 3).toNat < 0x20000 := by decide +kernel

/-- The least values that raise ILLOP, and the greatest below zero. -/
theorem witness_ScalarIllegal :
    let s := regs [(1, 0x20000), (2, 0x100000), (3, 1), (4, 0xFFFFFFFFFFFFFFFB)]
    comesToIssue s = true ∧ 6 ≤ (6 : BitVec 4).toNat ∧ 64 < (1 : BitVec 6).toNat + (63 : BitVec 6).toNat + 1 ∧
    ((me s).bpc : Int) + (0x1FFFFF : BitVec 21).toInt < 0 ∧ 0x20000 ≤ ((me s).bpc : Int) + (0x20000 : BitVec 21).toInt ∧
    (me s).rp 0 = !false ∧ 0x20000 ≤ ((me s).rx 1).toNat ∧
    0x100000 ≤ ((me s).rx 2 + ((0 : BitVec 14).signExtend 64 <<< 0)).toNat ∧
    ((me s).rx 3 + ((0 : BitVec 14).signExtend 64 <<< 1)).toNat % 2 ≠ 0 ∧ 5 ≤ (5 : BitVec 3).toNat ∧
    11 ≤ ((me s).rx 4).toNat % 16 := by decide +kernel

/-- END at TL0 and at TL1, outside and inside a phase; TRET at TL0, and at TL1 with nothing in flight. -/
theorem witness_WaitsAndEnds :
    comesToIssue run = true ∧ (groupOf run (me run)).ph.inside = false ∧ fenceDone run run.cur = true ∧
    (me run).sbAt (.tile 0) = none ∧ (me run).sbAt (.acc 7) = none ∧ (me run).tl = 0 ∧
    comesToIssue (atLevel 1) = true ∧ (me (atLevel 1)).tl ≠ 0 ∧ (me (atLevel 1)).pipe = [] ∧
    (groupOf (atLevel 1) (me (atLevel 1))).step = .none ∧
    comesToIssue (inPhase .sealed run) = true ∧ (groupOf (inPhase .sealed run) (me (inPhase .sealed run))).ph.inside = true := by
  decide +kernel

/-- A core that may come to each rendezvous. -/
theorem witness_RendezvousReached :
    let s := regs [(12, 0xF3000)]
    (me s).life = .running ∧ (me s).stall = none ∧ (kernelOf s (me s)).lr.nest = false ∧ (me s).aligned = false ∧
    (me s).tl = 0 ∧ (groupOf s (me s)).ph.inside = false ∧
    (kernelOf (nest s) (me (nest s))).lr.nest = true ∧ (me (nest s)).life = .running ∧
    ((me s).rx 12).toNat % 64 = 0 ∧ ((me s).rx 12).toNat + 26624 * (1 + (if true then 1 else 0)) ≤ 0x100000 ∧
    (groupOf s (me s)).opened = false ∧
    (groupOf (inPhase .open_ s) (me (inPhase .open_ s))).ph = .open_ ∧ (me (inPhase .open_ s)).tl = 0 ∧
    (groupOf (inPhase .sealed s) (me (inPhase .sealed s))).ph ≠ .closed := by decide +kernel

/-- A bundle that its rendezvous has released, with and without an item. -/
theorem witness_RendezvousReleased :
    let s := waits_ (fun t => { t with rdv := some .phopen, go := true, lccNext := some 9 }) (regs [(12, 0xF3000)])
    (me s).life = .running ∧ ((me s).stall.map Stall.go).getD false = true ∧ ((me s).stall.map Stall.early).getD false = false ∧
    ((me s).stall.bind Stall.lccNext) = some 9 ∧ (2 : ANo) ≠ 3 ∧ ((me s).rx 12).toNat % 64 = 0 ∧
    ((me s).rx 12).toNat + 2 * 26624 ≤ 0x100000 ∧ (me s).sbAt (.acc 2) ≠ some .write := by decide +kernel

theorem witness_BarrierUpdates :
    let b : Bar := ⟨15, 2 ^ 20 - 1, 2 ^ 20 - 1, 1, true, true, true, 2 ^ 16 - 1, 2 ^ 31 - 1, 2 ^ 32 - 1⟩
    (me run).sp.wf = true ∧ b.ph < 16 ∧ b.arr < 2 ^ 20 ∧ b.exp < 2 ^ 20 ∧ b.spare < 2 ∧ b.res1 < 2 ^ 16 ∧ b.res2 < 2 ^ 32 ∧
    -(2 ^ 31) ≤ b.sect ∧ b.sect < 2 ^ 31 ∧ b.exp ≠ 0 ∧ 2 ≤ b.arr ∧ 2 ≤ b.sect ∧ 2 ^ 20 ≤ b.arr + 1 ∧
    (let z : Bar := ⟨0, 2 ^ 20 - 2, 1, 0, false, false, false, 0, -(2 ^ 31), 0⟩
     z.sect = -(2 ^ 31) ∧ z.arr + 1 < 2 ^ 20 ∧ z.exp ≠ 0) ∧
    b.sect + (0 : Nat) ≤ 2 ^ 31 - 1 ∧ b.sect + (0 : Nat) ≠ 0 ∧ 2 ^ 31 - 1 < b.sect + (1 : Nat) ∧
    (let z : Bar := ⟨0, 0, 1, 0, false, false, false, 0, -1, 0⟩
     z.sect + (1 : Nat) = 0 ∧ z.arr = 0 ∧ z.exp ≠ 0) ∧
    (let z : Bar := ⟨0, 0, 0, 0, false, false, false, 0, 1, 0⟩
     z.sect = 1 ∧ z.exp = 0) := by decide +kernel

/-- The first and the last barrier of the scratchpad. -/
theorem witness_OwnBarriers :
    let s := nest (regs [(1, 0xFFFF0), (2, 0xFFFFF), (3, 0x7FFFFFFF), (4, 1)])
    let free := (groupOf s (me s)).ph.inside = false
    let t := mapMe s (fun c => c.barPut 0 ⟨1, 0xFFFFF, 0xFFFFF, 0, false, false, false, 0, 0, 0⟩)
    comesToIssue s = true ∧ free ∧ ((me s).rx 1).toNat % 16 = 0 ∧ ((me s).rx 1).toNat ≤ 0xFFFF0 ∧
    ((me s).rx 2).toNat < 2 ^ 20 ∧ 0 < ((me s).rx 4).toNat ∧ ((me s).rx 3).toNat < 2 ^ 31 ∧ (kernelOf s (me s)).lr.nest = true ∧
    (me s).poisonIn 0xFFFF0 16 = none ∧ ((me s).barAt 0xFFFF0).expect false 0x7FFFFFFF ≠ none ∧
    comesToIssue t = true ∧ ((me t).barAt 0).expect true 1 = none ∧ ((me t).barAt 0).ph ≠ 0 ∧
    ((me s).barAt 0xFFFF0).ph = 0 ∧ (me s).stall = none := by decide +kernel

/-! ### States with pages -/

/-- Page tables at 0x10000 in DRAM: from VA 0 a page of 1 GiB at PA 2^30 for every access, from VA 2^30 the scratchpad of
core 0, at VA 2^31 a PEER page on port 2 (R346-R348). -/
def tables : Memory :=
  let put (a v : Nat) (m : Memory) : Memory := m.writeN a (leBytes 8 v)
  put 0x10000 0x11001 (put 0x11000 0x12001 (put 0x12000 0x13001 (put 0x13000 0x400000E3 (put 0x13008 0x14001
    (put 0x13010 0x20000000073 (put 0x14000 0x15001 (put 0x15000 0xEB [])))))))

/-- Core 0 in a context with these pages, its bundle's walks done. -/
def paged (f : Core → Core) : State :=
  let s := mapCtx (with_ f) 0 (fun x => { x with root := 0x10000, profMask := 1, portMask := 0xFFFF })
  waits_ (fun t => { t with walked := true }) { s with hbm := tables, planes := [] }

theorem test_pages :
    (xlate (paged id) 0 0x40 .atom).toOption.map (fun p => (p.place 0x40).addr) = some 0x40000040 ∧
    (xlate (paged id) 0 0x40000010 .barrier).toOption.map (fun p => (p.place 0x40000010).home) = some (.scratch 0) ∧
    (xlate (paged id) 0 0x80000000 .write).toOption.map (fun p => (p.place 0x80000000).home) = some (.port 2) ∧
    (xlate (paged id) 0 0x40000010 .read).toOption.isSome = true ∧ (walk (paged id) 0 (2 ^ 57)).toOption.isNone = true ∧
    tables.wf = true := by decide +kernel

/-- A device-owned queue with room, a token mapped and one not, a poll of it idle, asked and answered; a barrier of the scratchpad;
an EVPOST outside, in an open and in a sealed phase. -/
theorem witness_QueueInstructions :
    let q : Queue := { (default : Queue) with ring := 0x1000, lg := 4, device := true, st := .idle }
    let s := mapCtx (nest (paged (fun c => { c with x := [(1, 0xFFFC0), (2, 0x8), (3, 0x40000010), (4, 2 ^ 57)] }))) 0
      (fun x => { x with queues := [q] })
    let n := ctxNo s (me s)
    let u := queueAt s n 0
    comesToIssue s = true ∧ hasWalked s = true ∧ gateClosed s = false ∧ insidePhase s = false ∧ (ctxAt s n).queues.length = 1 ∧
    u.device = true ∧ ((me s).rx 1).toNat % 64 = 0 ∧ ((me s).rx 1).toNat < 0x100000 ∧
    comingFor s n 0 < 2 ^ u.lg - (u.qtail + 2 ^ 48 - u.qcons) % 2 ^ 48 ∧
    (xlate s n (ringSlot u u.qtail) .write).toOption.isSome = true ∧ ((me s).rx 2).toNat % 8 = 0 ∧
    (xlate s n 8 .read).toOption.isSome = true ∧ ((me s).rx 4).toNat % 8 = 0 ∧
    (xlate s n ((me s).rx 4).toNat .write).toOption.isNone = true ∧ (me s).stall.map Stall.poll = some .idle ∧
    (let g := mapMe s (fun c => { c with stall := c.stall.map (fun t => { t with poll := .got 5 }) })
     comesToIssue g = true ∧ hasWalked g = true ∧ (me g).stall.map Stall.poll = some (.got 5) ∧ ((me g).rx 0).toNat ≤ 5) ∧
    (let g := mapMe s (fun c => { c with stall := c.stall.map (fun t => { t with poll := .asked 9 }) })
     let r : Req := { (default : Req) with id := 9, src := .core 0, op := .read [⟨8, 8, .bytes 0, 0⟩] }
     r.xfer = none ∧ r.op.isLoad = true ∧ (coreAt g 0).stall.map Stall.poll = some (.asked r.id)) ∧
    (xlate s n 8 .write).toOption.isSome = true ∧ (kernelOf s (me s)).lr.nest = true ∧
    (me s).rx 0 = 0 ∧ (xlate s n ((me s).rx 3).toNat .barrier).toOption.isSome = true ∧ ((me s).rx 3).toNat % 16 = 0 ∧
    (0x7FFF : BitVec 16).toNat < 0x8000 ∧ (me (inPhase .open_ s)).kernel = some 1 ∧
    phaseOf (inPhase .open_ s) (me (inPhase .open_ s)) = .open_ ∧ comesToIssue (inPhase .open_ s) = true ∧
    phaseOf (inPhase .sealed s) (me (inPhase .sealed s)) = .sealed := by decide +kernel

/-- The page of 1 GiB at VA 0. -/
def bigPage : Page := ⟨0, 30, 0x400000E3, 0⟩

/-- The slot of a packet in DRAM, in a line that holds no error, and its context without windows. -/
theorem witness_QueueInstructions_ring :
    let s := mapCtx (paged id) 0 (fun x => { x with queues := [{ (default : Queue) with ring := 0x1000, lg := 4 }] })
    let u := queueAt s 0 0
    let r : Req := { (default : Req) with op := .enq 0 (List.replicate 64 1) }
    (r.ctx = 0 ∧ 0 < (ctxAt s 0).queues.length ∧ (xlate s 0 (u.ring + 64 * (u.qtail % 2 ^ u.lg)) .write).toOption = some bigPage ∧
      (bigPage.place 0x1000).home = .stack 0 ∧ u.ring + 64 * (u.qtail % 2 ^ u.lg) = 0x1000 ∧ (ctxAt s 0).windows = []) ∧
    clean s (bigPage.place 0x1000) :=
  ⟨by decide +kernel, clean_stack _ _ 0 (by decide +kernel) (by decide +kernel) (by decide +kernel) rfl rfl⟩

/-- A mapped and an unmapped address, the first beyond the address space; a new leaf for a page of 1 GiB, and one that PGMIG refuses; a
transfer that captured the page. -/
theorem witness_PageInstructions :
    let s := paged (fun c => { c with x := [(1, 2 ^ 57), (2, 0x800000E3), (3, 2 ^ 60)] })
    let c := paged (fun c => { c with xfers := [{ (default : Xfer) with id := 9, left := [8], pages := [bigPage] }] })
    let n := ctxNo s (me s)
    comesToIssue s = true ∧ captured s n 0 0 = false ∧ migInside s n 0 = false ∧ hasWalked s = true ∧ ((me s).rx 1).toNat < 2 ^ 60 ∧
    2 ^ 60 ≤ ((me s).rx 3).toNat ∧ fresh (anew s) ∧ migIllop (anew s) n 0 0 = true ∧
    comesToIssue c = true ∧ captured c n 0 0 = true ∧ (∃ p ∈ c.cores, ctxNo c p.2 = n ∧ p.2.kernel.isSome = true ∧
      ∃ x ∈ p.2.xfers, x.left ≠ [] ∧ ∃ g ∈ x.pages, g.va % 2 ^ g.lg = 0) ∧
    (walk s n (2 ^ 57)).toOption.isNone = true ∧ (walk s n 0).toOption = some (30, 0x400000E3, 0x13000) ∧
    migIllop s n 0 0x800000E3 = false ∧ migFault s n 0 0x800000E3 = none ∧ migWaits s n 0 0x800000E3 = false := by decide +kernel

/-- The entry of a leaf in a line that holds no error, and a held store of its page whose phase an invalidation cancels. -/
theorem witness_PageInstructions_entry :
    let r : Req := { (default : Req) with
      id := 9, src := .core 0, place := bigPage.place 0x40, va := 0x40, op := .write [some 1] [], st := .held, ph := some (1, 0), lg := 30 }
    let s := inPhase .open_ { paged id with reqs := [r] }
    ((groupAt s 1 0).ph = .open_ ∧ (groupAt s 1 0).step = .none ∧ r.core?.isSome = true ∧
      s.reqs.find? (fun r => r.ph == some (1, 0) && r.ctx == 0 && r.st == .held && r.core?.isSome && r.lg != 0) = some r) ∧
    clean (paged id) ⟨.stack 0, 0x13000, 0⟩ :=
  ⟨by decide +kernel, clean_stack _ _ 0 rfl (by decide +kernel) (by decide +kernel) rfl rfl⟩

/-! ### The V, M, C and L slots -/

/-- For VectorArithmetic, VectorElements, VectorShiftsComparesConversions, VectorFunctions and FalsePredicate: the units are free,
for an integer and for a float type; p7 is false. -/
theorem witness_Vectors :
    comesToIssue run = true ∧ (me run).rp 0 = true ∧ (me run).rp 7 = false ∧ (me run).busy (.arith .a) = false ∧
    (me run).busy (.arith .b) = false ∧ (me run).busy (.perm .a) = false ∧ (me run).busy (.func .b) = false ∧
    (me run).busy (.mem .a) = false ∧ (me run).busy (.move .b) = false ∧ (me run).busy .zig = false ∧
    VTy.i64.float? = none ∧ VTy.f64.float? = some .f64 ∧ VTy.f32.float? = some .f32 ∧ VTy.i8x4.signed = true ∧
    VTy.n8x4.signed = false ∧ VTy.n16x2 ≠ .i32 ∧
    (me (occupy (.arith .a) 4 run)).busy (.arith .a) = true ∧ comesToIssue (occupy (.arith .a) 4 run) = true ∧ fresh run := by
  decide +kernel

theorem witness_VectorShiftsComparesConversions :
    (31 : BitVec 6).toNat < VTy.i32.width ∧ VTy.i32.width ≤ (32 : BitVec 6).toNat ∧ (63 : BitVec 6).toNat < VTy.n64.width ∧
    (5 : BitVec 4).toNat < 6 ∧ 6 ≤ (6 : BitVec 4).toNat ∧
    max VTy.i8x4.width VTy.i16x2.width / min VTy.i8x4.width VTy.i16x2.width ≤ (2 : BitVec 2).toNat ∧
    VTy.i8x4.width ≤ 32 ∧ VTy.i8x4.width < VTy.i32.width ∧ VTy.f64.width = 64 ∧ VTy.f32.width = 32 ∧ (3 : BitVec 2).toNat < max VTy.i8x4.width VTy.i32.width / min VTy.i8x4.width VTy.i32.width ∧
    (0 : BitVec 2).toNat < max VTy.f32.width VTy.f32.width / min VTy.f32.width VTy.f32.width := by decide +kernel

theorem witness_VectorMoves : (15 : BitVec 6).toNat < 16 ∧ (63 : BitVec 6).toNat < cols .i32 ∧ (31 : BitVec 6).toNat < cols .i64 ∧
    cols .i64 ≤ (32 : BitVec 6).toNat ∧ 16 ≤ (16 : BitVec 6).toNat := by
  decide +kernel

theorem witness_VectorReductions : (2 : BitVec 2) ≠ 3 ∧ VTy.n32.isFloat = false ∧ VTy.f16x2.isFloat = true ∧ (3 : BitVec 2) = 3 := by decide +kernel

theorem witness_FunctionSpecialValues : FFmt.f16.nan < 2 ^ FFmt.f16.width ∧ (FVal.ofBits .f16 FFmt.f16.nan).isNan = true := by
  decide +kernel

/-- The last sixteen rows of the scratchpad, and sixteen whose last one goes beyond it. -/
theorem witness_VectorMemory :
    let s := regs [(1, 0xFF000), (2, 0xFF040)]
    let beyond := (List.range 16).map (fun r => ((me s).rx 2 + ((0 : BitVec 16).signExtend 64 <<< 6) + BitVec.ofNat 64 (r * 256)).toNat)
    let rows := (List.range 16).map (fun r => ((me s).rx 1 + ((0 : BitVec 16).signExtend 64 <<< 6) + BitVec.ofNat 64 (r * 256)).toNat)
    comesToIssue s = true ∧ (me s).rp 0 = true ∧ (me s).busy (.mem .b) = false ∧
    ¬(∀ r ∈ beyond, r % 64 = 0 ∧ r + 255 ≤ 0xFFFFF) ∧ (∀ r ∈ rows, r % 64 = 0 ∧ r + 255 ≤ 0xFFFFF) ∧ (∀ r ∈ rows, (me s).poisonIn r 256 = none) := by decide +kernel

theorem witness_RankStream : VTy.rankOk .f32 = true ∧ VTy.rankOk .n32 = true ∧ (∀ c : Fin 64, c.val < 2 ^ 32) ∧
    comesToIssue run = true ∧ (me run).rp 0 = true ∧ (me run).busy .zig = false ∧ 0 < (64 : BitVec 7).toNat ∧
    (64 : BitVec 7).toNat ≤ 64 ∧ (0 : BitVec 7).toNat = 0 ∧ 64 < (65 : BitVec 7).toNat := by decide +kernel

/-- Tiles of one row of 64 bytes: t1 and t2 in f32 banks, t6 in an i8, t7 in a PNI, t8 in a b1 and t10 in a RAW bank; t9 of 64
rows in an f32 bank; t3 of 16 rows of 1,664 bytes, t11 of one row of 320 and t12 of one row of 128, in RAW banks. Shapes of one
element for the M slot, of four for the others. -/
def tiled (c : Core) : Core :=
  { c with
    tile := [(1, 0), (2, 1), (3, 0x1A643C002), (6, 4), (7, 5), (8, 6), (9, 0x100FC007), (10, 8), (11, 0x1000009), (12, 0x40000A)]
    bf := [(0, 2), (1, 2), (4, 5), (5, 10), (6, 9), (7, 2)]
    shLive := [(0, 0x100010001), (1, 0x10001), (4, 0x10004), (5, 0x10040), (8, 0x10004), (12, 0x10004)] }

/-- What MatrixProducts asks of both tiles, and of those of a product. -/
abbrev sharedOk (c : Core) (v : W64) (a b : Win) (fb : BFmt) : Prop :=
  1 ≤ dim v 0 ∧ dim v 0 ≤ 16 ∧ 1 ≤ dim v 1 ∧ dim v 1 ≤ 64 ∧ 1 ≤ dim v 2 ∧ dim v 3 = 0 ∧ tileOk c a ∧ tileOk c b ∧
  dim v 0 ≤ a.rows ∧ c.fmtOf b = fb
abbrev productOk (c : Core) (v : W64) (a b : Win) (fa fb : BFmt) : Prop :=
  sharedOk c v a b fb ∧ c.fmtOf a = fa ∧ dim v 1 ≤ b.rows ∧ dim v 2 ≤ rowCap fa a.len ∧ dim v 2 ≤ rowCap fb b.len

/-- The conditions of a product and of RACC, and of neither; the formats of MMA and MMAS (1), IMMA (4), PMM and PMMS (8 and 14) and
BMM (7). -/
theorem witness_MatrixProducts :
    let s := with_ tiled
    let c := me s
    let v := c.shape 0 false
    comesToIssue s = true ∧ fresh s ∧ c.mops.length < 8 ∧ c.sbAt (.tile 1) ≠ some .write ∧ c.sbAt (.acc 2) = none ∧
    productOk c v (c.win 1) (c.win 2) (precFmt 1) (precFmt 1) ∧ productOk c v (c.win 6) (c.win 6) (precFmt 4) (precFmt 4) ∧
    productOk c v (c.win 7) (c.win 7) (precFmt 8) (precFmt 14) ∧ productOk c v (c.win 8) (c.win 8) (precFmt 7) (precFmt 7) ∧
    ¬productOk c v (c.win 6) (c.win 2) (precFmt 1) (precFmt 1) ∧
    (sharedOk c v (c.win 10) (c.win 9) (precFmt 1) ∧ dim v 2 ≤ 64 ∧ (c.fmtOf (c.win 10) = .raw ∨ c.fmtOf (c.win 10) = .n8) ∧
      64 ≤ (c.win 9).rows ∧ dim v 1 ≤ rowCap (precFmt 1) (c.win 9).len) ∧ ¬64 ≤ (c.win 2).rows ∧
    c.spPoison = [] ∧ c.accPoison = [] ∧ 0 < dim v 0 := by decide +kernel

theorem witness_Accumulators :
    let s := with_ (fun c => { tiled c with lit := [(0, -32767)] })
    let c := me s
    let w := c.win 3
    comesToIssue s = true ∧ c.mops.length < 8 ∧ c.sbAt (.acc 7) = none ∧ c.accPoison = [] ∧ c.spPoison = [] ∧
    -32767 ≤ (tabGet 0 c.lit c.lpc.toNat).toInt ∧ (tabGet 0 c.lit c.lpc.toNat).toInt ≤ 32767 ∧ (kernelOf s c).level = 0 ∧
    (6 : ANo) ≠ 7 ∧ tileOk c w ∧ 16 ≤ w.rows ∧ 1664 ≤ w.len ∧ c.fmtOf w = .raw ∧ c.sbAt (.tile 3) = none ∧ fresh s ∧
    ¬16 ≤ (c.win 1).rows ∧
    (let f := with_ (fun c => { c with lit := [(0, 32768)] })
     fresh f ∧ ¬(tabGet 0 (me f).lit (me f).lpc.toNat).toInt ≤ 32767) ∧
    (let f := leveled 1 s
     fresh f ∧ ¬((kernelOf f (me f)).level = 0 ∨ (me f).bpc ∈ (kernelOf f (me f)).points)) ∧
    (let f := inKernel (fun k => { k with points := [0] }) (leveled 1 s)
     comesToIssue f = true ∧ (me f).bpc ∈ (kernelOf f (me f)).points) := by decide +kernel

/-- ACCRD whole and scaled, TTRN between two f32 tiles, TZERO and KCHK. -/
theorem witness_MatrixTiles :
    let s := with_ (fun c => { tiled c with shLive := [(0, 0x100010001), (1, 0x10001)] })
    let c := me s
    let v := c.shape 1 false
    comesToIssue s = true ∧ c.mops.length < 8 ∧ c.accPoison = [] ∧ c.spPoison = [] ∧ dim v 0 = 1 ∧ dim v 1 = 1 ∧ dim v 2 = 0 ∧
    dim v 3 = 0 ∧ tileOk c (c.win 1) ∧ 1 ≤ (c.win 1).rows ∧ 1 * (VTy.f32.width / 8) ≤ (c.win 1).len ∧ c.fmtOf (c.win 1) = .f32 ∧
    fresh s ∧ dim (c.shape 0 false) 2 ≠ 0 ∧ tileOk c (c.win 11) ∧ 320 ≤ (c.win 11).len ∧ c.fmtOf (c.win 11) = .raw ∧ (1 : TNo) ≠ 11 ∧
    c.sbAt (.tile 11) ≠ some .write ∧ c.sbAt (.acc 0) ≠ some .write ∧ c.sbAt (.tile 1) = none ∧ tileOk c (c.win 2) ∧
    (let f := with_ (fun c => { c with tile := [(1, 0x403FF0)] })
     fresh f ∧ ¬tileOk (me f) ((me f).win 1)) ∧ c.fmtOf (c.win 2) = .f32 ∧ 1 ≤ rowCap .f32 (c.win 1).len ∧ 1 ≤ (c.win 2).rows ∧ 1 ≤ rowCap .f32 (c.win 2).len ∧
    c.sbAt (.tile 2) = none := by decide +kernel

/-- A handle: rank 2, f32 (format 2) or i32 (8), 4 by 4 elements from an address on, `step` and four times as many bytes apart
(R282). -/
def handleBy (step base fmt : Nat) : HandleBits :=
  BitVec.ofNat 1024 (base + 2 ^ 64 * (2 + 256 * fmt + 65536) + 2 ^ 128 * 4 + 2 ^ 192 * 4 + 2 ^ 384 * step + 2 ^ 448 * (4 * step))

def handle44 (base fmt : Nat) : HandleBits := handleBy 4 base fmt

/-- Handles h1 (f32) and h2 (i32) at VA 0x100, with x1 the address and x2 a value. -/
def copies (c : Core) : Core :=
  { tiled c with handle := [(1, handle44 0x100 2), (2, handle44 0x100 8)], x := [(1, 0x100), (2, 8)] }

/-- For TensorLoads and TensorStores: TLD, TGATH, TLDB, TST and TSCAT of a row of four elements at VA 0x100. -/
theorem witness_TensorLoads_tensors :
    let s := paged copies
    let c := me s
    let hd := handleOf (c.handleAt 1)
    let v := c.shape (CopyEng.shape .a 0) false
    let w := c.win 1
    let gather := RowMap.gather (indexList c 0 1)
    let at_ (m : RowMap) : List (Nat × Nat) :=
      (tensorEls hd m v (coordsOf s 3 hd.rank)).filterMap (fun el => el.va.map (fun va => (va, hd.esize)))
    comesToIssue s = true ∧ hasWalked s = true ∧ gateClosed s = false ∧ held s (some 7) (some 1) = false ∧
    c.sbAt (.tile 1) = none ∧ insidePhase s = false ∧ phaseOf s c ≠ .sealed ∧ levelOf s c ≠ 2 ∧ ext1 (dim v 1) = 1 ∧
    shapeOk hd .tile v 3 ∧ holdsShape c hd .tile v w ∧ shapeOk hd gather v 3 ∧ holdsShape c hd gather v w ∧ shapeOk hd .bcast v 3 ∧
    holdsShape c hd .bcast v w ∧ (0 : Nat) % 4 = 0 ∧ 0 + 4 * ext1 (dim v 1) ≤ 0x100000 ∧
    (∀ m ∈ [RowMap.tile, gather, .bcast], at_ m ≠ [] ∧ reaches s .read (at_ m) = true) ∧ reaches s .write (at_ .tile) = true ∧ reaches s .write (at_ gather) = true := by decide +kernel

/-- A row of four elements whose last two lie beyond the scratchpad's page: its lowest address that does not translate. -/
theorem witness_TensorLoads_faults :
    let s := paged (fun c => { copies c with handle := [(1, handleBy 4 (2 ^ 30 + 65528) 2)] })
    let c := me s
    let hd := handleOf (c.handleAt 1)
    let v := c.shape (CopyEng.shape .a 0) false
    let vas := (tensorEls hd .tile v (coordsOf s 3 hd.rank)).filterMap TEl.va
    let n := ctxNo s c
    let fine (a : Acc) (y : Nat) : Bool := ((xlate s n y a).toOption.map (fun pg => leafTT pg.leaf.toNat != 6)).getD false
    comesToIssue s = true ∧ hasWalked s = true ∧ gateClosed s = false ∧ held s (some 7) (some 1) = false ∧ levelOf s c ≠ 2 ∧
    shapeOk hd .tile v 3 ∧ holdsShape c hd .tile v (c.win 1) ∧ 2 ^ 30 + 65536 ∈ vas ∧ 2 ^ 30 + 65528 ∈ vas ∧
    c.sbAt (.tile 1) = none ∧ phaseOf s c ≠ .sealed ∧
    (xlate s n (2 ^ 30 + 65536) .read).toOption.isNone = true ∧ (xlate s n (2 ^ 30 + 65536) .write).toOption.isNone = true ∧
    (∀ y ∈ vas, y < 2 ^ 30 + 65536 → fine .read y = true ∧ fine .write y = true) := by decide +kernel

/-- For TensorLoads and TensorStores: SCOPY, VTLD, VTST and TFILL of a row of four bytes. -/
theorem witness_TensorLoads_rows :
    let s := paged copies
    let c := me s
    let v := c.shape (CopyEng.shape .a 0) false
    let w := c.win 1
    tileOk c w ∧ dim v 0 = 4 ∧ 4 ≤ w.len ∧ ext1 (dim v 1) ≤ w.rows ∧ dim v 2 ≤ 1 ∧ dim v 3 ≤ 1 ∧
    reaches s .read (runs 64 0x100 4) = true ∧ reaches s .write (runs 64 0x100 4) = true ∧ (c.rx 1).toNat = 0x100 ∧
    vaultOk c (c.shape (CopyEng.shape .a 1) false) w 0x1FFFC0 0 ∧ dim v 0 ≤ rowCap (c.fmtOf w) w.len ∧ held s (some 7) none = false := by decide +kernel

/-- What loads and stores are refused for: a phase whose log is full, a sealed phase, a coordinate register too far, a wide row, an
index list that is not aligned, a vault's offset that is not, and, outside the phase of a level-2 item, another place than the own
scratchpad. -/
theorem witness_TensorLoads_refused :
    let s := anew (paged copies)
    let c := me s
    let hd := handleOf (c.handleAt 1)
    let v := c.shape (CopyEng.shape .a 0) false
    let f := inPhase .open_ (mapMe s (fun c => { c with runLog := List.replicate 512 default }))
    let g := leveled 2 (paged copies)
    -- a shape of 65 bytes a row
    let w := (me (mapMe s (fun c => { c with shLive := [(4, 0x10041)] })))
    let wide := w.shape (CopyEng.shape .a 0) false
    fresh s ∧ fresh f ∧ insidePhase f = true ∧ 512 ≤ (me f).runLog.length ∧ fresh (inPhase .sealed s) ∧
    phaseOf (inPhase .sealed s) (me (inPhase .sealed s)) = .sealed ∧ ¬shapeOk hd .tile v 31 ∧ ¬shapeOk hd .bcast v 31 ∧
    ¬(2 : Nat) % 4 = 0 ∧ ¬dim wide 0 ≤ (w.win 1).len ∧ ¬dim wide 0 ≤ rowCap (w.fmtOf (w.win 1)) (w.win 1).len ∧
    ¬vaultOk w wide (w.win 1) 0 0 ∧ ¬vaultOk c v (c.win 1) 0x20 0 ∧
    comesToIssue g = true ∧ levelOf g (me g) = 2 ∧ insidePhase g = false ∧ (me g).sbAt (.tile 1) = none ∧ phaseOf g (me g) ≠ .sealed ∧
    hasWalked g = true ∧ gateClosed g = false ∧ held g (some 7) (some 1) = false ∧
    ((tensorEls hd .tile v (coordsOf g 3 hd.rank)).filterMap TEl.va).head? = some 0x100 ∧
    (xlate g 0 0x100 .read).toOption = some bigPage ∧ (xlate g 0 0x100 .write).toOption = some bigPage ∧
    (bigPage.place 0x100).home ≠ .scratch g.cur := by decide +kernel

/-- ATOM 0 and 9 outside windows and CREAD in one; RED and FADD outside and FADD within one. -/
theorem witness_Atomics :
    let s := paged copies
    let w := mapCtx s 0 (fun x => { x with windows := [⟨8, 0, 4, 0x100⟩] })
    let c := me s
    comesToIssue s = true ∧ hasWalked s = true ∧ gateClosed s = false ∧ (c.rx 1).toNat = 0x100 ∧ held s (some 7) none = false ∧
    tileOk c (c.win 1) ∧ c.sbAt (.tile 1) = none ∧ levelOf s c = 0 ∧ phaseOf s c ≠ .sealed ∧ windowOf s 0x100 = none ∧
    reaches s .atom [(0x100, 8)] = true ∧ reaches s .red [(0x100, 4)] = true ∧ reaches s .fadd [(0x100, 4)] = true ∧
    (let f := mapMe s (fun c => { c with x := [(1, 2 ^ 57)] })
     comesToIssue f = true ∧ ((me f).rx 1).toNat % 8 = 0 ∧ windowOf f (2 ^ 57) = none ∧ held f (some 7) none = false ∧
     (xlate f (ctxNo f (me f)) (2 ^ 57) .atom).toOption.isNone = true) ∧
    (windowOf w 0x100).map Window.fmt = some 8 ∧ (windowOf w 0x100).map Window.base = some 0x100 ∧
    (0x100 - 0x100 : Nat) % 32 = 0 ∧ reaches w .cread [(0x100, 4)] = true ∧ reaches w .fadd [(0x100, 4)] = true ∧
    held w (some 7) none = false ∧ fresh (anew w) ∧ windowOf (anew w) 0x100 ≠ none ∧ ¬(12 : BitVec 6).toNat ≤ 10 ∧
    ¬(2 : BitVec 2).toNat ≤ 1 := by decide +kernel

/-- REDT of i32 elements outside windows (h2), and of f32 addends within one (h1). -/
theorem witness_Atomics_redt :
    let s := paged copies
    let w := mapCtx (mapMe s (fun c => { c with handle := [(1, handleBy 32 0x100 2)] })) 0
      (fun x => { x with windows := [⟨8, 0, 16, 0x100⟩] })
    let c := me s
    let v := c.shape (CopyEng.shape .a 0) false
    let at_ (s : State) (h : Nat) : List Nat := (tensorEls (handleOf ((me s).handleAt h)) .tile v (coordsOf s 3 2)).filterMap TEl.va
    (handleOf (c.handleAt 2)).bfmt = .i32 ∧ shapeOk (handleOf (c.handleAt 2)) .tile v 3 ∧
    holdsShape c (handleOf (c.handleAt 2)) .tile v (c.win 1) ∧ c.spPoison = [] ∧ held s (some 7) (some 2) = false ∧
    (∀ a ∈ at_ s 2, windowOf s a = none) ∧ reaches s .red ((at_ s 2).map (fun a => (a, 4))) = true ∧ at_ s 2 ≠ [] ∧
    (handleOf ((me w).handleAt 1)).bfmt = .f32 ∧ at_ w 1 ≠ [] ∧ reaches w .fadd ((at_ w 1).map (fun a => (a, 4))) = true ∧
    shapeOk (handleOf ((me w).handleAt 1)) .tile v 3 ∧
    -- a RED operation that no element has, one that meets a window, FADD above level 0 that meets none, and some outside a window
    fresh (anew s) ∧ ¬((8 : Nat) ≤ 7) ∧ fresh (anew w) ∧ (∃ a ∈ at_ (anew w) 1, windowOf (anew w) a ≠ none) ∧
    (let f := anew (leveled 1 (mapMe s (fun c => { c with handle := [(1, handle44 0x100 2)] })))
     fresh f ∧ levelOf f (me f) ≠ 0 ∧ at_ f 1 ≠ [] ∧ ∀ a ∈ at_ f 1, windowOf f a = none) ∧
    (let f := mapCtx w 0 (fun x => { x with windows := [⟨8, 0, 1, 0x100⟩] })
     reaches f .fadd ((at_ f 1).map (fun a => (a, 4))) = true ∧ (∃ a ∈ at_ f 1, windowOf f a ≠ none) ∧ ∃ a ∈ at_ f 1, windowOf f a = none) ∧
    (∀ a ∈ at_ w 1, windowOf w a = some ⟨8, 0, 16, 0x100⟩ ∧ (a - 0x100) % 32 = 0) := by decide +kernel

/-- Handles taken, put and changed; an overlay present and absent. -/
theorem witness_HandlesAndOverlays :
    let s := paged copies
    let o := inKernel (fun k => { k with overlays := [⟨0x10000, 128, 0x400, 5⟩] }) s
    let p := mapMe o (fun c => { c with present := [0] })
    let c := me s
    let k := kernelOf o (me o)
    let src := (k.lr.image + (k.overlays.getD 0 default).off) % 2 ^ 60
    comesToIssue s = true ∧ held s none (some 1) = false ∧ tileOk c (c.win 12) ∧ 128 ≤ (c.win 12).len ∧ c.sbAt (.tile 12) = none ∧
    fresh (anew s) ∧ ¬128 ≤ (c.win 1).len ∧ (10 : BitVec 8).toNat ≤ 10 ∧ 10 < (11 : BitVec 8).toNat ∧
    comesToIssue o = true ∧ (0 : Nat) < k.overlays.length ∧ 17 ∉ (me o).tags ∧ hasWalked o = true ∧ gateClosed o = false ∧
    ¬(1 : Nat) < k.overlays.length ∧ src = 0x400 ∧
    (∀ i, i < 128 → (xlate o (ctxNo o (me o)) (src + i) .read).toOption = some bigPage) ∧ leafTT bigPage.leaf.toNat ≠ 6 ∧
    0 ∉ (me o).present ∧ 0 ∈ (me p).present ∧ comesToIssue p = true ∧ hasWalked p = true ∧ gateClosed p = false ∧
    ((kernelOf p (me p)).overlays.getD 0 default).tag ≠ 0 := by decide +kernel

/-- Port 2 UP and claimed for nobody, in a timed kernel of two gang cores. -/
def linked (s : State) : State :=
  mapLink (inKernel (fun k => { k with lr := { k.lr with gang := 2 }, aligned := true })
    (mapMe s (fun c => { c with aligned := true }))) 2 (fun l => { l with st := .up, v := true, ctx := 0, lanes := 4 })

/-- Ports that the current kernel cannot use: one out of its mask, one that is DOWN, one that another kernel has claimed. -/
def unlinkable (s : State) : State :=
  mapLink (mapLink (mapCtx (anew (linked s)) 0 (fun x => { x with portMask := 0xFFFE })) 3 (fun l => { l with st := .down })) 2
    (fun l => { l with claim := some 7 })

theorem witness_unlinkable :
    let u := unlinkable (paged copies)
    fresh u ∧ portReason u 0 = 1 ∧ portReason u 3 = 2 ∧ portReason u 2 = 3 ∧ (∀ p ∈ [0, 2, 3], mayMessage u p 1) := by decide +kernel

/-- Tiles of 64 and of one byte a row for SEND and SENDR, of 1,664 bytes for neither; ports 2 and 16. -/
theorem witness_MessagesSent :
    let s := linked (paged copies)
    let c := me s
    let m : Msg := default
    let r : Req := { (default : Req) with op := .msg m, place := skidPlace 2 }
    comesToIssue s = true ∧ fresh (anew s) ∧ mayMessage s 2 1 ∧ mayMessage s 16 1 ∧ mayMessage (anew s) 16 1 ∧ ¬mayMessage (anew s) 16 0 ∧
    tileOk c (c.win 1) ∧ (c.win 1).rows * (c.win 1).len ∈ [64, 128, 192, 256] ∧ (c.win 3).rows * (c.win 3).len ∉ [64, 128, 192, 256] ∧
    tileOk c (c.win 10) ∧ 1 ≤ (c.win 10).rows ∧ c.fmtOf (c.win 10) = .raw ∧ c.fmtOf (c.win 6) ≠ .raw ∧ c.fmtOf (c.win 6) ≠ .n8 ∧
    c.sbAt (.tile 1) = none ∧ c.sbAt (.tile 10) = none ∧ portReason s 2 = 0 ∧ gateClosed s = false ∧ skidUsed s 2 + 4 ≤ 64 ∧
    slotsOf c.outbox + 1 ≤ 16 ∧ r.op = .msg m ∧ r.place = skidPlace 2 := by decide +kernel

/-- The state in which the message `m` has come for core 0 from gang index 1, one cycle after its stamp. -/
def withMessage (m : Msg) (s : State) : State :=
  mapLink (mapMe s (fun c => { c with lcc := 1 })) 2 (fun l => { l with rx := [m] })

theorem witness_MessagesReceived :
    let m : Msg := ⟨1, 0, false, 0, 0, 0, List.replicate 64 7, 1, none, 0, 0, 0, 0, none, []⟩
    let r : Msg := ⟨1, 0, true, 0, 6, 1, List.replicate 6 7, 1, none, 0, 0, 0, 0, none, []⟩
    let s := withMessage m (linked (paged copies))
    let t := withMessage r (linked (paged copies))
    let c := me s
    let w := c.win 1
    let stamp := ((c.lcc.toInt - (1 : BitVec 24).toNat) % 2 ^ 40).toNat
    comesToIssue s = true ∧ comesToIssue t = true ∧ channelHead s 2 1 = some m ∧ channelHead t 2 1 = some r ∧
    tileOk c w ∧ w.rows * w.len = 64 ∧ c.fmtOf w = .f32 ∧ tileOk c (c.win 6) ∧ c.fmtOf (c.win 6) = .i8 ∧ mayMessage s 2 1 ∧
    mayMessage t 2 1 ∧ portReason s 2 = 0 ∧ portReason t 2 = 0 ∧ c.sbAt (.tile 1) = none ∧ (me t).sbAt (.tile 10) = none ∧
    m.stamp = stamp ∧ m.sendr = false ∧ m.payload.length = w.rows * w.len ∧ r.stamp = stamp ∧ r.sendr = true ∧
    r.k = (5 : BitVec 6).toNat + 1 ∧ r.rows = (0 : BitVec 4).toNat + 1 ∧ tileOk (me t) ((me t).win 10) ∧
    (me t).fmtOf ((me t).win 10) = .raw ∧ fresh (anew s) ∧ c.fmtOf (c.win 10) = .raw ∧ (0 : BitVec 24) = 0 := by decide +kernel

/-- A message with another stamp than the one expected, one of another shape, and one in the outbox of a core of the gang. -/
theorem witness_MessagesReceived_traps :
    let m : Msg := ⟨1, 0, false, 0, 0, 0, List.replicate 64 7, 1, none, 0, 0, 0, 0, none, []⟩
    let s := withMessage m (linked (paged copies))
    let t := withMessage { m with payload := [] } (linked (paged copies))
    let u := mapCore (mapGroup s 1 1 (fun g => { g with cores := [1] })) 1 (fun c => { c with outbox := [m] })
    channelHead s 2 1 = some m ∧ comesToIssue s = true ∧ mayMessage s 2 1 ∧ (((me s).lcc.toInt - (2 : BitVec 24).toNat) % 2 ^ 40).toNat = 2 ^ 40 - 1 ∧
    channelHead t 2 1 = some { m with payload := [] } ∧ comesToIssue t = true ∧ mayMessage t 2 1 ∧
    ((me t).win 1).rows * ((me t).win 1).len ≠ 0 ∧
    channelHead u 16 1 = some m ∧ comesToIssue u = true ∧ mayMessage u 16 1 ∧ (me u).sbAt (.tile 1) = none ∧
    (me u).kernel = some 1 ∧ gangCore u 1 1 = some 1 := by decide +kernel

/-- The first and the final command of a chain; LFENCE with no failed chain, a refused one and a bad one. -/
theorem witness_ChainedCopies :
    let s := linked (paged (fun c => { copies c with x := [(10, 0x80000000)] }))
    let a := mapMe s (fun c => { c with stall := c.stall.map (fun t => { t with staged := true }) })
    let b := mapMe s (fun c => { c with chain := some ⟨2, 0xFFFFFFFF, 65536, 4⟩ })
    let r : ChainRec := ⟨2, 1, 2, some .refused, 3⟩
    let f := mapMe s (fun c => { c with chains := [r] })
    let c := me s
    let v := c.shape 12 false
    let pg : Page := ⟨0x80000000, 30, 0x20000000073, 0⟩
    tileOk c (c.win 1) ∧ 1 ≤ dim v 0 ∧ dim v 0 ≤ (c.win 1).len ∧ 1 ≤ dim v 1 ∧ dim v 1 ≤ (c.win 1).rows ∧ dim v 2 = 0 ∧
    dim v 3 = 0 ∧ insidePhase s = false ∧ c.tl = 0 ∧ (me a).chain = none ∧ dim v 0 * dim v 1 ≤ 8192 ∧
    (me b).chain = some ⟨2, 0xFFFFFFFF, 65536, 4⟩ ∧ 4 + dim v 0 * dim v 1 ≤ 65536 ∧ (me a).stall.map Stall.staged = some true ∧
    (∀ s ∈ [a, b], comesToIssue s = true ∧ portReason s 2 = 0 ∧ (me s).sbAt (.tile 1) = none ∧ skidUsed s 2 + 1 ≤ 64 ∧
      hasWalked s = true ∧ gateClosed s = false ∧ ((me s).rx 10).toNat = 0x80000000 ∧
      (xlate s (ctxNo s (me s)) 0x80000000 .write).toOption = some pg) ∧ leafTT pg.leaf.toNat = 4 ∧
    (pg.leaf.extractLsb' 40 4).toNat = 2 ∧ fresh (anew b) ∧ (me (anew b)).chain ≠ none ∧ portReason (unlinkable (paged copies)) 2 = 3 ∧
    (15 : BitVec 5).toNat < 16 ∧ 16 ≤ (16 : BitVec 5).toNat ∧ s.reqs = [] ∧ (∀ l ∈ s.links, ∀ m ∈ l.2.tx, m.sender ≠ some s.cur) ∧
    (∀ r ∈ (me s).chains, r.verdict.isSome = true) ∧ (∀ r ∈ (me s).chains, r.failed = false) ∧
    comesToIssue f = true ∧ (∀ r ∈ (me f).chains, r.verdict.isSome = true) ∧
    (me f).chains.find? ChainRec.failed = some r := by decide +kernel

/-! ### Events -/

/-- The due result is the earliest, and of two of one cycle the first issued. -/
theorem witness_ResultsLand :
    let f : Flight := ⟨-1, false, .x 3 7⟩
    let before : List Flight := [⟨0, false, .x 1 1⟩]
    let after : List Flight := [⟨-1, false, .x 3 8⟩]
    let s := with_ (fun c => { c with pipe := before ++ f :: after })
    (coreAt s 0).life = .running ∧ (coreAt s 0).pipe = before ++ f :: after ∧ f.rem ≤ 0 ∧ (∀ g ∈ before, f.rem < g.rem) ∧
    (∀ g ∈ after, f.rem ≤ g.rem) ∧ (coreAt s 0).sp.wf = true := by decide +kernel

/-- An operation and a transfer of every sort, each at the head or the only one. -/
theorem witness_EnginesFinish :
    let m : MatOp := { (default : MatOp) with op := 0, reads := [.tile 1], writes := [.acc 2] }
    let b : MatOp := { m with bad := some 0x40 }
    let x : Xfer := { (default : Xfer) with id := 9, kind := 0x01, reads := [.tile 1], readDone := true }
    let y : Xfer := { (default : Xfer) with id := 9, kind := 0x20, writes := [.tile 1], readDone := true }
    let s (f : Core → Core) : Core := coreAt (with_ f) 0
    (s (fun c => { c with mops := [m] })).mops = [m] ∧ m.stepped = true ∧ m.readDone = false ∧ m.bad = none ∧
    (s (fun c => { c with mops := [b] })).mops = [b] ∧ b.bad = some 0x40 ∧ b.ph = false ∧
    (s (fun c => { c with xfers := [{ x with readDone := false }] })).xfers = [] ++ { x with readDone := false } :: [] ∧
    x.id = 9 ∧ x.kind ≠ 0x0D ∧
    (s (fun c => { c with xfers := [x] })).finished? 9 = some x ∧ x.kind < 0x20 ∧
    (s (fun c => { c with xfers := [y] })).finished? 9 = some y ∧ y.kind = 0x20 ∧
    (s (fun c => { c with ovls := [⟨0, 5, [(1024, 9)]⟩] })).ovls.find? (fun o => o.lines.any (fun l => l.1 == 1024)) =
      some ⟨0, 5, [(1024, 9)]⟩ ∧ (s (fun c => { c with xfers := [{ y with kind := 0x22 }] })).finished? 9 = some { y with kind := 0x22 } ∧
    (s (fun c => { c with inject := [true] })).inject = [true] ∧
    (s (fun c => { c with kchks := [⟨false, true⟩] })).kchks = [⟨false, true⟩] ∧ (s id).suspect = false := by decide +kernel

theorem witness_CoreEvents :
    let s := with_ (fun c => { c with
      stall := some { freshStall with go := true, clk := 6, walks := [0x40], skid := some ⟨2, 1, true⟩ } })
    let b := with_ (fun c => { c with pend := [.mchk 1 0x40 none] })
    let at_ : State := { s with cur := 0 }
    let x : Xfer := { (default : Xfer) with id := 9, tag := some 3, promise := true, due := some 0, writes := [.tile 1] }
    let p := inKernel (fun k => { k with lr := { k.lr with slack := 5 } })
      (with_ (fun c => { c with stall := some { freshStall with clk := 6, waits := [.tile 1] }, lcc := 1, xfers := [x] }))
    let h := mapMe (atLevel 1) (fun c => { c with budg := 65537 })
    let e := with_ (fun c => { c with life := .ended })
    let k := setCore e 0 { coreAt e 0 with kernel := none }
    let c := coreAt s 0
    c.life = .running ∧ c.stall.isSome = true ∧ c.nextDue = none ∧ c.firstPend = none ∧ frozen s 0 = false ∧
    stillHeld at_ = false ∧ (c.stall.map (fun t => t.skid.map SkidWait.stage)) = some (some true) ∧
    (coreAt s 0).spent = false ∧ (c.stall.map Stall.walked) = some false ∧ (c.stall.map Stall.walks) ≠ some [] ∧
    (coreAt p 0).promised.isSome = true ∧ trapBoundary p 0 = true ∧ (coreAt p 0).firstPend = none ∧ (coreAt p 0).tl < 2 ∧
    (kernelOf p (coreAt p 0)).lr.slack ≠ 0 ∧ (kernelOf p (coreAt p 0)).lr.slack < 6 ∧
    (coreAt b 0).firstPend = some (.mchk 1 0x40 none) ∧ trapBoundary b 0 = true ∧
    (coreAt h 0).life = .running ∧ (coreAt h 0).tl ≠ 0 ∧ 65536 < (coreAt h 0).budg ∧
    (coreAt e 0).life = .ended ∧ quiet e 0 = true ∧ groupNo? e 0 = some (1, 0) ∧ (kernelAt e 1).lr.nest = false ∧
    mayRetire e 0 1 0 = true ∧ groupNo? k 0 = none ∧ quiet k 0 = true ∧ (∀ p ∈ State.reset.ctxs, p.2.live = false) := by
  decide +kernel

/-- A walk of four entries whose reads have yet to be sent, and one whose reads have been served. -/
theorem witness_CoreEvents_walks :
    let w (l : List (Nat × Nat)) := mapMe (paged id) (fun c => { c with stall := some { freshStall with walks := [0x40], reads := l } })
    let t (l : List (Nat × Nat)) := ((coreAt (w l) 0).stall).getD freshStall
    let es := stallEntries (w []) (ctxNo (w []) (me (w []))) (t [])
    let sent := es.map (fun e => (e.1, 5))
    es.length = 4 ∧ (t []).walked = false ∧ (t []).walks ≠ [] ∧ (∃ e ∈ es, e.1 ∉ (t []).reads.map Prod.fst) ∧
    (t sent).walked = false ∧ (∀ e ∈ es, e.1 ∈ (t sent).reads.map Prod.fst) ∧ (w sent).reqs = [] := by decide +kernel

/-- A core of a nest group that has ended: its walker holds work, it does not and the core is the last, and another core runs. -/
theorem witness_CoreEvents_nest :
    let e (lo : Nat) (cores : List Nat) : State := inGroup (fun g => { g with cores := cores, item := some 3 })
      (inKernel (fun k => { k with walkers := [⟨0, lo, 5, []⟩] }) (nest (with_ (fun c => { c with life := .ended }))))
    let work (s : State) : Option Bool := ((kernelAt s 1).walkerOf (groupAt s 1 0).bay).map Walker.hasWork
    (∀ l ∈ [e 4 [0], e 5 [0], e 5 [0, 1]], (coreAt l 0).life = .ended ∧ quiet l 0 = true ∧ groupNo? l 0 = some (1, 0) ∧
      (kernelAt l 1).lr.nest = true ∧ mayRetire l 0 1 0 = true) ∧ work (e 4 [0]) = some true ∧ work (e 5 [0]) = some false ∧
    0 < (kernelAt (e 4 [0]) 1).groups.length ∧ (groupAt (e 4 [0]) 1 0).committed = false ∧
    (∀ m ∈ (groupAt (e 5 [0]) 1 0).cores, m ≠ 0 → (coreAt (e 5 [0]) m).life = .retired) ∧
    1 ∈ (groupAt (e 5 [0, 1]) 1 0).cores ∧ (coreAt (e 5 [0, 1]) 1).life ≠ .retired := by decide +kernel

/-- Core 0 with an instruction alone in the bundle that it fetches, waiting at a rendezvous. -/
def atRendezvous (i : Instr) (r : Rdv) (s : State) : State :=
  mapMe s (fun c => { c with
    bundle := c.bundle.writeN c.bpc (encodeAlone i)
    stall := some { freshStall with rdv := some r, early := r == .wnext, walked := true } })

/-- Every rendezvous reached by the only core of a group, its bundle ready. -/
theorem witness_GroupEvents_rendezvous :
    let go (s : State) (r : Rdv) : Bool := allAt s r (groupAt s 1 0).cores && (groupAt s 1 0).steady && (groupAt s 1 0).st == .running
    let ready (s : State) (r : Rdv) : Bool := go s r && allReady s r (groupAt s 1 0).cores && decide ((groupAt s 1 0).cores.Nodup) &&
      (groupAt s 1 0).cores.all (fun n => (aloneAt (coreAt s n)).isSome)
    let o := atRendezvous (.phopen 12 false 0 true 2) .phopen (regs [(12, 0xF3000)])
    let a := atRendezvous .lalign .lalign run
    (kernelAt run 1).st = .running ∧ halting run (kernelAt run 1) = false ∧ ready o .phopen = true ∧
    aloneAt (coreAt o 0) = some (.phopen 12 false 0 true 2) ∧
    ready (inPhase .open_ (atRendezvous .phseal .phseal run)) .phseal = true ∧
    go (inPhase .sealed (atRendezvous .phpub .phpub run)) .phpub = true ∧ (groupAt (inPhase .sealed run) 1 0).ph.inside = true ∧
    go (atRendezvous (.wnext 1) .wnext run) .wnext = true ∧ turnOf (kernelAt run 1) (groupAt run 1 0) = true ∧
    ready a .lalign = true ∧ (kernelAt a 1).groups.map (fun p => p.2.cores) = [(groupAt a 1 0).cores] ∧
    aloneAt (coreAt a 0) = some .lalign := by decide +kernel

/-- A walker with an item, and one that may take half a range. -/
theorem witness_GroupEvents_walkers :
    let d := inKernel (fun k => { k with walkers := [⟨0, 4, 5, []⟩, ⟨1, 0, 0, []⟩] }) (inGroup (fun g => { g with st := .waiting }) run)
    let w := inKernel (fun k => { k with walkers := [⟨0, 0, 0, []⟩, ⟨1, 2, 4, []⟩] }) (inGroup (fun g => { g with st := .waiting }) run)
    let v : Walker := ⟨1, 2, 4, []⟩
    (kernelAt d 1).walkerOf 0 = some ⟨0, 4, 5, []⟩ ∧ (⟨0, 4, 5, []⟩ : Walker).next = some 4 ∧
    (groupAt d 1 0).st = .waiting ∧ (groupAt d 1 0).bay = 0 ∧ waitsFirst (kernelAt d 1) 0 0 (groupAt d 1 0) = true ∧
    (kernelAt d 1).level ≠ 2 ∧ (groupAt d 1 0).cores.Nodup ∧
    ((kernelAt w 1).walkerOf 0).map Walker.hasWork = some false ∧ v ∈ (kernelAt w 1).walkers ∧ v.bay ≠ 0 ∧ 2 ≤ v.left ∧
    (∀ u ∈ (kernelAt w 1).walkers, u.left < v.left ∨ u = v ∨ (u.left = v.left ∧ v.bay < u.bay)) ∧
    (kernelAt w 1).groups.any (fun p => p.2.st == .waiting && p.2.bay == 0) = true := by decide +kernel

/-- A kernel loading an image whose header has yet to be asked for, or cannot be read; running, finishing, pre-empted. -/
theorem witness_KernelEvents :
    let w := inKernel (fun k => { k with st := .loading }) run
    let l := { w with fetches := [⟨.image 1, 0, 0, 128, [], [], some 0⟩] }
    let p := inKernel (fun k => { k with preempt := true }) run
    let r := inKernel (fun k => { k with st := .preempted, bays := [] }) (mapCtx run 0 (fun x => { x with grant := 1 }))
    let f := inGroup (fun g => { g with st := .retired }) run
    let z := inKernel (fun k => { k with st := .finishing }) f
    let y : Req := { (default : Req) with src := .core 0, op := .write [some 1] [], st := .plane none, kn := some 1 }
    (kernelAt w 1).st = .loading ∧ fetchesIn w (.image 1) 0 (imageReads w 1) = false ∧
    (kernelAt l 1).st = .loading ∧ (kernelAt l 1).ctx = 0 ∧ fetchesIn l (.image 1) 0 (imageReads l 1) = true ∧ loadImage l 1 = none ∧
    (kernelAt f 1).st = .running ∧ (∀ q ∈ (kernelAt f 1).groups, q.2.st = .retired) ∧ (kernelAt f 1).lr.nest = false ∧
    (kernelAt z 1).st = .finishing ∧ z.reqs = [] ∧ restIdle z 1 = true ∧ y.waiting = true ∧ y.op.onlyReads = false ∧ y.kn = some 1 ∧
    restIdle (mapMe (inGroup (fun g => { g with cores := [] }) z) (fun c => { c with inject := [false] })) 1 = false ∧
    (kernelAt p 1).preempt = true ∧ mayPreempt p 1 = true ∧ (kernelAt p 1).lr.nest = false ∧ canForm p 1 < 1 ∧
    (let q := mapCtx p 0 (fun x => { x with grant := 1 })
     mayPreempt q 1 = true ∧ (kernelAt q 1).lr.gang ≤ canForm q 1) ∧
    (let q := inKernel (fun k => { k with lr := { k.lr with gang := 1 } }) p
     mayPreempt q 1 = true ∧ canForm q 1 < (kernelAt q 1).lr.gang) ∧ (∀ q ∈ (kernelAt p 1).liveGroups, q.2.ph = .closed) ∧
    mayResume r (kernelAt r 1) [0] = true := by decide +kernel

/-- Stretches of context 0 that have been read, by address and bytes. -/
def reading (own : FetchFor) (l : List (Nat × List Byte)) (s : State) : State :=
  { s with fetches := s.fetches ++ l.map (fun r => ⟨own, 0, r.1, r.2.length, [], [⟨0, .bytes 0, r.2, false⟩], none⟩) }

/-- An image whose header, and all else, is zero: no section has a byte, the preset table ends at once and the handles follow it. -/
theorem witness_KernelEvents_image :
    let zero (n : Nat) : List Byte := fields n []
    let l := reading (.image 1) [(0, zero 128), (0, zero 0), (0, zero 16), (128, zero 8192)]
      (inKernel (fun k => { k with st := .loading }) (paged id))
    (loadImage l 1).isSome = true ∧ fetchesIn l (.image 1) 0 (imageReads l 1) = true := by decide +kernel

/-- A store to DRAM that group 0 of kernel 1 holds. -/
def heldStore : Req := { (default : Req) with
  id := 9, src := .core 0, place := ⟨.stack 0, 0x40, 0⟩, va := 0x40, op := .write [some 1] [], st := .held, ph := some (1, 0), lg := 16 }

/-- A drained phase, a home with a held store that may and one that may not take it, a decided commit and a cancellation. -/
theorem witness_PhaseEvents :
    let r : Req := heldStore
    let home := r.place.home.code
    let s (st : PhStep) : State := inGroup (fun g => { g with ph := .prepare, step := st }) { run with reqs := [r] }
    let t : State := { s (.voting []) with retired := [(0, 16)] }
    let c := atRendezvous .phpub .phpub { s .committing with reqs := [{ r with st := .applied }] }
    let k := mapMe (s (.cancel true none)) (fun c => { c with snap := some ⟨[(1, 7)], 1, [], 5, 2, 8, [], 0, []⟩ })
    (groupAt (s .none) 1 0).ph = .prepare ∧ (groupAt (s .none) 1 0).steady = true ∧ pubDrained (s .none) 1 0 = true ∧
    commitOrder (s (.voting [])) (heldAt (s (.voting [])) 1 0 home) = [r] ∧ home ∉ ([] : List Nat) ∧
    wayOpen (s (.voting [])) r = true ∧ phaseReqs (s .none) 1 0 = [r] ∧ (kernelAt (s .none) 1).st = .running ∧
    halting (s .none) (kernelAt (s .none) 1) = false ∧ isFar r.place = false ∧ ringRoom (s .committing) r = true ∧
    (∀ p ∈ (s .committing).partials, sameL p.place r.place = false) ∧ commitWith (s .committing) 1 0 home = [home] ∧ (∀ q ∈ (s .committing).reqs, partFor r.place q = false) ∧
    homeFault (s (.voting [])) (.ok []) r = none ∧
    homeFault t (.ok []) r = some 1 ∧ r.src = .core 0 ∧ awayHome (s .committing) r.ctx r.place = false ∧
    (∀ q ∈ c.reqs, q.ph = some (1, 0) → q.st = .applied) ∧ (∀ q ∈ c.reqs, q.op ≠ .token 1 0 true) ∧ c.rehash = false ∧ (groupAt c 1 0).cores.Nodup ∧
    (∀ n ∈ (groupAt c 1 0).cores, aloneAt (coreAt c n) = some .phpub ∧ fetchHeld (coreAt c n) = false ∧
      (coreAt c n).life = .running ∧ (coreAt c n).stall.isSome = true ∧ ((coreAt c n).stall.map Stall.early) = some false ∧
      (coreAt c n).tl = 0) ∧ (groupAt k 1 0).step = .cancel true none ∧
    (∀ n ∈ (groupAt k 1 0).cores, (coreAt k n).tl = 0 ∧ (coreAt k n).idleEngines = true ∧ (coreAt k n).opening = false) ∧
    badSnaps k (groupAt k 1 0).cores = [] ∧ (groupAt k 1 0).canc < 2 := by decide +kernel

/-- The eight tokens of a home that has a held store, come to it: of the prepare, the last acknowledged; of the commit, alone and with
those of another home on their way. -/
theorem witness_PhaseEvents_tokens :
    let r : Req := heldStore
    let tok (commit : Bool) (b : Nat) : Req := { r with id := 20 + b, place := ⟨.stack 0, 64 * b, 0⟩, op := .token 1 0 commit, ph := none }
    let s (st : PhStep) (l : List Req) : State :=
      inGroup (fun g => { g with ph := .prepare, step := st }) { run with planes := [], reqs := r :: l }
    let v := s (.voting []) ((upto 8).map (tok false))
    let a := s (.voting [0]) [{ tok false 0 with st := .applied }]
    let c := s .committing ((upto 8).map (tok true))
    let far := { tok true 9 with place := ⟨.stack 1, 0, 0⟩, st := .plane (some 0) }
    let d := s .committing ((upto 8).map (tok true) ++ [far])
    let after (s : State) : State :=
      ((commitOrder s (heldAt s 1 0 0)).filter (fun r => !r.isAct)).foldl applyHeld (answerTokens s (tokensFor s 1 0 true 0))
    tokensIn v (tokensFor v 1 0 false 0) = true ∧ (groupAt v 1 0).step = .voting [] ∧ commitOrder v (heldAt v 1 0 0) = [r] ∧
    reqOf a 20 = some { tok false 0 with st := .applied } ∧ (∀ q ∈ phaseReqs a 1 0, q.st = .held → q.place.home.code ∈ [0]) ∧
    (∀ q ∈ a.reqs, q.id ≠ 20 → q.op ≠ .token 1 0 false) ∧
    tokensIn c (tokensFor c 1 0 true 0) = true ∧ wayOpen c r = true ∧ awayHome c r.ctx r.place = false ∧
    (∀ q ∈ (after c).reqs, q.op = .token 1 0 true → q.waiting = false ∧ q.st ≠ .held) ∧
    tokensIn d (tokensFor d 1 0 true 0) = true ∧ (∃ q ∈ (after d).reqs, q.op = .token 1 0 true ∧ q.waiting = true) ∧
    (∀ q ∈ (s .none []).reqs, q.op ≠ .token 1 0 false) := by decide +kernel

/-- The ENQ of a phase at one home and its QSIG at another, which are applied in one step: with the tokens of both, and without any. -/
theorem witness_PhaseEvents_acts :
    let q : Req := { heldStore with id := 10, place := ⟨.stack 1, 2 ^ 36, 0⟩, op := .red 0 1 5 }
    let e : Req := { heldStore with op := .enq 0 (List.replicate 64 1) }
    let tok (home : Nat) (b : Nat) : Req := { heldStore with id := 20 + 8 * home + b, place := ⟨.stack home, 64 * b, 0⟩, op := .token 1 0 true, ph := none }
    let s (l : List Req) : State := inGroup (fun g => { g with ph := .prepare, step := .committing })
      { run with planes := [], reqs := [e, q] ++ l }
    let t := s ((upto 8).map (tok 0) ++ (upto 8).map (tok 1))
    q.isAct = true ∧ e.isAct = true ∧ commitWith t 1 0 0 = [0, 1] ∧ commitWith t 1 0 1 = [0, 1] ∧ commitWith t 1 0 2 = [2] ∧
    (commitWith (s []) 1 0 0).flatMap (tokensFor (s []) 1 0 true) = [] ∧ (groupAt t 1 0).step = .committing ∧
    (∀ h ∈ [0, 1], tokensIn t (tokensFor t 1 0 true h) = true) ∧
    (commitOrder t ((phaseReqs t 1 0).filter (fun r => r.st == .held && [0, 1].contains r.place.home.code))).length = 2 := by decide +kernel

/-! ### Boot, contexts and queues -/

/-- Every stage of the boot; over and under the envelope; a claimed and a free port; an enabled and a reserved profile. -/
theorem witness_BootPowerAndRegisters :
    let s := State.reset
    let c := mapCtx { s with apbase := 0 } 5 (fun x => { x with st := .idle, portMask := 4 })
    s.boot = .reset ∧ ({ s with boot := .selftest } : State).boot = .selftest ∧ (3 : Nat) < 8 ∧ 3 ∉ [0, 1] ∧ (4000 : Nat) ≤ 4000 ∧
    (4000 : Nat) < 4001 ∧ mayLower s 1023 = true ∧ mayLower s 1024 = false ∧ 10 ≤ ({ s with overMs := 10 } : State).overMs ∧ s.pgate = false ∧
    ({ s with pgate := true, watts := 3799 } : State).watts < 3800 ∧ (1 : W64).getLsbD 0 = true ∧ s.attbusy = false ∧
    s.boot ≠ .ready ∧ (linkAt c 2).claim = none ∧ (ctxAt c 5).portMask.getLsbD 2 = true ∧
    fld (2 ^ 36) 39 30 * 2 ^ 30 % 2 ^ s.bar2log = 0 ∧ fld (2 ^ 30) 39 30 * 2 ^ 30 % 2 ^ s.bar2log ≠ 0 ∧
    (0x082081000 : Nat) % 2 ^ 13 = 2 ^ (7 + 5) ∧ (0x082080080 : Nat) % 2 ^ 13 = 2 ^ (7 + 0) ∧
    s.ctxs.any (fun p => p.2.live && p.2.profMask.getLsbD 7) = false ∧
    c.ctxs.any (fun p => p.2.live) = true ∧ s.ctxs.any (fun p => p.2.live) = false := by decide +kernel

/-- Host memory with a descriptor at 0x100000 and its queue table of one entry at 0x200000 (R114, R124). -/
def hostWith (root : Nat) : Memory :=
  let d := [(0, 8, root), (8, 8, 1), (0x14, 1, 1), (0x16, 2, 1), (0x18, 8, 0x200000), (0x28, 4, 64), (0x2C, 4, 64)]
  let e := [(0, 8, 0x4000), (8, 1, 4), (10, 1, 1), (11, 1, 3), (0x10, 8, 0x8000), (0x18, 1, 4)]
  let m : Memory := []
  (m.writeN 0x100000 (fields 256 d)).writeN 0x200000 (fields 64 e)

/-- A descriptor that is good, one with a root that is not aligned; contexts in every state; a doorbell within and beyond its
window, at the largest queue number's offset; a queue OFF, enabled and reset. -/
theorem witness_ContextsAndDoorbells :
    let s (root : Nat) : State := { State.reset with hostMem := hostWith root, ctxdesc := 0x100000 }
    let d (root : Nat) := (s root).hostMem.readN (s root).ctxdesc.toNat 256
    let table (root : Nat) := (List.range (min (at_ (d root) 0x16 2) 1024)).map
      (fun i => (s root).hostMem.readN (at_ (d root) 0x18 8 + 64 * i) 64)
    let q : Queue := { (default : Queue) with lg := 4, st := .idle, qtail := 2 ^ 48 - 1, qcons := 2 ^ 48 - 1 }
    let c (st : CState) : State := mapCtx { paged id with boot := .ready, listed := true, kernels := [] } 0
      (fun x => { x with st := st, queues := [q, { q with st := .off }] })
    (s 0).ctxpend = none ∧ (ctxAt (s 0) 0).st = .free ∧ lowest (descBad (d 0) (table 0)) = none ∧ (table 0).length = 1 ∧
    lowest (descBad (d 4) (table 4)) = some (0, 2) ∧ (c .idle).ctxpend = none ∧
    (xlate (c .idle) 0 ((ctxAt (c .idle) 0).saveBase + saveBytes (ctxAt (c .idle) 0) - 1) .write).toOption.isSome = true ∧
    (∀ p ∈ (c .idle).kernels, p.2.ctx = 0 → p.2.st.holds = false) ∧ (ctxAt (c .active) 0).live = true ∧
    (ctxAt (c .suspended) 0).st = .suspended ∧ (ctxAt (c .killed) 0).live = false ∧
    (c .idle).listed = true ∧ launchComing { c .idle with ctxpend := some 0 } 0 = false ∧
    ({ c .idle with ctxpend := some 0 } : State).savePos < saveChunks { c .idle with ctxpend := some 0 } 0 ∧
    saveChunks { c .idle with ctxpend := some 0, savePos := 1 } 0 ≤ 1 ∧
    (xlate (mapCtx (c .idle) 0 (fun x => { x with saveBase := 2 ^ 57 })) 0 (2 ^ 57 + 65535) .write).toOption.isNone = true ∧ (ctxAt (c .idle) 0).queues[0]? = some q ∧ q.device = false ∧
    (q.qcons + 2 ^ q.lg + 2 ^ 48 - q.qtail) % 2 ^ 48 = 16 ∧ (0xF + 2 ^ 32 - q.qtail % 2 ^ 32) % 2 ^ 32 = 16 ∧
    selCtx (c .idle) = 0 ∧ (ctxAt (c .idle) 0).queues[selQueue { c .idle with qsel := 0x1000 }]? = some { q with st := .off } ∧
    (0x10 + 2 ^ 32 - q.qtail % 2 ^ 32) % 2 ^ 32 = 17 := by decide +kernel

/-- The walk of a save area's last byte begun, under way and served, for an address that is mapped and one that is not. -/
theorem witness_ContextsAndDoorbells_probe :
    let s : State := { paged id with ctxpend := some 0 }
    let u (a : Nat) : State := startWalk (.probe 0) 0 a .write s
    let served_ (a : Nat) : State := { u a with reqs := [] }
    (∀ a ∈ [0x5000, 2 ^ 57], (u a).ctxpend = some 0 ∧ (probeOf (u a) 0).map (fun f => allServed (u a) f.ids) = some false ∧
      (probeOf (served_ a) 0).map (fun f => allServed (served_ a) f.ids) = some true) ∧
    (probeOf (u 0x5000) 0).map Fetch.fault = some none ∧ (probeOf (u (2 ^ 57)) 0).map Fetch.fault = some (some (2 ^ 57)) ∧
    (∃ p ∈ s.kernels, p.2.ctx = 0 ∧ p.2.st = .running) := by decide +kernel

/-- Context 0 with a queue that has consumed a packet of a kind. -/
def withPacket (kind : Nat) (body : List (Nat × Nat × Nat)) : State :=
  let p : Packet := { (default : Packet) with seq := 0, kind := kind, body := fields 64 body }
  mapCtx (paged id) 0 (fun x => { x with
    grant := 0xF, stackMask := 0xFFFF, queues := [{ (default : Queue) with lg := 4, clg := 4, cring := 0x8000, packets := [p] }] })

/-- Its packet and the state in which that has begun. -/
def packetOf (s : State) : Packet := ((queueAt s 0 0).packets).headD default

theorem witness_Packets_begun :
    let far := [(8, 8, 2 ^ 57)]
    let w (l : List (Nat × Nat × Nat)) : State :=
      (sendWalks (.queue 0 0) 0 (some 0) (at_ (fields 64 l) 8 8) 8 (begin_ (withPacket 3 l) 0 0 0)).1
    (upto 8).all (fun k => (nextPacket (withPacket k []) 0 0 k).isSome) = true ∧ (packetOf (withPacket 3 [])).id = 0 ∧
    hostWriting (withPacket 3 []) = false ∧ (xlate (w []) 0 0 .write).toOption.isSome = true ∧
    (xlate (w far) 0 (2 ^ 57) .write).toOption.isNone = true := by decide +kernel

/-- A COPY of 64 bytes, to and from addresses that are mapped and that are not, one whose reads have been served, and a QUERY of the
queues, to an address that is mapped and one that is not. -/
theorem witness_Packets_bytes :
    let s (a b : Nat) : State := withPacket 2 [(8, 8, a), (0x10, 8, b), (0x18, 8, 64)]
    let walk (va n : Nat) (t : State) : State := (sendWalks (.queue 0 0) 0 (some 0) va n t).1
    let u (a b : Nat) : State := walk b 64 (walk a 64 (begin_ (s a b) 0 0 0))
    let bad := 2 ^ 57
    let r := begin_ (s 0x100 0x2000) 0 0 0
    let q (a : Nat) := withPacket 7 [(8, 8, 1), (0x10, 8, a)]
    let v (a : Nat) := walk a 16 (begin_ (q a) 0 0 0)
    copyRead (s 0x100 0x2000) 0 0 = none ∧ at_ (packetOf (s 0x100 0x2000)).body 0x18 8 = 64 ∧
    accessFault (u 0x100 0x2000) 0 0x100 64 .read = none ∧ accessFault (u 0x100 0x2000) 0 0x2000 64 .write = none ∧
    accessFault (u bad 0x2000) 0 bad 64 .read = some bad ∧ accessFault (u bad 0x2000) 0 0x2000 64 .write = none ∧
    accessFault (u 0x100 bad) 0 0x100 64 .read = none ∧ accessFault (u 0x100 bad) 0 bad 64 .write = some bad ∧
    accessFault (u bad (bad + 64)) 0 bad 64 .read = some bad ∧ accessFault (u bad (bad + 64)) 0 (bad + 64) 64 .write = some (bad + 64) ∧
    (copyRead r 0 0).map Packet.id = some 0 ∧ (queryBytes (ctxAt (q 0x2000) 0) 1).length = 16 ∧
    accessFault (v 0x2000) 0 0x2000 16 .write = none ∧ accessFault (v bad) 0 bad 16 .write = some bad := by decide +kernel

/-- A packet whose request is on its way, and whose last one has been served. -/
theorem witness_Packets_sent :
    let s := withPacket 3 []
    let r : Req := { (default : Req) with id := 9, src := .queue 0 0, xfer := some 0, st := .plane (some 0) }
    let e := mapPacket s 0 0 0 (fun k => { k with ends := some (0, 0, 0) })
    ({ s with reqs := [r] } : State).reqs.any (Req.ofPacket 0 0 0) = true ∧ (packetOf e).ends = some (0, 0, 0) ∧
    (queueAt e 0 0).packets.find? (fun k => k.id == (packetOf e).id) = some (packetOf e) := by decide +kernel

/-- A LAUNCH of a timed kernel of one core whose record stands at VA 0x1000 and whose image's header at 0x2000 is all zero. -/
theorem witness_Packets_launch :
    let body := [(6, 1, 1), (8, 8, 0x1000), (0x18, 2, 1), (0x1A, 2, 1)]
    let d := fields 256 [(0, 8, 0x2000), (0x1E, 2, 1)]
    let s := reading (.head 0 0) [(0x1000, d), (0x2000, fields 128 []), (0x2000, fields 16 [])] (withPacket 1 body)
    let p : Packet := { packetOf s with body := fields 64 body ++ d }
    (match readLaunch s (.head 0 0) 0 0x1000 1 with | .good r => r == recOf d | _ => false) = true ∧ neverFits s 0 1 1 (recOf d) = false ∧
    p.record = some (recOf d) ∧ fetchBytes s (.head 0 0) 0 0x1000 256 = some d ∧ (nextPacket s 0 0 1).isSome = true ∧
    fetchesIn s (.head 0 0) 0 (launchReads s (.head 0 0) 0 0x1000) = true ∧ (bayChoice s 0 1 1 false (recOf d)).isSome = true := by
  decide +kernel

/-- A good descriptor of a checkpoint over an UP stack link, and one with no link; a checkpoint with every kernel still, and one whose
context has been killed. -/
theorem witness_Packets_checkpoint :
    let s := mapLink (withPacket 6 []) 16 (fun l => { l with st := .up })
    let c : Ckpt := ⟨0, 0, 0, 1, 1, [], [], false⟩
    let u : State := { mapMe s (fun c => { c with stall := none }) with ckpt := some c, kernels := [] }
    least (ckptBad s (ctxAt s 0) (fields 256 [(0, 2, 1), (2, 1, 7)])) = none ∧
    least (ckptBad s (ctxAt s 0) (fields 256 [(2, 1, 7)])) = some 0 ∧ (nextPacket s 0 0 6).isSome = true ∧
    u.ckpt = some c ∧ c.dead = false ∧ allStill u = true ∧ slicesFlow u c = true ∧ c.links.getLsbD 0 = true ∧
    ({ c with dead := true } : Ckpt).dead = true := by decide +kernel

/-- A queue of context 0 in a state, its head packet read. -/
def withHead (st : QState) (packet : List Byte) (more : List (Nat × List Byte)) : State :=
  let q : Queue := { (default : Queue) with ring := 0x4000, lg := 4, clg := 4, cring := 0x8000, qtail := 2, weight := 1, st := st }
  let s := mapCtx (anew (paged id)) 0 (fun x => { x with queues := [q] })
  if packet.isEmpty then s else reading (.head 0 0) ((0x4000, packet) :: more) s

/-- A head packet that has yet to be read, one that cannot be read and one that can be read again, in a READY and in a BLOCKED queue; a
NOP, good and with a wrong sequence number; with the B flag, which waits. -/
theorem witness_Packets_head :
    let nop := fields 64 []
    let failed (st : QState) : State := { withHead st [] [] with fetches := [⟨.head 0 0, 0, 0x4000, 64, [], [], some 0x4000⟩] }
    let bad (st : QState) : State := let s := failed st; { s with hbmPoison := [0x40004000 / 64] }
    let u (s : State) : Queue := queueAt s 0 0
    let chosen (s : State) : Prop := (schedule s).map (fun t => (t.1, t.2.1)) = some (0, 0)
    let waits := fields 64 [(7, 1, 1)]
    (∀ s ∈ [withHead .blocked [] [], withHead .blocked nop [], bad .blocked, failed .blocked], unbegun s = false ∧ hostWriting s = false ∧
      (u s).st = .blocked ∧ (served s).any (fun t => t.1 == 0 && t.2.1 == 0) = true) ∧
    headRead (withHead .blocked [] []) 0 0 = false ∧ headRead (withHead .blocked nop []) 0 0 = true ∧
    slotAgain (withHead .blocked nop []) 0 0 = false ∧ slotAgain (failed .blocked) 0 0 = true ∧ slotAgain (bad .blocked) 0 0 = false ∧
    clears (withHead .blocked nop []) 0 0 (u (withHead .blocked nop [])) = true ∧ clears (bad .blocked) 0 0 (u (bad .blocked)) = false ∧
    (∀ s ∈ [withHead .ready [] [], withHead .ready nop [], withHead .ready (fields 64 [(0, 6, 7)]) [], withHead .ready waits []],
      unbegun s = false ∧ hostWriting s = false ∧ (u s).st = .ready ∧ chosen s ∧ ringFull s (u s) = false) ∧
    headRead (withHead .ready [] []) 0 0 = false ∧ headPacket (withHead .ready nop []) 0 0 = some nop ∧
    malformed (withHead .ready nop []) 0 0 (u (withHead .ready nop [])) nop = none ∧
    acceptable (withHead .ready nop []) 0 0 (u (withHead .ready nop [])) nop = true ∧
    (let s := withHead .ready (fields 64 [(0, 6, 7)]) []
     headRead s 0 0 = true ∧ malformed s 0 0 (u s) (fields 64 [(0, 6, 7)]) = some (2, 7)) ∧
    (let s := withHead .ready waits []
     let v := { u s with qcomp := 2 ^ 48 - 1 }
     malformed s 0 0 v waits = none ∧ acceptable s 0 0 v waits = false) := by decide +kernel

/-- A LAUNCH, a WAIT of a token that is mapped and of one that is not, a CHECKPOINT whose descriptor can and cannot be read, each
acceptable at the head of its queue. -/
theorem witness_Packets_kinds :
    let launch := fields 64 [(6, 1, 1), (8, 8, 0x1000), (0x18, 2, 1), (0x1A, 2, 1)]
    let d := fields 256 [(0, 8, 0x2000), (0x1E, 2, 1)]
    let wait (a : Nat) := fields 64 [(6, 1, 4), (8, 8, a), (0x10, 8, 3)]
    let ckpt := fields 64 [(6, 1, 6), (8, 8, 0x1000)]
    let u (s : State) : Queue := queueAt s 0 0
    let ok (s : State) (p : List Byte) : Prop := headRead s 0 0 = true ∧ headPacket s 0 0 = some p ∧ malformed s 0 0 (u s) p = none ∧
      acceptable s 0 0 (u s) p = true
    let got (s : State) : State := mapQueue s 0 0 (fun q => { q with poll := .got 3 })
    let l := mapCtx (withHead .ready launch [(0x1000, d), (0x2000, fields 128 []), (0x2000, fields 16 [])]) 0 (fun x => { x with grant := 0xF })
    let c := withHead .ready ckpt [(0x1000, fields 256 [(0, 2, 1), (2, 1, 7)])]
    let f : State := { withHead .ready ckpt [] with fetches := (withHead .ready ckpt []).fetches ++ [⟨.head 0 0, 0, 0x1000, 256, [], [], some 0x1000⟩] }
    ok l launch ∧ (match readLaunch l (.head 0 0) 0 0x1000 1 with | .good r => r == recOf d | _ => false) = true ∧
    ok (got (withHead .ready (wait 8) [])) (wait 8) ∧ (xlate (withHead .ready (wait 8) []) 0 8 .read).toOption.isSome = true ∧
    ok (got (withHead .ready (wait (2 ^ 57)) [])) (wait (2 ^ 57)) ∧
    (xlate (withHead .ready (wait (2 ^ 57)) []) 0 (2 ^ 57) .read).toOption.isNone = true ∧
    ok c ckpt ∧ (fetchOf c (.head 0 0) 0 0x1000 256).map Fetch.failed = some none ∧
    ok f ckpt ∧ (fetchOf f (.head 0 0) 0 0x1000 256).map Fetch.failed = some (some 0x1000) := by decide +kernel

/-- A packet that is done: its record to be sent with a plane and without one, on its way, and written; one that a reset has found. -/
theorem witness_Packets_records :
    let p : Packet := { (default : Packet) with fin := some (0, 0, 0) }
    let s (l : List Packet) : State := mapCtx (paged id) 0 (fun x => { x with
      queues := [{ (default : Queue) with lg := 4, clg := 4, cring := 0x8000, packets := l }] })
    let o := { p with recorded := true, old := true }
    let r : Req := { (default : Req) with id := 9, src := .queue 0 0, xfer := some 0, st := .plane (some 0) }
    let off : State := { s [p] with planes := (upto 8).map (fun n => (n, .dead)) }
    donePacket (s [p]) 0 0 = some (p, (0, 0, 0)) ∧ p.recorded = false ∧ ringFull (s [p]) (queueAt (s [p]) 0 0) = false ∧
    noPlane (s [p]) = false ∧ noPlane off = true ∧ donePacket off 0 0 = some (p, (0, 0, 0)) ∧
    (xlate (sendWalks (.queue 0 0) 0 (some 0) 0x8000 32 (s [p])).1 0 0x8000 .write).toOption.isSome = true ∧
    donePacket (s [{ p with recorded := true }]) 0 0 = some ({ p with recorded := true }, (0, 0, 0)) ∧
    ({ s [{ p with recorded := true }] with reqs := [r] } : State).reqs.any (Req.ofPacket 0 0 0) = true ∧
    (s [o]).reqs.any (Req.ofPacket 0 0 0) = false ∧ donePacket (s [o]) 0 0 = some (o, (0, 0, 0)) ∧
    0 < (ctxAt (s [o]) 0).queues.length ∧ (queueAt (s [p]) 0 0).comps = [] := by decide +kernel

/-! ### Homes, planes and links -/

/-- A request by core 0 on plane 0. -/
def req (p : Place) (op : ReqOp) : Req :=
  { (default : Req) with id := 9, src := .core 0, place := p, va := p.addr, op := op, st := .plane (some 0) }

/-- A line of DRAM, and a page on port 2. -/
def dramLine : Place := ⟨.stack 0, 0x40, 0⟩
def farLine : Place := ⟨.port 2, 0x40, 7⟩

/-- A write near, to a retired frame, far, held, and for a bay of a pre-empted kernel; a remote arrival. -/
theorem witness_RequestsAndHomes :
    let s (r : Req) : State := mapLink { run with reqs := [r], planes := [] } 2 (fun l => { l with st := .degraded })
    let on (r : Req) (t : State) : Bool := reqOf t 9 == some r && ready t r && !r.lost && !drainsBack t r && !r.toUnit
    let ok (r : Req) (t : State) : Bool := on r t && t.partials.all (fun p => !sameL p.place r.place) && t.reqs.all (fun q => !partFor r.place q) &&
      (slotMoved t r).isNone
    let w := req dramLine (.write [some 1] [])
    let f := req farLine (.write [some 1] [])
    let h := { w with ph := some (1, 0) }
    let v := req ⟨.vault 0, 0, 0⟩ (.write [some 1] [])
    let a := req ⟨.scratch 0, 0x10, 0⟩ .arrive
    let u := (⟨0, dramLine, 0, 8, 0, 0, 64, []⟩ : Partial).req 9 (.plane (some 0)) 0
    let e := { w with st := .echo }
    ok w (s w) = true ∧ isFar w.place = false ∧ isRetired (s w) w.place = false ∧ awayHome (s w) 0 w.place = false ∧
    isRetired { s w with retired := [(0, 16)] } w.place = true ∧ ringRoom (s w) w = true ∧ w.ph = none ∧
    (reqOf (s u) 9 = some u ∧ ready (s u) u = true ∧ u.toUnit = false ∧ u.isPart = true) ∧
    (let k := req dramLine (.token 1 0 false)
     ok k (s k) = true ∧ k.op.isToken = true ∧ awayHome (s k) 0 k.place = false) ∧
    (let l := { h with st := .held, lost := true }
     reqOf (s l) 9 = some l ∧ l.lost = true) ∧
    (∀ st ∈ [ReqSt.applied, .held, .source], reqOf (s { w with st := st }) 9 = some { w with st := st }) ∧ w.op.isToken = false ∧
    (reqOf (s e) 9 = some e ∧ e.st = .echo ∧ (s e).rehash = false ∧ routeOf (s e) e.src e.place = some 1 ∧
      planeSt (s e) 1 = .up) ∧
    ok f (s f) = true ∧ isFar f.place = true ∧ wayOpen (s f) f = true ∧ awayHome (s f) 0 f.place = false ∧
    ok h (s h) = true ∧ on v (inKernel (fun k => { k with st := .preempted }) (s v)) = true ∧
    awayHome (inKernel (fun k => { k with st := .preempted }) (s v)) v.ctx v.place = true ∧
    (let p := { req dramLine (.part 8 0 1 [4]) with id := 9 }
     on p (s p) = true ∧ drainsBack { s w with rehash := true } w = false ∧
       drainsBack { mapLink (s f) 2 (fun l => { l with st := .replay }) with rehash := true,
                                                                             reqs := [f, { f with id := 8, st := .source }] } f = true) ∧
    (let q : Queue := { (default : Queue) with ring := 0x1000, lg := 4, qtail := 1 }
     let m := mapCtx (paged id) 0 (fun x => { x with queues := [q] })
     let e := req (bigPage.place 0x1000) (.enq 0 (List.replicate 64 1))
     let t : State := { m with reqs := [e] }
     on e t = true ∧ e.ph = none ∧ slotMoved t e = some (0x1040, bigPage) ∧ awayHome t e.ctx e.place = false) ∧
    ok a (s a) = true ∧ a.isArrival = true ∧ awayHome (s a) 0 a.place = false := by decide +kernel

/-- What homes serve: a write, a register's write, a read, operations of words of 4 and of 8 bytes, CREAD and an addend of a cell, all at
lines that hold no error, for a source that holds nothing. -/
theorem witness_RequestsAndHomes_served :
    let e : State := { run with reqs := [] }
    let r (p : Place) (op : ReqOp) : Req := req p op
    let word : Place := ⟨.stack 0, 0x48, 0⟩
    let cell : Place := ⟨.stack 0, 0x60, 0⟩
    let clean_ (p : Place) (n : Nat) : Prop := clean e p ∧ p.addr % n = 0 ∧ ∀ q ∈ e.reqs, q.src = .core 0 → q.st ≠ .held
    clean_ dramLine 1 ∧ clean_ word 8 ∧ clean_ word 4 ∧ clean_ cell 32 ∧ clean e ⟨.scratch 0, 0x40, 0⟩ ∧ clean e ⟨.host, 0x40, 0⟩ ∧
    (r ⟨.mmio, 0, 0⟩ (.write ((leBytes 8 (5 : W64).toNat).map some) [])).place.home = .mmio ∧ (∀ q ∈ ([⟨60, 4, .bytes 0, 0⟩] : List Piece), q.off + q.n ≤ 64) ∧
    (9 : Nat) ≤ 9 ∧ (8 : Nat) ≤ 8 ∧ (1 : Nat) ≤ 1 := by
  have line : ∀ p : Place, p.home = .stack 0 → clean { run with reqs := [] } p := fun p h =>
    clean_stack _ p 0 h rfl (List.not_mem_nil (a := p.addr / 64)) rfl rfl
  exact ⟨⟨line _ rfl, rfl, by simp⟩, ⟨line _ rfl, rfl, by simp⟩, ⟨line _ rfl, rfl, by simp⟩, ⟨line _ rfl, rfl, by simp⟩,
    clean_scratch _ _ 0 rfl (by decide +kernel) (by decide +kernel), clean_host _ _ rfl rfl, rfl, by decide, by decide, by decide, by decide⟩

/-- An addend that begins a partial cell and one that joins one of 254 addends; a partial of 64 clk; a delivery of one sector;
the last bytes of BAR2. -/
theorem witness_RequestsAndHomes_cells :
    let a := req dramLine (.cell 8 0 false 1)
    let p : Partial := ⟨0, dramLine, 0, 8, 0, 0, 64, List.replicate 254 1⟩
    let s : State := { run with reqs := [a] }
    let d : Delivery := ⟨3, 2, 0, some (0, 0x10), [], [(0, [5])], false⟩
    let f : State := { mapMe s (fun c => { c with stall := some { freshStall with fence := true } }) with partials := [{ p with ids := [9] }] }
    reqOf s 9 = some a ∧ a.op = .cell 8 0 false 1 ∧ a.st = .plane (some 0) ∧ a.ph = none ∧ inTheWay s a = false ∧ s.partials = [] ∧
    ({ s with partials := [p] } : State).partials = [] ++ p :: [] ∧ samePlace p.place a.place = true ∧ p.ids.length < 255 ∧ 64 ≤ p.age ∧
    fencedFor f { p with ids := [9] } = true ∧ d.sectors = [(0, [5])] ∧ d.bar = some (0, 0x10) ∧ (∀ q ∈ s.reqs, q.id ∈ [5] → q.waiting = false) ∧
    awayHome s d.ctx ⟨.scratch 0, 0x10, 0⟩ = false ∧ (2 ^ 36 - 1) + ([1] : List Byte).length ≤ 2 ^ s.bar2log ∧ s.bar2log ≤ 40 ∧
    s.ckpt = none ∧ ({ s with barReads := [⟨0, [9], []⟩] } : State).barReads = [⟨0, [9], []⟩] := by decide +kernel

/-- Plane 7 among others, alone, and not UP; a rehash that is drained; page commands good, wrong, waiting and captured; a
migration whose second line is missing. -/
theorem witness_PlanesAndPages :
    let up (l : List Nat) : State := { paged id with planes := l.map (fun n => (n, .up)) ++ (upto 8).map (fun n => (n, .off)) }
    let s := paged id
    let c := paged (fun c => { c with xfers := [{ (default : Xfer) with id := 9, left := [8], pages := [⟨0, 30, 0x400000E3, 0⟩] }] })
    let r : State := { up [1] with rehash := true, rehashed := [7] }
    let m : Mig := { (default : Mig) with va := 0x10000, lg := 16, oldPa := 0x10000, newPa := 0x20000, have_ := [0] }
    planeSt (up [0, 7]) 7 = .up ∧ upPlanes (up [0, 7]) ≠ [7] ∧ upPlanes (up [7]) = [7] ∧ planeSt (up [0]) 7 ≠ .up ∧
    (0x1007 : Nat) / 2 ^ 12 % 16 = 1 ∧ (0x1007 : Nat) % 8 = 7 ∧ (0x2007 : Nat) / 2 ^ 12 % 16 ≠ 1 ∧
    planeHolds { up [0, 7] with reqs := [{ req dramLine .fetch with st := .plane (some 7) }] } 7 = true ∧
    planeHolds (up [0, 7]) 7 = false ∧ r.rehash = true ∧ drained r = true ∧ upPlanes r ≠ [] ∧ (∀ n ∈ r.rehashed, planeSt r n ≠ .up) ∧ s.pgicmd = none ∧
    captured s 0 0 0 = false ∧ captured c 0 0 0 = true ∧ migInside s 0 0 = false ∧ migInside s 0 0x10000 = true ∧
    fetchOf s .page 0 0 0 = none ∧ fetchOf (startWalk .page 0 0 .read s) .page 0 0 0 ≠ none ∧
    (fetchOf (startWalk .page 0 0 .read s) .page 0 0 0).map (fun f => allServed (startWalk .page 0 0 .read s) f.ids) = some false ∧
    (fetchOf { startWalk .page 0 0 .read s with reqs := [] } .page 0 0 0).map
      (fun f => allServed { startWalk .page 0 0 .read s with reqs := [] } f.ids) = some true ∧ migIllop s 0 0 0 = true ∧ migIllop s 0 0 0x800000E3 = false ∧
    migFault s 0 0 0x800000E3 = none ∧ migWaits s 0 0 0x800000E3 = false ∧ migWaits c 0 0 0x800000E3 = true ∧
    ({ s with migs := [m] } : State).ckpt = none ∧ (1 : Nat) < 2 ^ (m.lg - 6) ∧ 1 ∉ m.have_ ∧ (∀ l < 1, l ∈ m.have_) ∧
    m.have_.length + 1 < 2 ^ (m.lg - 6) := by decide +kernel

/-- A line to be pulled that holds no error, and one that does; the old frame is neither being filled nor retired. -/
theorem witness_PlanesAndPages_pull :
    let m : Mig := { (default : Mig) with va := 0x10000, lg := 16, oldPa := 0x10000, newPa := 0x20000, have_ := [0] }
    let s : State := { State.reset with migs := [m] }
    s.hbm.wf = true ∧ (m.oldPa + 64 * 1) % 64 = 0 ∧ (m.newPa + 64 * 1) % 64 = 0 ∧
    (∀ i, i < 64 → migOf s (m.oldPa + 64 * 1 + i) = none ∧ retiredAt s (m.oldPa + 64 * 1 + i) = false) ∧
    (m.oldPa + 64 * 1) / 64 ∉ s.hbmPoison ∧ (∀ x ∈ s.ctxs, x.2.live = false) ∧
    (m.oldPa + 64 * 1) / 64 ∈ ({ s with hbmPoison := [(m.oldPa + 64 * 1) / 64] } : State).hbmPoison := by decide +kernel

/-- Link 31 in every state; a context that uses port 2. -/
theorem witness_LinkStates :
    let s (st : LState) : State := mapLink run 31 (fun l => { l with st := st })
    let f : Msg := { (default : Msg) with slots := 1 }
    let u := mapLink (mapCtx run 0 (fun x => { x with portMask := 4 })) 2 (fun l => { l with st := .up, v := true, tx := [f] })
    (∀ st ∈ [LState.down, .training, .up, .replay, .repair, .degraded, .quiesced], (linkAt (s st) 31).st = st) ∧
    (∀ p ∈ (s .up).ctxs, p.2.live = false ∨ usesLink (s .up) 31 p.1 = false) ∧ (linkAt u 2).st ≠ .down ∧
    0 ∈ u.ctxs.map Prod.fst ∧ (∀ p ∈ u.ctxs, p.1 = 0 → p.2.live = true) ∧ usesLink u 2 0 = true := by decide +kernel

/-- Port 2 carries requests in context 0: a line of DRAM, a page of TT 3, one not mapped; an exported frame that serves a read and
not a write; messages and chains from the peer; a chain that awaits its verdict. -/
theorem witness_LinkArrivals :
    let p := mapLink (paged id) 2 (fun l => { l with st := .up, v := true, ctx := 0, peer := 7 })
    let s := mapLink { p with acl := [(513, BitVec.ofNat 256 (2 ^ 80 + 5 * 256 + 3))] } 18 (fun l => { l with st := .degraded })
    let r : ChainRec := ⟨2, 1, 2, none, 0⟩
    (linkAt s 2).flows = true ∧ (linkAt s 2).v = true ∧ (ctxAt s 0).live = true ∧ (63 + ([1] : List Byte).length ≤ 64) ∧
    (xlate s 0 (2 ^ 57) .write).toOption.isNone = true ∧
    (xlate s 0 0x7F .write).toOption.map (fun g => decide (leafTT g.leaf.toNat ≤ 2)) = some true ∧
    (xlate s 0 0x80000000 .write).toOption.map (fun g => decide (leafTT g.leaf.toNat ≤ 2)) = some false ∧
    (linkAt s (16 + 2)).flows = true ∧ (1 : Nat) < 256 ∧ aclServes (tabGet 0 s.acl (256 * 2 + 1)) 5 0xFFC0 (.read 64) = true ∧
    aclServes (tabGet 0 s.acl (256 * 2 + 1)) 5 0xFFC0 (.write [1]) = false ∧ (linkAt s 2).peer.toNat = 7 ∧
    slotsOf (linkAt s 2).rx + 64 ≤ 64 ∧ 64 < slotsOf (linkAt s 2).rx + 65 ∧ messageWindow 0x7F = false ∧
    messageWindow 0xF000000000 = true ∧ farServable (.read 65) 0 = false ∧ (xlate s 0 0x40 .atom).toOption.isSome = true ∧
    (xlate s 0 0x7F .read).toOption.isSome = true ∧ commandRefused s 0 0x40000010 16 (some 0x40000020) = false ∧
    commandRefused s 0 0 16 (some 0x40000020) = true ∧ hostWriting s = false ∧ chainWriting s = false ∧
    (let w : Req := { (default : Req) with src := .port 2, op := .write [some 1] [], st := .plane none }
     hostWriting { s with reqs := [w] } = true ∧ chainWriting { s with reqs := [w] } = false ∧
       chainWriting { s with reqs := [{ w with xfer := some 3 }] } = true) ∧
    ((xlate (sendWalks (.port 2) 0 (some 0) (2 ^ 39) 1 s).1 0 (2 ^ 39) .write).toOption.isNone = true) ∧
    ((xlate (sendWalks (.port 2) 0 (some 0) 0x7F 1 s).1 0 0x7F .write).toOption = some bigPage) ∧
    ((xlate (sendWalks (.port 2) 0 (some 0) 0x80000000 1 s).1 0 0x80000000 .write).toOption.map (fun g => decide (leafTT g.leaf.toNat ≤ 2)) =
      some false) ∧
    (let o : Staged := ⟨7, 0xFFFFFFFF, false, [], 8192⟩
     let m := mapLink s 2 (fun l => { l with staging := [o] })
     (linkAt m 2).staging.find? (fun c => c.src == 7) = some o ∧ (linkAt s 2).staging.find? (fun c => c.src == 7) = none ∧
     roomTaken [] + 65536 ≤ 65536 ∧ 65536 < roomTaken [o] + 65536 ∧ (8192 : Nat) < 8193) ∧
    (coreAt (mapCore s 0 (fun c => { c with chains := [r] })) 0).chains = [] ++ r :: [] ∧ sending s 0 = false := by
  decide +kernel
/-! ### The whole machine -/

/-- A bundle of one X slot, WNEXT p1, where core 0 fetches. -/
def placed : State := State.reset.withFetchWord 32 0x10000001

theorem witness_StepRunsDecoded :
    let c := me placed
    c.bpc < 0x20000 ∧ c.bpc % 64 + 1 + Slot.x.bytes ≤ 64 ∧ c.bPoison.contains (c.bpc / 64) = false ∧
    c.bundle.readN c.bpc (1 + Slot.x.bytes) = BitVec.ofNat 8 (2 ^ Slot.x.bit) :: leBytes Slot.x.bytes 0x10000001 ∧
    (decodeSlot .x 0x10000001).toOption = some (.wnext 1) ∧
    placed.agenda = [] ∧ dueOf placed = .issue ∧ aside placed = false ∧ aloneAt (me placed) = some (.wnext 1) ∧
    dueOf { placed with cur := 0 } = .issue ∧ aloneAt (me run) = none ∧ dueOf run = .issue ∧ aside run = false ∧
    (Instr.suppliesValid).slot? = none := by decide +kernel

/-- For RoundTrip and WordsReadOnce. -/
theorem witness_RoundTrip_and_WordsReadOnce : (Instr.wnext 1).slot? = some .x ∧ (Instr.wnext 1).wf = true ∧
    0x10000001 < 2 ^ (8 * Slot.x.bytes) ∧ (decodeSlot .x 0x10000001).toOption = some (.wnext 1) := by decide +kernel

theorem witness_AloneIsBundle :
    (me placed).life = .running ∧ fetchHeld (me placed) = false ∧ aloneAt (me placed) = some (.wnext 1) := by decide +kernel

/-- A memory with a byte is canonical, one with a zero is not. -/
theorem witness_CanonicalKept : State.reset.canonical = true ∧ ({ State.reset with hbm := [(0, 1)] } : State).canonical = true ∧
    ({ State.reset with hbm := [(0, 0)] } : State).canonical = false := by decide +kernel

theorem witness_TrapEntryAndReturn :
    (coreAt (atLevel 0) 0).nextDue = none ∧ (coreAt (atLevel 0) 0).tl = 0 ∧ (coreAt (atLevel 1) 0).nextDue = none ∧
    (coreAt (atLevel 1) 0).tl = 1 ∧ 2 ≤ (coreAt (atLevel 2) 0).tl := by decide +kernel
/-! ## Examples of the spec -/

/-- The state that a step ends in. -/
def next (o : Host.Outcome State Fault Refusal) : State :=
  match o with
  | .next t => t
  | _ => State.reset

/-- A value of a scalar register among the results in flight. -/
def inFlight (s : State) (n : Nat) : Option W64 :=
  (me s).pipe.findSome? (fun f => match f.dst with
    | .x m v => if m = n then some v else none
    | _ => none)

/-- 09_scalar, Example 1: rows 1, 3, 4, 5 and 6. -/
theorem test_divides :
    inFlight (next (execDiv 5 6 7 false (regs [(6, 7), (7, 0x100000000)]))) 5 = some 0 ∧
    inFlight (next (execDiv 5 6 7 false (regs [(6, 0x8000000000000000), (7, -1)]))) 5 = some 0x8000000000000000 ∧
    inFlight (next (execDiv 5 6 7 true (regs [(6, 0xFFFFFFFF80000000), (7, -1)]))) 5 = some 0xFFFFFFFF80000000 ∧
    inFlight (next (execRem 5 6 7 false (regs [(6, -7), (7, 2)]))) 5 = some (-1) ∧
    inFlight (next (execDivu 5 6 7 false (regs [(6, -7), (7, 2)]))) 5 = some 0x7FFFFFFFFFFFFFFC := by decide +kernel

/-- 09_scalar, Example 1, row 2: DIVZERO; x5 keeps its value and the core is at TL1. -/
theorem test_divide_by_zero :
    let t := next (execDiv 5 6 7 true (regs [(5, 3), (6, 7), (7, 0x100000000)]))
    (me t).rx 5 = 3 ∧ (me t).tl = 1 ∧ inFlight t 5 = none := by decide +kernel

/-- 02_number, Example 1: wrapping and saturating. -/
theorem test_saturation : (narrow false true 8 (0x7F + 1)).toNat = 0x80 ∧ (narrow true true 8 (0x7F + 1)).toNat = 0x7F ∧
    (narrow true false 8 (5 - 9)).toNat = 0 := by decide

/-- 02_number, Example 2: directly, through f32 with RNE, and through f32 with RTO. -/
theorem test_double_rounding :
    let v := FVal.ofBits .f64 0x3FF0020000001000
    FVal.toBits .f16 .rne v = 0x3C01 ∧ FVal.toBits .f32 .rne v = 0x3F801000 ∧ FVal.toBits .f32 .rto v = 0x3F801001 ∧
    FVal.toBits .f16 .rne (.ofBits .f32 0x3F801000) = 0x3C00 ∧ FVal.toBits .f16 .rne (.ofBits .f32 0x3F801001) = 0x3C01 := by
  decide +kernel

/-- 02_number, Example 3: values of precision 4. -/
theorem test_pni : pniValue 0xB5 4 = -72 ∧ pniValue 0x28 4 = 40 ∧ pniValue 0x03 4 = 8 ∧ pniValue 0xFE 4 = -8 := by decide +kernel

/-- 02_number, Example 4: the anchor -4 loses the small products, -5 keeps them, and the readout to bf16. -/
theorem test_anchored_sum :
    let go (x : BitVec 16) : AccEl := [0x3FA80000, 0x3D000000, 0x3D000000].foldl (fun a w => a.add (FVal.ofBits .f32 w)) (.anchor x)
    (go (-4)).gm = 21 ∧ (go (-5)).gm = 44 ∧
    (go (-5)).readout (.ofBits .f32 0x40400000) (.ofBits .f32 0x3F800000) (.flt .bf16) .rne = 0x4084 := by decide +kernel

/-- 02_number, Example 6: a window's cell. -/
theorem test_cell :
    let c := [0x3F000000, 0xBE800000, 0x35400000].foldl (fun c w => cellAdd 8 (-20) c (.ofBits .f32 w)) (mkCell 0 8 0 0xFFEC 0)
    c % 2 ^ 192 = 262144 ∧ cellState c = 0 ∧ cellRead 8 (-20) c = 0x3E800000 := by decide +kernel

end Sys2Proof.Tests
end

/-! # Ends of a bundle of one instruction

The ways in which a bundle of one instruction that nothing can hold comes to its end, besides a result on its
way: it only goes on, it branches, it raises ILLOP, or a fault of the second check is taken (R95-R97, R196, R384). -/

namespace Sys2Proof.Machine

/-! ## Bundles that only go on or branch -/

/-- An instruction that has an effect and perhaps a branch target, and asks for nothing else. -/
theorem issueAlone_effect (i : Instr) (sl : Slot) (sem : Env → State → Sem) (s : State) (f : State → State)
    (dest : Option Nat) (hsl : i.slot? = some sl) (hns : sl ≠ .m) (hr : comesToIssue s = true)
    (hsem : sem (envOf s i) s = { eff := f, redirect := dest }) (hstall : (me (f s)).stall = (me s).stall)
    (hbpc : (me (f s)).bpc = (me s).bpc) :
    issueAlone i sem s = .next (dest.elim (onward sl 1 s (f s)) (fun a => goesTo a (onward sl 1 s (f s)))) := by
  rw [issueAlone_onward i sl sem s _ hsl hr hsem (by simp [clear]) (by simp [hns]) (by simp) rfl (by simp)
    (by simpa [hstall] using stall_of_comes hr) (by simpa using hbpc)]
  cases dest <;> simp only [followed, effected, occupied, marks_nil, ite_self, Option.elim]

/-- An instruction that does nothing but let its bundle pass. -/
theorem issueAlone_passes (i : Instr) (sl : Slot) (sem : Env → State → Sem) (s : State) (hsl : i.slot? = some sl)
    (hns : sl ≠ .m) (hr : comesToIssue s = true) (hsem : sem (envOf s i) s = {}) :
    issueAlone i sem s = .next (onward sl 1 s s) :=
  issueAlone_effect i sl sem s id none hsl hns hr hsem rfl rfl

/-- An instruction that sends a result on its way and goes on at another address. -/
theorem issueAlone_lands_goesTo (i : Instr) (sl : Slot) (sem : Env → State → Sem) (s : State) (lat a : Nat) (d : Landing)
    (hsl : i.slot? = some sl) (hns : sl ≠ .m) (hr : comesToIssue s = true)
    (hsem : sem (envOf s i) s = { eff := fly (insidePhase s) lat d, redirect := some a }) :
    issueAlone i sem s = .next (goesTo a (lands sl lat d s)) :=
  issueAlone_effect i sl sem s _ (some a) hsl hns hr hsem (by simp) (by simp)

/-- An instruction of the S slot whose one effect is a result in a scalar register. -/
theorem issueAlone_toX (i : Instr) (sem : Env → State → Sem) (s : State) (lat : Nat) (d : XNo) (v : W64)
    (hsl : i.slot? = some .s) (hr : comesToIssue s = true)
    (hsem : sem (envOf s i) s = toX lat (envOf s i) d v) :
    issueAlone i sem s = .next (lands .s lat (.x d.toNat v) s) :=
  issueAlone_lands i .s sem s lat (.x d.toNat v) hsl (by decide) hr hsem

/-! ## Bundles that take a cause -/

/-- An instruction that names no scoreboard object and makes no further condition of a stall (R70). -/
structure Sem.Unheld (m : Sem) : Prop where
  reads : m.reads = []
  writes : m.writes = []
  stall : m.stall = false
  drain : m.drain = false
  walks : m.walks = []
  sends : m.sends = false
  fence : m.fence = false

@[simp] theorem only_word (sl : Slot) (w : Nat) (m : Sem) : (only sl w m).word = w := rfl

theorem stalled_only_of_unheld (s : State) (sl : Slot) (w : Nat) {m : Sem} (h : m.Unheld) :
    stalled s [only sl w m] = false := by
  simp [stalled, objsHeld, mustWalk, gateHeld, fenceHeld, h.reads, h.writes, h.stall, h.drain, h.walks, h.sends, h.fence]

/-- ILLOP of reason 5 is the cause where nothing else is to be found (R95, R384). -/
theorem takenCause_only_illop (c : Core) (sl : Slot) (w : Nat) {m : Sem} (hi : m.illop = true) (hk : m.linkerr = none)
    (hl : m.late = []) : takenCause c [only sl w m] = some (illopAt sl w 5) := by
  have hreason : reasonOf c [only sl w m] (only sl w m) = some 5 := by
    simp only [reasonOf, only, hi, Bool.true_or, if_true]
  simp [takenCause, checks, firstIllop, hreason, hk, hl, firstLate]

/-- The one fault of an instruction that the first check lets pass is the cause (R97, R384). -/
theorem takenCause_only_late (c : Core) (sl : Slot) (w : Nat) {m : Sem} {l : Late} (hi : m.illop = false)
    (hlog : m.logs = false) (hu : m.unit = none) (hk : m.linkerr = none) (hl : m.late = [l]) :
    takenCause c [only sl w m] = some l := by
  have hreason : reasonOf c [only sl w m] (only sl w m) = none := by
    simp [reasonOf, only, hi, hlog, hu]
  simp [takenCause, checks, firstIllop, hreason, hk, hl, firstLate]

/-- A cause of the second check that cancels no phase is a fault of the bundle. -/
theorem issueAlone_fault (i : Instr) (sl : Slot) (sem : Env → State → Sem) (s : State) (m : Sem) (l : Late)
    (hsl : i.slot? = some sl) (hr : comesToIssue s = true) (hsem : sem (envOf s i) s = m) (hm : m.Unheld)
    (htake : takenCause (me s) [only sl (encode i) m] = some l) (hcan : l.cancel = false) :
    issueAlone i sem s = .next (fault (l.fix s) l.cause l.deta l.detb) := by
  obtain ⟨hlife, hearly, -⟩ := (comesToIssue_iff s).1 hr
  have henv : envOf s i = ⟨phaseOf s (me s), (me s).bpc + 1 + sl.bytes, encode i⟩ := by simp [envOf, hsl]
  have htodo : todoOf (me s) [only sl (encode i) m] = [only sl (encode i) m] := by simp [todoOf, hearly]
  have hattempt : attempt [only sl (encode i) m] ((me s).bpc + 1 + sl.bytes) s =
      fault (l.fix s) l.cause l.deta l.detb := by
    simp [attempt, htodo, stalled_only_of_unheld s sl _ hm, secondCheck, htake, hcan]
  rw [henv] at hsem
  subst hsem
  simp only [issueAlone, hlife, hsl, Option.getD_some, bne_self_eq_false, Bool.false_eq_true, if_false]
  exact congrArg _ hattempt

/-- An instruction whose operands break its limits raises ILLOP with reason 5 (R95). -/
theorem issueAlone_illegal (i : Instr) (sl : Slot) (sem : Env → State → Sem) (s : State) (m : Sem)
    (hsl : i.slot? = some sl) (hr : comesToIssue s = true) (hsem : sem (envOf s i) s = m) (hm : m.Unheld)
    (hi : m.illop = true) (hk : m.linkerr = none) (hl : m.late = []) :
    issueAlone i sem s = .next (illegal i s) := by
  rw [issueAlone_fault i sl sem s m _ hsl hr hsem hm (takenCause_only_illop (me s) sl _ hi hk hl) rfl]
  simp only [illegal, hsl, Option.getD_some]
  rfl

end Sys2Proof.Machine

/-! # The numbers behind scalar operands and results

The readings of an operand at the width of its form, the
results put back at that width, and fields of a word (R183, R184, R187, R188). -/

namespace Sys2Proof.Machine

/-! ## Operands and results at the width of a form (R183) -/

theorem sextI_eq_toInt (v : Nat) {n : Nat} (hn : 0 < n) : sextI v n = (BitVec.ofNat n v).toInt := by
  obtain ⟨k, rfl⟩ : ∃ k, n = k + 1 := ⟨n - 1, by omega⟩
  have hhalf : v % 2 ^ (k + 1) < 2 ^ k ↔ 2 * (v % 2 ^ (k + 1)) < 2 ^ (k + 1) := by rw [Nat.pow_succ]; omega
  simp only [sextI, BitVec.toInt_eq_toNat_cond, BitVec.toNat_ofNat, Nat.add_sub_cancel, hhalf, Int.natCast_pow,
    Int.cast_ofNat_Int]

@[simp] theorem opI_wide (v : W64) : opI false v = v.toInt := rfl
@[simp] theorem opI_low (v : W64) : opI true v = (low v).toInt := sextI_eq_toInt _ (by decide)
@[simp] theorem opN_wide (v : W64) : opN false v = v.toNat := rfl
@[simp] theorem opN_low (v : W64) : opN true v = (low v).toNat := (BitVec.toNat_setWidth 32 v).symm

/-- An operand is zero at the width of its form. -/
theorem opN_eq_zero_iff (w : Bool) (v : W64) : opN w v = 0 ↔ if w then low v = 0 else v = 0 := by
  cases w <;> simp [← BitVec.toNat_inj]

@[simp] theorem result_wide (v : Int) : result false false v = BitVec.ofInt 64 v := rfl
@[simp] theorem result_low (v : Int) : result true false v = (BitVec.ofInt 32 v).signExtend 64 := rfl

/-! ## Quotients and remainders (R184) -/

theorem ofInt_tdiv_toInt {n : Nat} (x y : BitVec n) : BitVec.ofInt n (x.toInt.tdiv y.toInt) = x.sdiv y :=
  BitVec.eq_of_toInt_eq (by rw [BitVec.toInt_ofInt, BitVec.toInt_sdiv])

theorem ofInt_tmod_toInt {n : Nat} (x y : BitVec n) : BitVec.ofInt n (x.toInt.tmod y.toInt) = x.srem y := by
  rw [← BitVec.toInt_srem, BitVec.ofInt_toInt]

theorem ofInt_div_toNat {n : Nat} (x y : BitVec n) :
    BitVec.ofInt n ((x.toNat / y.toNat : Nat) : Int) = x.udiv y := by
  rw [BitVec.ofInt_natCast, BitVec.udiv_eq, BitVec.udiv_def]

theorem ofInt_mod_toNat {n : Nat} (x y : BitVec n) :
    BitVec.ofInt n ((x.toNat % y.toNat : Nat) : Int) = x.umod y := by
  rw [BitVec.ofInt_natCast, BitVec.umod_eq, BitVec.umod_def]

/-! ## Fields (R187, R188) -/

/-- A word moved up by 16 bits leaves room for an immediate. -/
theorem n64_shift_add (x : W64) (imm : BitVec 16) :
    n64 (x.toNat * 2 ^ 16 + imm.toNat) = (x <<< 16) ||| imm.zeroExtend 64 := by
  apply BitVec.eq_of_toNat_eq
  have himm : imm.toNat < 2 ^ 16 := imm.isLt
  rw [n64, BitVec.toNat_ofNat, ← Nat.shiftLeft_eq, Nat.shiftLeft_add_eq_or_of_lt himm, Nat.or_mod_two_pow]
  simp

theorem ofNat_field (x : W64) (pos n : Nat) :
    BitVec.ofNat n (x.toNat / 2 ^ pos % 2 ^ n) = x.extractLsb' pos n := by
  apply BitVec.eq_of_toNat_eq
  simp [Nat.shiftRight_eq_div_pow]

theorem n64_field (x : W64) (pos n : Nat) :
    n64 (x.toNat / 2 ^ pos % 2 ^ n) = (x.extractLsb' pos n).zeroExtend 64 := by
  apply BitVec.eq_of_toNat_eq
  rw [← ofNat_field]
  simp [n64]

theorem w64_sextI_field (x : W64) (pos : Nat) {n : Nat} (hn : 0 < n) :
    w64 (sextI (x.toNat / 2 ^ pos % 2 ^ n) n) = (x.extractLsb' pos n).signExtend 64 := by
  rw [sextI_eq_toInt _ hn, ofNat_field]
  rfl

/-- The mask of a field of `n` bits from bit `pos` on. -/
def fieldMask (pos n : Nat) : W64 := ((1#64 <<< n) - 1) <<< pos

theorem toNat_one_shiftLeft_sub_one {n : Nat} (hn : n ≤ 64) : ((1#64 <<< n) - 1).toNat = 2 ^ n - 1 := by
  rcases Nat.lt_or_eq_of_le hn with hlt | rfl
  · have hpow : 2 ^ n < 2 ^ 64 := Nat.pow_lt_pow_right (by decide) hlt
    have hpos := Nat.two_pow_pos n
    rw [← BitVec.twoPow_eq, BitVec.toNat_sub, BitVec.toNat_twoPow, Nat.mod_eq_of_lt hpow]
    change (2 ^ 64 - 1 + 2 ^ n) % 2 ^ 64 = _
    omega
  · decide

theorem getLsbD_fieldMask {pos n i : Nat} (hn : n ≤ 64) (hi : i < 64) :
    (fieldMask pos n).getLsbD i = (decide (pos ≤ i) && decide (i < pos + n)) := by
  rw [fieldMask, BitVec.getLsbD_shiftLeft, BitVec.getLsbD, toNat_one_shiftLeft_sub_one hn, Nat.testBit_two_pow_sub_one]
  simp only [hi, decide_true, Bool.true_and, Nat.not_lt, ← decide_not]
  grind

/-- A field of a number replaced: the number below, the new field, and the number above it. -/
theorem testBit_putField (v f pos n i : Nat) :
    (v - v / 2 ^ pos % 2 ^ n * 2 ^ pos + f % 2 ^ n * 2 ^ pos).testBit i =
      if i < pos then v.testBit i else if i < pos + n then f.testBit (i - pos) else v.testBit i := by
  have hsplit : v - v / 2 ^ pos % 2 ^ n * 2 ^ pos + f % 2 ^ n * 2 ^ pos =
      2 ^ pos * (2 ^ n * (v / 2 ^ pos / 2 ^ n) + f % 2 ^ n) + v % 2 ^ pos := by
    have h : 2 ^ pos * (2 ^ n * (v / 2 ^ pos / 2 ^ n) + v / 2 ^ pos % 2 ^ n) + v % 2 ^ pos = v := by
      rw [Nat.div_add_mod, Nat.div_add_mod]
    rw [Nat.mul_add, Nat.mul_comm _ (_ % _)] at h ⊢
    omega
  rw [hsplit, Nat.testBit_two_pow_mul_add _ (Nat.mod_lt _ (Nat.two_pow_pos pos)),
    Nat.testBit_two_pow_mul_add _ (Nat.mod_lt _ (Nat.two_pow_pos n))]
  simp only [Nat.testBit_mod_two_pow, Nat.testBit_div_two_pow]
  grind

/-- A field of a word replaced, by numbers and by a mask. -/
theorem n64_putField (d x : W64) {pos n : Nat} (h : pos + n ≤ 64) :
    n64 (d.toNat - d.toNat / 2 ^ pos % 2 ^ n * 2 ^ pos + x.toNat % 2 ^ n * 2 ^ pos) =
      (d &&& ~~~fieldMask pos n) ||| ((x <<< pos) &&& fieldMask pos n) := by
  apply BitVec.eq_of_getLsbD_eq
  intro i hi
  have hmask : (fieldMask pos n).getLsbD i = (decide (pos ≤ i) && decide (i < pos + n)) := getLsbD_fieldMask (by omega) hi
  simp only [n64, BitVec.getLsbD_ofNat, testBit_putField, BitVec.getLsbD_or, BitVec.getLsbD_and, BitVec.getLsbD_not,
    BitVec.getLsbD_shiftLeft, hmask, hi, decide_true, Bool.true_and]
  by_cases hlow : i < pos
  · simp [hlow, Nat.not_le.2 hlow, BitVec.getLsbD]
  · by_cases hin : i < pos + n
    · simp [hlow, hin, Nat.not_lt.1 hlow, BitVec.getLsbD]
    · simp [hlow, hin, BitVec.getLsbD]

end Sys2Proof.Machine

/-! # The divides (09_scalar R184, R185) -/

namespace Sys2Proof.Machine

theorem divide_of_ne_zero (e : Env) (d : XNo) (w : Bool) (a b : W64) (v : Int) (hb : opN w b ≠ 0) :
    divide e d w a b v = toX 12 e d (result w false v) := by
  simp only [divide, if_neg hb]
  rfl

/-- DIVZERO with the dividend and the instruction word (R185). -/
def divZero (e : Env) (a : W64) : Late := ⟨rank 7 0, false, 2, a, n64 e.word, id⟩

theorem divide_late_of_eq_zero (e : Env) (d : XNo) (w : Bool) (a b : W64) (v : Int) (hb : opN w b = 0) :
    (divide e d w a b v).late = [divZero e a] := if_pos hb

theorem divide_unheld (e : Env) (d : XNo) (w : Bool) (a b : W64) (v : Int) : (divide e d w a b v).Unheld :=
  ⟨rfl, rfl, rfl, rfl, rfl, rfl, rfl⟩

section
variable (i : Instr) (sem : Env → State → Sem) (s : State) (d : XNo) (w : Bool) (a b : W64) (v : Int)
  (hsl : i.slot? = some .s) (hr : comesToIssue s = true) (hsem : sem (envOf s i) s = divide (envOf s i) d w a b v)
include hsl hr hsem

/-- A divide by a divisor that is not zero. -/
theorem issueAlone_divide (hb : opN w b ≠ 0) :
    issueAlone i sem s = .next (lands .s 12 (.x d.toNat (result w false v)) s) :=
  issueAlone_toX i sem s 12 d _ hsl hr (hsem.trans (divide_of_ne_zero _ d w a b v hb))

/-- A divide by zero: the trap takes the place of the result. -/
theorem issueAlone_divide_by_zero (hb : opN w b = 0) :
    issueAlone i sem s = .next (trapOn s s.cur 0x02 a (BitVec.ofNat 64 (encode i)) (me s).bpc (me s).lpc false) :=
  issueAlone_fault i .s sem s _ (divZero (envOf s i) a) hsl hr hsem (divide_unheld _ d w a b v)
    (takenCause_only_late (me s) .s _ rfl rfl rfl rfl (divide_late_of_eq_zero _ d w a b v hb)) rfl

end

/-- Settles O3: each divide lands its result, which is the word's own quotient or remainder at either width. -/
theorem divides : Obligations.Divides := by
  intro s d a b hr
  refine ⟨fun hy => ?_, fun hy => ?_⟩
  · have hb : opN false ((me s).rx b.toNat) ≠ 0 := mt (opN_eq_zero_iff false _).1 hy
    refine ⟨?_, ?_, ?_, ?_⟩
    · rw [← ofInt_tdiv_toInt]
      exact issueAlone_divide (.div d a b false) _ s d false _ _ _ rfl hr rfl hb
    · rw [← ofInt_div_toNat]
      exact issueAlone_divide (.divu d a b false) _ s d false _ _ _ rfl hr rfl hb
    · rw [← ofInt_tmod_toInt]
      exact issueAlone_divide (.rem d a b false) _ s d false _ _ _ rfl hr rfl hb
    · rw [← ofInt_mod_toNat]
      exact issueAlone_divide (.remu d a b false) _ s d false _ _ _ rfl hr rfl hb
  · have hb : opN true ((me s).rx b.toNat) ≠ 0 := mt (opN_eq_zero_iff true _).1 hy
    refine ⟨?_, ?_, ?_, ?_⟩
    · rw [← ofInt_tdiv_toInt, ← opI_low, ← opI_low]
      exact issueAlone_divide (.div d a b true) _ s d true _ _ _ rfl hr rfl hb
    · rw [← ofInt_div_toNat, ← opN_low, ← opN_low]
      exact issueAlone_divide (.divu d a b true) _ s d true _ _ _ rfl hr rfl hb
    · rw [← ofInt_tmod_toInt, ← opI_low, ← opI_low]
      exact issueAlone_divide (.rem d a b true) _ s d true _ _ _ rfl hr rfl hb
    · rw [← ofInt_mod_toNat, ← opN_low, ← opN_low]
      exact issueAlone_divide (.remu d a b true) _ s d true _ _ _ rfl hr rfl hb

/-- Settles O4: the one fault of a divide by zero is taken at its bundle, before any effect. -/
theorem divideByZero : Obligations.DivideByZero := by
  intro s d a b w hr hy
  have hb : opN w ((me s).rx b.toNat) = 0 := (opN_eq_zero_iff w _).2 hy
  exact ⟨issueAlone_divide_by_zero (.div d a b w) _ s d w _ _ _ rfl hr rfl hb,
    issueAlone_divide_by_zero (.divu d a b w) _ s d w _ _ _ rfl hr rfl hb,
    issueAlone_divide_by_zero (.rem d a b w) _ s d w _ _ _ rfl hr rfl hb,
    issueAlone_divide_by_zero (.remu d a b w) _ s d w _ _ _ rfl hr rfl hb⟩

end Sys2Proof.Machine

/-! # Immediates, constants, bit fields and the literal store (09_scalar R186-R188, R201) -/

namespace Sys2Proof.Machine

theorem semBfx_of_le (d a : XNo) (se : Bool) (len pos : BitVec 6) (e : Env) (s : State)
    (h : pos.toNat + len.toNat + 1 ≤ 64) :
    semBfx d a se len pos e s =
      let f : BitVec (len.toNat + 1) := (xv s a).extractLsb' pos.toNat (len.toNat + 1)
      toX 1 e d (if se then f.signExtend 64 else f.zeroExtend 64) := by
  have hill : decide (64 < pos.toNat + (len.toNat + 1)) = false := by simp; omega
  simp only [semBfx, hill, w64_sextI_field _ _ (Nat.succ_pos _), n64_field]
  rfl

theorem semBfi_of_le (d a : XNo) (len pos : BitVec 6) (e : Env) (s : State) (h : pos.toNat + len.toNat + 1 ≤ 64) :
    semBfi d a len pos e s =
      let field := fieldMask pos.toNat (len.toNat + 1)
      toX 1 e d ((xv s d &&& ~~~field) ||| ((xv s a <<< pos.toNat) &&& field)) := by
  have hill : decide (64 < pos.toNat + (len.toNat + 1)) = false := by simp; omega
  simp only [semBfi, hill, n64_putField _ _ (show pos.toNat + (len.toNat + 1) ≤ 64 by omega)]
  rfl

/-- Settles O5: each instruction only sends its value on its way; for LIS and the bit fields the model's number is
the word that shifts and masks make. -/
theorem immediates : Obligations.Immediates := by
  intro s d a imm k len pos hr
  refine ⟨?addi, ?andi, ?ori, ?xori, ?li, ?lis, ?litr, fun hfit => ⟨?bfxZero, ?bfxSign, ?bfi⟩⟩
  case addi => exact issueAlone_toX (.addi d a imm) _ s 1 d _ rfl hr rfl
  case andi => exact issueAlone_toX (.andi d a imm) _ s 1 d _ rfl hr rfl
  case ori => exact issueAlone_toX (.ori d a imm) _ s 1 d _ rfl hr rfl
  case xori => exact issueAlone_toX (.xori d a imm) _ s 1 d _ rfl hr rfl
  case li => exact issueAlone_toX (.li d imm) _ s 1 d _ rfl hr rfl
  case lis =>
    rw [← n64_shift_add]
    exact issueAlone_toX (.lis d a imm) _ s 1 d _ rfl hr rfl
  case litr => exact issueAlone_toX (.litr d a k) _ s 1 d _ rfl hr rfl
  case bfxZero => exact issueAlone_toX (.bfx d a false len pos) _ s 1 d _ rfl hr (semBfx_of_le d a false len pos _ s hfit)
  case bfxSign => exact issueAlone_toX (.bfx d a true len pos) _ s 1 d _ rfl hr (semBfx_of_le d a true len pos _ s hfit)
  case bfi => exact issueAlone_toX (.bfi d a len pos) _ s 1 d _ rfl hr (semBfi_of_le d a len pos _ s hfit)

end Sys2Proof.Machine

/-! # LOOP (09_scalar R195, R196) -/

namespace Sys2Proof.Machine

theorem outside_eq_true_iff (t : Int) : outside t = true ↔ t < 0 ∨ 0x20000 ≤ t := by simp [outside]

theorem outside_eq_false {t : Int} (h0 : 0 ≤ t) (h1 : t < 0x20000) : outside t = false := by
  simp only [outside, Bool.or_eq_false_iff, decide_eq_false_iff_not]
  omega

theorem branchTo_of_inside {t : Int} {m : Sem} (h0 : 0 ≤ t) (h1 : t < 0x20000) :
    branchTo t m = { m with redirect := some t.toNat } := by
  simp only [branchTo, outside_eq_false h0 h1, Bool.or_false]

theorem branchTo_illop_of_outside {t : Int} {m : Sem} (h : t < 0 ∨ 0x20000 ≤ t) : (branchTo t m).illop = true := by
  simp only [branchTo, (outside_eq_true_iff t).2 h, Bool.or_true]

/-! ## The cases of LOOP -/

section
variable {c : XNo} (disp : BitVec 21) (e : Env) (s : State)

theorem semLoop_x0 : semLoop 0 disp e s = { illop := true } := rfl

theorem semLoop_zero (hc : c ≠ 0) (hn : (xv s c).toNat = 0) : semLoop c disp e s = {} := by
  simp only [semLoop, if_neg hc, if_pos hn]

theorem semLoop_one (hc : c ≠ 0) (hn : (xv s c).toNat = 1) :
    semLoop c disp e s = toX 1 e c (n64 ((xv s c).toNat - 1)) := by
  simp only [semLoop, if_neg hc, if_neg (show (xv s c).toNat ≠ 0 by omega), if_pos hn]

theorem semLoop_taken (hc : c ≠ 0) (hn : 2 ≤ (xv s c).toNat) :
    semLoop c disp e s = branchTo (target (me s).bpc disp) (toX 1 e c (n64 ((xv s c).toNat - 1))) := by
  simp only [semLoop, if_neg hc, if_neg (show (xv s c).toNat ≠ 0 by omega), if_neg (show (xv s c).toNat ≠ 1 by omega)]

end

/-- Settles O8, by the counter's register and its value: x0, and counts of 0, of 1 and of more. -/
theorem loop : Obligations.Loop := by
  intro s c disp hr
  refine ⟨?x0, fun hc hn => ?zero, fun hc hn => ?one, fun hc hn h0 h1 => ?inside, fun hc hn hout => ?outside⟩
  case x0 =>
    rintro rfl
    exact issueAlone_illegal (.loop 0 disp) .s _ s _ rfl hr (semLoop_x0 disp _ s) ⟨rfl, rfl, rfl, rfl, rfl, rfl, rfl⟩
      rfl rfl rfl
  case zero => exact issueAlone_passes (.loop c disp) .s _ s rfl (by decide) hr (semLoop_zero disp _ s hc hn)
  case one => exact issueAlone_toX (.loop c disp) _ s 1 c _ rfl hr (semLoop_one disp _ s hc hn)
  case inside =>
    exact issueAlone_lands_goesTo (.loop c disp) .s _ s 1 _ _ rfl (by decide) hr
      ((semLoop_taken disp _ s hc hn).trans (branchTo_of_inside h0 h1))
  case outside =>
    exact issueAlone_illegal (.loop c disp) .s _ s _ rfl hr (semLoop_taken disp _ s hc hn)
      ⟨rfl, rfl, rfl, rfl, rfl, rfl, rfl⟩ (branchTo_illop_of_outside hout) rfl rfl

end Sys2Proof.Machine
